-- ==== Sys2Proof/Word.lean ====
section
/-!
DEFINITION. The word types of the N512 and nothing else (R3, R4): bytes, 32- and 64-bit words, the 64-byte
command or descriptor, package addresses, and sparse tables.
-/
namespace Sys2Proof

/-- One byte of memory. -/
abbrev Byte := BitVec 8

/-- A 32-bit word: a command word, a clasp, an FP32 code. -/
abbrev W32 := BitVec 32

/-- A 64-bit register or word. -/
abbrev W64 := BitVec 64

/-- A 64-byte block: a command (R192), a tensor descriptor (R229), a memory block. -/
abbrev Block := BitVec 512

/-- A package physical address (R57), kept as the number it is. -/
abbrev Addr := Nat

/-- A table by number, in one canonical form: numbers strictly rising, and no entry equal to the table's
default. An absent number reads as that default, which the reader of the table names. -/
abbrev Sparse (α : Type) := List (Nat × α)

end Sys2Proof
end

