-- ==== Sys2Proof/Syntax.lean ====
section
/-!
DEFINITION. The commands of the block: one constructor per row of the table of operations and events, with
the operands that the row's rule gives it. A row that happens to one unit names that unit; a row that is a
register write carries the value written; a row that is an arriving frame carries the frame; a row that ends
with an outside observation (a self-test result, a sample) carries what was observed.
-/
namespace Sys2Proof

/-- A logical cluster 0 to 511 (R28). -/
abbrev ClusterId := Fin 512
/-- A quadrant, and the hub of that number (R4, R9). -/
abbrev Quad := Fin 4
/-- A Plemon link PL0 to PL19 (R4). -/
abbrev LinkId := Fin 20
/-- A stack M0 to M23 (R4). -/
abbrev StackId := Fin 24
/-- An Izaux edge E0 to E75 (R42). -/
abbrev EdgeId := Fin 76
/-- A die by number: tile sites 0 to 35, hubs H0 to H3 as 36 to 39 (R42). -/
abbrev DieId := Fin 40
/-- A clasp 0 to 47 of a cluster (R4). -/
abbrev ClaspId := Fin 48
/-- A job id 0 to 1,023 (R305). -/
abbrev JobId := Fin 1024
/-- A resident program slot 0 to 7 (R218). -/
abbrev ProgSlot := Fin 8

/-- The four completion registers of a cluster (R227): matrix, vector and copy engine, and forwarded
collective and update commands. -/
inductive Executor where
  | mx | vx | cx | hub
  deriving DecidableEq, Repr

/-- A firmware processor (R433). -/
inductive Proc where
  | custodian | bursar | registrar
  | curator (c : ClusterId)
  deriving DecidableEq, Repr

/-- A set of staging registers (R347): those of the package page, or those of the partition page of
lowest quadrant `q`. -/
inductive StageSet where
  | pkg
  | part (q : Quad)
  deriving DecidableEq, Repr

/-- An SRAM that the row scrubber walks (R281). -/
inductive SramStore where
  | carrel (c : ClusterId)
  | ledger (h : Quad)
  deriving DecidableEq, Repr

/-- A packet of the fabric (R313): the header fields, and the payload bytes. `len` is in 64-byte units; `crc` is what the sender of a
hop computed. -/
structure Packet where
  kind       : BitVec 4
  vclass     : BitVec 2
  vc         : Bool
  lock       : Bool
  lockDir    : Bool
  job        : BitVec 10
  dstPkg     : BitVec 13
  srcPkg     : BitVec 13
  srcCluster : BitVec 9
  dstCluster : BitVec 9
  epoch      : BitVec 16
  stamp      : BitVec 32
  addr       : BitVec 48
  len        : BitVec 4
  seq        : BitVec 12
  ack        : BitVec 12
  aux        : BitVec 32
  payload    : List Byte
  crc        : BitVec 32 := 0
  deriving DecidableEq, Repr

/-- A packet as the receiver of link `link` sees it (R287, R288): the outcome of its check of `crc` over header and
payload, and how many of its codewords the FEC decode corrected and could not correct. -/
structure Arrival where
  link  : LinkId
  crcOk : Bool
  fixed : Nat
  bad   : Nat
  pkt   : Packet
  deriving DecidableEq, Repr

/-- An Izaux flit as its receiver sees it (R45): its place in the sender's order, its content, the outcome of
the CRC-16 check, and the lanes whose parity bit is in error. -/
structure Flit where
  seq       : Nat
  data      : Block
  crcOk     : Bool
  laneError : List (Fin 66)
  deriving DecidableEq, Repr

/-- One reading of every sensor (R498, R500), in degrees Celsius; `none` is a failed sensor. `dies` holds the
36 tile dies, the four hubs, the 24 stacks and the steward die, in that order. -/
structure EnvSample where
  dies   : List (Option Nat)
  inlet  : Option Nat
  outlet : Option Nat
  pinW   : Nat
  deriving DecidableEq, Repr

/-- What the dies, edges and stacks answered in the phase of a reset that ends (R23, R32, R44, R466, R481):
the dies that failed self-test, the edges that failed to train, how many of the units still to be dumped the archive
writer reached before the 50 ms bound, and how long the phase lasted. -/
structure PhaseObs where
  failedDies  : List DieId
  failedEdges : List EdgeId
  unitsRead   : Nat
  durationUs  : BitVec 32
  deriving DecidableEq, Repr

/-- A request waiting at a memory controller (R67 to R69): its HBM address, its issue stamp and its source number in the order of
R68: logical clusters 0 to 511, hubs 512 to 515, the steward 516, then the Plemon ports of the hub from 517. -/
structure MemReq where
  addr   : Addr
  stamp  : BitVec 32
  source : Nat
  deriving DecidableEq, Repr

/-- Who makes a host access (R277, R431). -/
inductive HostAgent where
  | load | fetch | store | pcieRead | pcieWrite
  deriving DecidableEq, Repr

/-- A host, steward or PCI Express access: `data` is empty for a read, and the bytes written for a write. -/
structure HostReq where
  agent : HostAgent
  addr  : Addr
  size  : Nat
  data  : List Byte
  deriving DecidableEq, Repr

/-- A write of a register: its address, the size in bytes, and the value (R439, R440). -/
structure RegWrite where
  addr  : Addr
  size  : Nat
  value : W64
  deriving DecidableEq, Repr

/-- The commands: one constructor per row of the table, in the table's order. -/
inductive Instr where
  /-- POWER_ON (R487). -/
  | powerOn
  /-- VIN_SAMPLE (R488): both blades, in units of 0.1 V. -/
  | vinSample (a b : Nat)
  /-- PKG_RESET_PIN (R494). -/
  | pkgResetPin
  /-- THERMAL_SAMPLE (R498, R499). -/
  | thermalSample (e : EnvSample)
  /-- PARTITION_RESET_REQUEST (R467): the value written to STW_RESET_CTL. -/
  | partitionResetRequest (v : W64)
  /-- PACKAGE_RESET_REQUEST (R467): the value written to STW_RESET_CTL. -/
  | packageResetRequest (v : W64)
  /-- PARTITION_RESET_PHASE_END (R470). -/
  | partitionResetPhaseEnd (q : Quad) (o : PhaseObs)
  /-- PACKAGE_RESET_PHASE_END (R485). -/
  | packageResetPhaseEnd (o : PhaseObs)
  /-- ARCHIVE_UNIT_TIMEOUT (R481): in the dump of quadrant `q`'s reset, or the package's, `before` units answer and the next
  does not; whether the scan ring reads it. -/
  | archiveUnitTimeout (pkg : Bool) (q : Quad) (before : Nat) (scanOk : Bool)
  /-- FLIT_RECEIVE (R45). -/
  | flitReceive (e : EdgeId) (slice : Fin 16) (dir : Bool) (f : Flit)
  /-- LANE_FAILURE (R46). -/
  | laneFailure (e : EdgeId) (slice : Fin 16) (dir : Bool) (lane : Fin 66)
  /-- LANE_REPLACED (R46). -/
  | laneReplaced (e : EdgeId) (slice : Fin 16) (dir : Bool)
  /-- SLICE_RETIRE (R47). -/
  | sliceRetire (e : EdgeId) (slice : Fin 16)
  /-- REWEIGHT_DRAIN_END (R56). -/
  | reweightDrainEnd (router : DieId)
  /-- LANE_REPAIR_RECORD (R50). -/
  | laneRepairRecord
  /-- REQUEST_AGE_BLOCK (R69). -/
  | requestAgeBlock (a : Addr) (stamp : BitVec 32) (source : Nat)
  /-- MERGE_COMMIT (R279): the block address of the entry. -/
  | mergeCommit (block : Addr)
  /-- CARREL_SCRUB_ROW (R281). -/
  | carrelScrubRow (st : SramStore) (bank : Fin 512)
  /-- HBM_SCRUB_BLOCK (R282). -/
  | hbmScrubBlock (m : StackId)
  /-- FOLIO_FETCH (R191). -/
  | folioFetch (c : ClusterId)
  /-- CURATOR_DISPATCH (R188). -/
  | curatorDispatch (c : ClusterId)
  /-- MMA (R105). -/
  | mma (c : ClusterId)
  /-- MMA_COMPUTE_END (R123). -/
  | mmaComputeEnd (c : ClusterId)
  /-- MMA_EPILOGUE_END (R123). -/
  | mmaEpilogueEnd (c : ClusterId)
  /-- VOP (R133). -/
  | vop (c : ClusterId)
  /-- VFUNC (R143). -/
  | vfunc (c : ClusterId)
  /-- FUNC_LOAD_RESIDENT (R138). -/
  | funcLoadResident (c : ClusterId)
  /-- VROWSTAT (R147). -/
  | vrowstat (c : ClusterId)
  /-- VNORM_FWD (R150). -/
  | vnormFwd (c : ClusterId)
  /-- VNORM_BWD (R151). -/
  | vnormBwd (c : ClusterId)
  /-- VSOFTMAX_FWD (R153). -/
  | vsoftmaxFwd (c : ClusterId)
  /-- VSOFTMAX_BWD (R154). -/
  | vsoftmaxBwd (c : ClusterId)
  /-- VCONV (R137). -/
  | vconv (c : ClusterId)
  /-- COPY (R239). -/
  | copy (c : ClusterId)
  /-- COPY2D (R239). -/
  | copy2d (c : ClusterId)
  /-- COPYT (R261). -/
  | copyt (c : ClusterId)
  /-- REBLOCK (R263). -/
  | reblock (c : ClusterId)
  /-- GATHER (R267). -/
  | gather (c : ClusterId)
  /-- SCATTER (R239). -/
  | scatter (c : ClusterId)
  /-- WAIT (R254). -/
  | wait (c : ClusterId)
  /-- SIGNAL (R254). -/
  | signal (c : ClusterId)
  /-- FENCE (R254). -/
  | fence (c : ClusterId)
  /-- FENCE_SATISFIED (R254). -/
  | fenceSatisfied (c : ClusterId)
  /-- CALL (R190). -/
  | call (c : ClusterId)
  /-- TIMEAT (R256). -/
  | timeat (c : ClusterId)
  /-- TIMEAT_RESUME (R256). -/
  | timeatResume (c : ClusterId)
  /-- END (R255). -/
  | end_ (c : ClusterId)
  /-- CLUSTER_PART_END (R255). -/
  | clusterPartEnd (c : ClusterId)
  /-- RED_OPEN (R244). -/
  | redOpen (c : ClusterId)
  /-- RED_CONTRIB (R245). -/
  | redContrib (c : ClusterId)
  /-- RED_CONTRIB_TOPK (R372). -/
  | redContribTopk (c : ClusterId)
  /-- RED_WAIT (R246). -/
  | redWait (c : ClusterId)
  /-- RING_PASS (R248). -/
  | ringPass (c : ClusterId)
  /-- SEND (R249). -/
  | send (c : ClusterId)
  /-- RECV (R249). -/
  | recv (c : ClusterId)
  /-- UPD_APPLY (R393). -/
  | updApply (c : ClusterId)
  /-- WAITING_BINDING_CHECK (R393): the descriptor's address. -/
  | waitingBindingCheck (desc : Addr)
  /-- UPD_INSTALL (R252). -/
  | updInstall (c : ClusterId)
  /-- COMMAND_COMPLETE (R195). -/
  | commandComplete (c : ClusterId) (x : Executor)
  /-- HALT_REPORT (R197). -/
  | haltReport (c : ClusterId)
  /-- CLASP_ADD (R198). -/
  | claspAdd (c : ClusterId) (k : ClaspId) (n : BitVec 16)
  /-- TILE_CLASP_ADD (R203): the value written. -/
  | tileClaspAdd (c : ClusterId) (k : ClaspId) (n : W32)
  /-- SIGNAL_RELEASE (R207). -/
  | signalRelease (h : Quad)
  /-- CLUSTER_PARK (R210). -/
  | clusterPark (c : ClusterId)
  /-- CLUSTER_WAKE (R210). -/
  | clusterWake (c : ClusterId)
  /-- RING_CONFIG_WRITE (R213): PART_CQ when `cq`, else PART_SUBQ. -/
  | ringConfigWrite (q : Quad) (cq : Bool) (v : W64)
  /-- SUBMISSION_RING_READ (R215). -/
  | submissionRingRead (q : Quad)
  /-- ADMISSION_DECISION (R338). -/
  | admissionDecision (q : Quad)
  /-- TASK_START (R222). -/
  | taskStart (q : Quad)
  /-- DEADLINE_MISS (R223). -/
  | deadlineMiss (q : Quad)
  /-- PROGRAM_SWITCH (R333). -/
  | programSwitch (q : Quad)
  /-- SWITCH_COMPLETE (R334). -/
  | switchComplete (q : Quad)
  /-- STEP_CLOSE_BEGIN (R167). -/
  | stepCloseBegin (q : Quad) (p : ProgSlot)
  /-- BINDING_CLOSE (R409). -/
  | bindingClose (q : Quad)
  /-- POWER_CAP_WRITE (R344). -/
  | powerCapWrite (v : W64)
  /-- BURSAR_POWER_MEASURE (R345): the measured power in W. -/
  | bursarPowerMeasure (w : Nat)
  /-- STAGE_CHECK (R349): the value written to CTL. -/
  | stageCheck (r : StageSet) (v : W64)
  /-- STAGE_DECISION (R349): the stage_id decided. -/
  | stageDecision (id : W32)
  /-- STAGE_APPLY (R346). -/
  | stageApply (r : StageSet)
  /-- STAGE_REPORT (R349). -/
  | stageReport (a : Arrival)
  /-- STAGE_GO (R349). -/
  | stageGo (a : Arrival)
  /-- STAGE_ABANDON (R349). -/
  | stageAbandon (a : Arrival)
  /-- EPOCH_GRACE_END (R316). -/
  | epochGraceEnd (j : JobId)
  /-- TIME_SYNC_SEND (R327). -/
  | timeSyncSend
  /-- TIME_SYNC (R327). -/
  | timeSync (a : Arrival)
  /-- PPS_EDGE (R326): the edge's timestamp in TIME_NOW, ns. -/
  | ppsEdge (ts : Nat)
  /-- PTP_MEASUREMENT (R326): reference time minus TIME_NOW, ns. -/
  | ptpMeasurement (offset : Int)
  /-- TIME_SET (R326): the value written. -/
  | timeSet (v : W64)
  /-- SYNC_LOSS_HOLDOVER (R328). -/
  | syncLossHoldover
  /-- HOLDOVER_EXPIRE (R328). -/
  | holdoverExpire
  /-- REF_LOSS_TIMEOUT (R495). -/
  | refLossTimeout
  /-- LINK_DOWN (R289): with the sequence number of the last packet the neighbour received on the link (R292). -/
  | linkDown (l : LinkId) (last : BitVec 12)
  /-- LINK_REJOIN_DRAIN_END (R293). -/
  | linkRejoinDrainEnd (l : LinkId)
  /-- BEACON_SEND (R299). -/
  | beaconSend (l : LinkId)
  /-- BEACON (R300): the frame and the outcome of its CRC-32 check. -/
  | beacon (l : LinkId) (b : Block) (crcOk : Bool)
  /-- TRAINING_TIMEOUT (R300). -/
  | trainingTimeout (l : LinkId)
  /-- ABSENT_RETRAIN (R301). -/
  | absentRetrain (l : LinkId)
  /-- WRITE (R318). -/
  | write (a : Arrival)
  /-- READ_REQ (R249). -/
  | readReq (a : Arrival)
  /-- READ_RSP (R249). -/
  | readRsp (a : Arrival)
  /-- REMOTE_SIGNAL (R207). -/
  | remoteSignal (a : Arrival)
  /-- CREDIT (R288). -/
  | credit (a : Arrival)
  /-- CONTRIB (R356). -/
  | contrib (a : Arrival)
  /-- CONTRIB_TOPK (R372). -/
  | contribTopk (a : Arrival)
  /-- FRAGMENT (R366). -/
  | fragment (a : Arrival)
  /-- RESULT (R369). -/
  | result (a : Arrival)
  /-- TWIN (R382). -/
  | twin (a : Arrival)
  /-- LOGGED_UNIT_RETAKE (R368). -/
  | loggedUnitRetake (h : Quad)
  /-- PREOPEN_EXPIRE (R370). -/
  | preopenExpire (h : Quad)
  /-- CONTEXT_DEADLINE (R375). -/
  | contextDeadline (q : Quad)
  /-- MEMBER_DOWN (R475). -/
  | memberDown (a : Arrival)
  /-- MEMBER_DOWN_PROXY (R474). -/
  | memberDownProxy (a : Arrival)
  /-- MEMBER_UP (R477). -/
  | memberUp (a : Arrival)
  /-- REJOIN_RELEASE (R477). -/
  | rejoinRelease (j : JobId)
  /-- RESYNC_ARM (R479): the value written to STW_RESYNC_CTL. -/
  | resyncArm (v : W64)
  /-- RESYNC_REQ (R478). -/
  | resyncReq (a : Arrival)
  /-- RESYNC_READY (R478). -/
  | resyncReady (a : Arrival)
  /-- RESYNC_COPY_DONE (R478). -/
  | resyncCopyDone
  /-- RESYNC_DONE (R478). -/
  | resyncDone (a : Arrival)
  /-- WATCHDOG_EXPIRE (R434). -/
  | watchdogExpire (p : Proc)
  /-- RESTART_COMPLETE (R436). -/
  | restartComplete (p : Proc)
  /-- UCIE_MODULE_DOWN (R430). -/
  | ucieModuleDown (m : Fin 2)
  /-- FEAT_ACCEPT_WRITE (R447): the value of the accept's last word. -/
  | featAcceptWrite (v : W64)
  /-- MEMCFG_WRITE (R59): the value written. -/
  | memcfgWrite (v : W32)
  /-- SVN_COMMIT (R454): the value written. -/
  | svnCommit (v : W64)
  /-- SVN_COMMIT_DONE (R454). -/
  | svnCommitDone
  /-- REPORT (R457). -/
  | report
  /-- EXTEND (R455). -/
  | extend
  /-- CERTS (R456). -/
  | certs
  /-- ATTEST_OP_DONE (R456). -/
  | attestOpDone
  /-- LIFECYCLE_REQUEST (R461): the value written to STW_LIFECYCLE. -/
  | lifecycleRequest (v : W64)
  /-- ARCHIVE_READ (R484): the value written to STW_ARCHIVE_CTL. -/
  | archiveRead (v : W64)
  /-- ARCHIVE_COPY_DONE (R484). -/
  | archiveCopyDone
  /-- REGISTER_WRITE (R6). -/
  | registerWrite (w : RegWrite)
  /-- PKG_RESET_N_RELEASE (R494). -/
  | pkgResetNRelease
  /-- REFERENCE_LOST (R328). -/
  | referenceLost
  /-- RESTART_EXCEEDS_BOUND (R434). -/
  | restartExceedsBound (p : Proc)
  /-- HOST_ACCESS (R58). -/
  | hostAccess (r : HostReq)
  deriving DecidableEq, Repr

end Sys2Proof
end

