-- ==== Sys2Proof/Decode.lean ====
section
/-!
DEFINITION. Words and commands: the table of operations and events gives its rows no bits, so no word spells a
command (log 22).
-/
namespace Sys2Proof

/-- The command that a word spells by the table's bits: the table gives no row any bits. -/
def decodeTableWord (_nbits _w : Nat) : Option Instr := none

end Sys2Proof
end

