-- ==== Sys2Proof/Config.lean ====
section
/-!
DEFINITION. The values the manual leaves open or keeps to itself, as constants with no body: nothing can
evaluate them, so a claim holds whatever they are. Each has an entry in the assumption log.
-/
namespace Sys2Proof.Config

/-- Coefficient `i` (0 to 1,535) of table `t` (0 value, 1 derivative) of the built-in library image `id`
(R142, R145): the manual publishes no coefficients. Log 15. -/
opaque libCoef (id t i : Nat) : W32

/-- Bank-conflict cycles b met by the operand fetch of the `n`-th MMA (R102, R123). Log 16. -/
opaque bankConflicts (n : Nat) : Nat

/-- Byte at address `a` of memory that the `n`-th draw left unspecified (R333). Log 31. -/
opaque freeCarrel (n a : Nat) : Byte

/-- SHA-384 (R455, R349, R482), uninterpreted. Log 7. -/
opaque sha384 (m : List Byte) : BitVec 384

/-- The digest by which the boot extends measurement register `reg` (R452, R454, R455), over what `n` names: the bundle body, the
catalogue's sequence number, the fuse configuration. Log 7. -/
opaque bootDigest (reg n : Nat) : BitVec 384

/-- The package's RSA-3072 and SLH-DSA-SHA2-192s attestation signatures over a message (R457), as numbers. Log 7. -/
opaque signRsa (m : List Byte) : Nat
opaque signSlh (m : List Byte) : Nat

/-- The certificate chain of CERTS, length word included (R456). Log 7. -/
opaque certChain : List Byte

/-- CRC-32 of a beacon or packet (R299, R313): the manual names no polynomial. Log 8. -/
opaque crc32 (m : List Byte) : W32

/-- The row of a granule of a pseudo-channel of a stack: the memory controller's own placement (R62: not visible). Log 17. -/
opaque hbmRow (stack pseudo granule : Nat) : Nat

/-- The bank of a granule within its pseudo-channel: the memory controller's own placement (R62: not visible; R278). Log 17. -/
opaque hbmBank (stack pseudo granule : Nat) : Nat

/-- The hash of R291 over source package, destination package, job and destination granule (or addr, R364): the
manual gives no function. Log 24. -/
opaque linkHash (src dst job granule : Nat) : Nat

/-- The twin partner of a package other than this one and its own partner (R295, R381): no rule says where a hub
reads it. Log 26. -/
opaque twinOf (id : Nat) : Nat

/-- The hash of R56 over the source die and the destination granule: the manual gives no function. Log 24. -/
opaque meshHash (src granule : Nat) : Nat

/-- The Bursar's choice of be_fraction from the fraction in force, the measured power and the cap, before the
limits of R345. Log 18. -/
opaque bursarChoice (k w cap : Nat) : Nat

/-- Which hub of its partition the `n`-th unit without an entry waits in: the one that homes its chunk under a plan that the package does
not hold yet (R370), counted from 0. Log 27. -/
opaque preopenHub (n : Nat) : Nat

/-- Which flag the home set that rounded value `i` of the `n`-th RESULT packet to a NaN or to an infinity (R359): the packet does not say.
Log 100. -/
opaque roundedBy (n i : Nat) : Bool

/-- No line along a full-ring axis of the slices concerned has more than one hop down, as the root of the `n`-th set judges it (R309): no
message tells it which hops are down. Log 66. -/
opaque linesWhole (n : Nat) : Bool

/-- Round-trip delay measured by the `n`-th training, in 1/16 ns (R301, R320). Log 19. -/
opaque rttMeasured (n : Nat) : BitVec 20

/-- Lane asymmetry calibrated by the `n`-th training, in 1/16 ns: what the one-way delay differs from half the round trip (R327). Log 19. -/
opaque laneAsym (n : Nat) : Int

end Sys2Proof.Config
end

