-- ==== Sys2Proof/Machine/Bits.lean ====
section
/-!
DEFINITION. Bit fields, byte order and saturating counters (R3): a field is [msb:lsb] with bit 0 least
significant, and every multi-byte value is little-endian.
-/
namespace Sys2Proof.Machine

/-- Field of `len` bits from bit `lo` of the number `n` (R3). -/
def nfld (n lo len : Nat) : Nat := (n >>> lo) % 2 ^ len

/-- Field of `len` bits from bit `lo` of a register or record, as a number (R3). -/
def fld {w : Nat} (b : BitVec w) (lo len : Nat) : Nat := nfld b.toNat lo len

/-- One bit of a register or record. -/
def bit {w : Nat} (b : BitVec w) (i : Nat) : Bool := b.toNat.testBit i

/-- A Boolean as a one-bit number. -/
def b2n (b : Bool) : Nat := if b then 1 else 0

/-- Word `k` of a command (R192). -/
def cmdWord (c : Block) (k : Nat) : Nat := nfld c.toNat (32 * k) 32

/-- Field [lo + len - 1 : lo] of word `k` of a command. -/
def wfld (c : Block) (k lo len : Nat) : Nat := nfld c.toNat (32 * k + lo) len

/-- An address pair (R238): word `k` holds bits [31:0], the next word bits [47:32]. -/
def addrPair (c : Block) (k : Nat) : Addr := nfld c.toNat (32 * k) 48

/-- The reserved upper half of an address pair's second word is zero (R228, R238). -/
def addrPairOk (c : Block) (k : Nat) : Bool := nfld c.toNat (32 * k + 48) 16 == 0

/-- A number from bytes, least significant first (R3). -/
def leNat : List Byte → Nat
  | [] => 0
  | b :: t => b.toNat + 256 * leNat t

/-- The `k` low bytes of a number, least significant first (R3). -/
def leBytes (n : Nat) : Nat → List Byte
  | 0 => []
  | k + 1 => BitVec.ofNat 8 n :: leBytes (n / 256) k

/-- A saturating counter of width `w` raised by `n`. -/
def satAdd {w : Nat} (x : BitVec w) (n : Nat) : BitVec w :=
  if x.toNat + n < 2 ^ w then BitVec.ofNat w (x.toNat + n) else BitVec.ofNat w (2 ^ w - 1)

/-- A number cut to the range of a saturating field of width `w`. -/
def sat (w n : Nat) : Nat := if n < 2 ^ w then n else 2 ^ w - 1

/-- Least power-of-two exponent field with `ceil(n / d)`, for `d` above 0. -/
def ceilDiv (n d : Nat) : Nat := (n + d - 1) / d

/-- `x` rounded up to a multiple of `m`. -/
def roundUp (x m : Nat) : Nat := ceilDiv x m * m

/-- The `n` first bytes of a list, padded with zeros to exactly `n`. -/
def padTo (n : Nat) (l : List Byte) : List Byte :=
  match n with
  | 0 => []
  | k + 1 =>
    match l with
    | [] => (0 : Byte) :: padTo k []
    | b :: t => b :: padTo k t

/-- Replace bits [lo + len - 1 : lo] of `n` by `v` (R3). -/
def setFld (n lo len v : Nat) : Nat :=
  let hi := n >>> (lo + len)
  (hi <<< (lo + len)) + ((v % 2 ^ len) <<< lo) + n % 2 ^ lo

/-- Set one bit of a vector. -/
def setBit {w : Nat} (b : BitVec w) (i : Nat) : BitVec w := b ||| BitVec.ofNat w (1 <<< i)

/-- Clear one bit of a vector. -/
def clearBit {w : Nat} (b : BitVec w) (i : Nat) : BitVec w :=
  b &&& ~~~ (BitVec.ofNat w (1 <<< i))

/-- Two half-open ranges share a byte. -/
def overlap (a la b lb : Nat) : Bool := 0 < la && 0 < lb && a < b + lb && b < a + la

/-- [a, a + la) lies inside [b, b + lb). -/
def inside (a la b lb : Nat) : Bool := b ≤ a && a + la ≤ b + lb

/-- Serial-number comparison over 2^32: `v` has reached `t` (R67, R198). -/
def reached (v t : W32) : Bool := (v - t).toNat < 2 ^ 31

/-- The numbers `lo, lo + 1, ..., lo + n - 1`. -/
def span (lo : Nat) : Nat → List Nat
  | 0 => []
  | n + 1 => lo :: span (lo + 1) n

end Sys2Proof.Machine
end

