-- ==== Sys2Proof/Machine/Flags.lean ====
section
/-!
DEFINITION. The numeric flags of R97 and the computations that gather them: every operation that can set a
flag runs in `NumM`, whose state is the OR of the flags set so far.
-/
namespace Sys2Proof.Machine

/-- The numeric flags, bits [9:0] of R97. -/
abbrev Flags := BitVec 10

/-- A computation that ORs flags as it goes (R97). -/
abbrev NumM := StateM Flags

def fUnderflow : Flags := 0x001#10
def fOverInf   : Flags := 0x002#10
def fOverNan   : Flags := 0x004#10
def fSaturated : Flags := 0x008#10
def fNanProd   : Flags := 0x010#10
def fNanIn     : Flags := 0x020#10
def fBlockNan  : Flags := 0x040#10
def fT2        : Flags := 0x080#10
def fBezel     : Flags := 0x100#10
def fClamped   : Flags := 0x200#10

/-- Set flags. -/
def setF (f : Flags) : NumM Unit := modify (fun g => g ||| f)

/-- Set flags when a condition holds. -/
def setFIf (c : Bool) (f : Flags) : NumM Unit := if c then setF f else pure ()

/-- Apply a flagged operation along a list, in order. -/
def mapF {α β : Type} (f : α → NumM β) : List α → NumM (List β)
  | [] => pure []
  | a :: t => do
    let b ← f a
    let r ← mapF f t
    pure (b :: r)

/-- Fold a flagged operation along a list, in order. -/
def foldF {α β : Type} (f : β → α → NumM β) : β → List α → NumM β
  | b, [] => pure b
  | b, a :: t => do
    let b' ← f b a
    foldF f b' t

end Sys2Proof.Machine
end

