-- ==== Sys2Proof/Machine/Sparse.lean ====
section
/-!
DEFINITION. Reading and writing a sparse table in its canonical form: numbers strictly rising, no entry equal
to the default `d` that an unlisted number reads as.
-/
namespace Sys2Proof.Machine

/-- Read number `k`; an unlisted number reads `d`. -/
def sget {α : Type} (d : α) : Sparse α → Nat → α
  | [], _ => d
  | (i, x) :: t, k => if i = k then x else sget d t k

/-- Write `v` at number `k`, keeping the form: writing the default removes the entry. -/
def sset {α : Type} [DecidableEq α] (d : α) : Sparse α → Nat → α → Sparse α
  | [], k, v => if v = d then [] else [(k, v)]
  | (i, x) :: t, k, v =>
    if k < i then (if v = d then (i, x) :: t else (k, v) :: (i, x) :: t)
    else if k = i then (if v = d then t else (k, v) :: t)
    else (i, x) :: sset d t k v

/-- The canonical form from number `lo` on. -/
def sokFrom {α : Type} [DecidableEq α] (d : α) (lo : Nat) : Sparse α → Bool
  | [] => true
  | (i, x) :: t => lo ≤ i && !(x = d) && sokFrom d (i + 1) t

/-- The canonical form of a sparse table. -/
def sok {α : Type} [DecidableEq α] (d : α) (m : Sparse α) : Bool := sokFrom d 0 m

/-- Keep the entries that `p` accepts (the rest read the default). -/
def skeep {α : Type} (p : Nat → α → Bool) : Sparse α → Sparse α
  | [] => []
  | (i, x) :: t => if p i x then (i, x) :: skeep p t else skeep p t

end Sys2Proof.Machine
end

