-- ==== Sys2Proof/Machine/Topo.lean ====
section
/-!
DEFINITION. The fixed geometry of the panel (R9 to R14, R28, R29, R40), of the mesh (R42, R43, R53), and of the
HBM interleave (R60, R62), as functions of numbers alone.
-/
namespace Sys2Proof.Machine

/-- Quadrant of a tile site (R9). -/
def siteQuad (ts : Nat) : Nat := 2 * (ts / 6 / 3) + (ts % 6) / 3

/-- Quadrant of a die: of its site, or the hub's number (R9, R10). -/
def dieQuad (d : Nat) : Nat := if d < 36 then siteQuad d else d - 36

/-- The nine sites of a quadrant, in increasing order (R9). -/
def quadSites (q : Nat) : List Nat := (List.range 36).filter (fun ts => siteQuad ts = q)

/-- The three sites attached to a hub (R10). -/
def hubSites : Nat → List Nat
  | 0 => [0, 6, 12]
  | 1 => [5, 11, 17]
  | 2 => [18, 24, 30]
  | 3 => [23, 29, 35]
  | _ => []

/-- Check nibble of a strap word (R13). -/
def strapCheck (w : Nat) : Nat := nfld w 0 4 ^^^ nfld w 4 4 ^^^ nfld w 8 4

/-- The strap word of the given fields (R13). -/
def strapWord (site quad reserve stepping : Nat) : BitVec 16 :=
  let low := site + quad * 64 + reserve * 256 + stepping * 512
  BitVec.ofNat 16 (low + strapCheck low * 4096)

/-- A die accepts its strap word (R14); `hub` says which kind of die samples it. -/
def strapAccepted (hub : Bool) (w : BitVec 16) : Bool :=
  fld w 12 4 == strapCheck w.toNat &&
  (if hub then fld w 0 6 == 0x3F && !bit w 8
   else decide (fld w 0 6 ≤ 35) && fld w 6 2 == siteQuad (fld w 0 6))

/-- The two ends of an edge, lower die number first (R42). -/
def edgeEnds (e : Nat) : Nat × Nat :=
  if e < 30 then (6 * (e / 5) + e % 5, 6 * (e / 5) + e % 5 + 1)
  else if e < 60 then (e - 30, e - 30 + 6)
  else if e < 72 then
    let h := (e - 60) / 3
    ((hubSites h).getD ((e - 60) % 3) 0, 36 + h)
  else if e = 72 then (36, 37)
  else if e = 73 then (37, 39)
  else if e = 74 then (38, 39)
  else (36, 38)

/-- Slices of an edge: 16 on a mesh edge, 4 on a ring edge (R43). -/
def edgeSlices (e : Nat) : Nat := if e < 72 then 16 else 4

/-- Every slice of an edge carrying traffic. -/
def allSlices (e : Nat) : BitVec 16 := BitVec.ofNat 16 (2 ^ edgeSlices e - 1)

/-- The other end of edge `e` from die `d`, if `d` is an end. -/
def otherEnd (e d : Nat) : Option Nat :=
  let (a, b) := edgeEnds e
  if a = d then some b else if b = d then some a else none

/-- Set bits of a vector. -/
def popCount (n : Nat) : Nat → Nat
  | 0 => 0
  | k + 1 => popCount n k + b2n (n.testBit k)

/-- Dies reached in one more hop over the usable edges, excluding those seen (R53). -/
def frontier (edges : List Nat) (seen front : List Nat) : List Nat :=
  (front.flatMap (fun d => edges.filterMap (fun e => otherEnd e d))).filter
    (fun d => !seen.contains d) |>.eraseDups

/-- Levels of distance from the dies in `front` (R53): level k lists the dies k hops away. -/
def levels (edges : List Nat) : Nat → List Nat → List Nat → List (List Nat)
  | 0, _, front => [front]
  | n + 1, seen, front =>
    match frontier edges seen front with
    | [] => [front]
    | nx => front :: levels edges n (seen ++ nx) nx

/-- Hops from die `d` in a level list. -/
def levelOf (ls : List (List Nat)) (d : Nat) : Option Nat := ls.findIdx? (fun l => l.contains d)

/-- Widest narrowest bandwidth of a shortest path, level by level from the destination (R53). -/
def widest (edges : List Nat) (bw : Nat → Nat) :
    List (List Nat) → List (Nat × Nat) → List (Nat × Nat)
  | [], acc => acc
  | l :: rest, acc =>
    let here := l.map (fun d =>
      (d, (edges.filterMap (fun e => (otherEnd e d).bind (fun n =>
        (acc.lookup n).map (fun w => Nat.min (bw e) w)))).foldl Nat.max 0))
    widest edges bw rest (acc ++ here)

/-- Next edges from `src` toward `dst` with their weights (R53): the edges of shortest paths over `edges`, at
most four, each weighted by the narrowest bandwidth along the widest path behind it. -/
def nextEdges (edges : List Nat) (bw : Nat → Nat) (src dst : Nat) : List (Nat × Nat) :=
  let ls := levels edges 40 [dst] [dst]
  match levelOf ls src with
  | none => []
  | some k =>
    let before := ls.take k
    let w := widest edges bw before.tail [(dst, 16)]
    (edges.filterMap (fun e => (otherEnd e src).bind (fun n =>
      if levelOf ls n = some (k - 1) ∧ 0 < k then
        (w.lookup n).map (fun v => (e, Nat.min (bw e) v))
      else none))).take 4

/-- Die `src` reaches die `dst` over `edges`. -/
def reachable (edges : List Nat) (src dst : Nat) : Bool :=
  (levels edges 40 [src] [src]).any (fun l => l.contains dst)

/-- The quadrants of the partition of lowest quadrant `q` in a layout of R59; empty when `q` is not the
lowest quadrant of a partition. -/
def layoutQuads (layout q : Nat) : List Nat :=
  match layout, q with
  | 0, 0 => [0, 1, 2, 3]
  | 1, 0 => [0, 1]
  | 1, 2 => [2, 3]
  | 2, 0 => [0, 1]
  | 2, 2 => [2]
  | 2, 3 => [3]
  | 3, 0 => [0]
  | 3, 1 => [1]
  | 3, 2 => [2, 3]
  | 4, q => if q < 4 then [q] else []
  | _, _ => []

/-- The lowest quadrant of the partition that holds quadrant `q` (R59). -/
def partOfQuad (layout q : Nat) : Nat :=
  ((List.range 4).find? (fun p => (layoutQuads layout p).contains q)).getD 0

/-- Quadrant of a logical cluster, and its slot number 8q + s (R28). -/
def clusterQuad (c : Nat) : Nat := c / 128
def clusterSlot (c : Nat) : Nat := c / 16

/-- Bytes of HBM of one quadrant (R60). -/
def quadBytes : Nat := 0x9000000000

/-- Bases of the address map (R57). -/
def hbmEnd : Nat := 0x24000000000
def carrelBase : Nat := 0x400000000000
def carrelSize : Nat := 0x400000
def ledgerBase : Nat := 0x500000000000
def ledgerSize : Nat := 0x4000000
def tileBase : Nat := 0x600000000000
def hubBase : Nat := 0x600100000000
def edgeBase : Nat := 0x600200000000
def ctlBase : Nat := 0x600300000000

/-- The interleave of R62: stack, and within-stack offset, of byte `a` of a partition range that starts at
`b` and spans the `6n` stacks from `6*q0`. -/
def interleave (b q0 n a : Nat) : Nat × Nat :=
  let g := (a - b) >>> 9
  let nn := 6 * n
  let m := g / nn
  let f := nfld m 0 5 + nfld m 5 5 + nfld m 10 5 + nfld m 15 5 + nfld m 20 5 + nfld m 25 3
  (6 * q0 + ((g % nn) + f) % nn, m * 512 + a % 512)

/-- The package address of a within-stack offset: the inverse of R62 on the granule's row. -/
def unInterleave (b q0 n stack off : Nat) : Nat :=
  let nn := 6 * n
  let m := off / 512
  let f := nfld m 0 5 + nfld m 5 5 + nfld m 10 5 + nfld m 15 5 + nfld m 20 5 + nfld m 25 3
  let r := ((stack - 6 * q0) + nn * 8 - f % nn) % nn
  b + (m * nn + r) * 512 + off % 512

/-- Channel and pseudo-channel of a granule row (R62). -/
def hbmChannel (m : Nat) : Nat := nfld m 0 5 ^^^ nfld m 13 5
def hbmPseudo (m : Nat) : Nat := nfld m 5 1 ^^^ nfld m 18 1

/-- Granule within its pseudo-channel (R62). -/
def hbmGranule (m : Nat) : Nat := m >>> 6

/-- Pseudo-channel of a granule row among the 64 of a stack (R62, R63). -/
def hbmPc (m : Nat) : Nat := 2 * hbmChannel m + hbmPseudo m

end Sys2Proof.Machine
end

