-- ==== Sys2Proof/Machine/State.lean ====
section
/-!
DEFINITION. The state of one package as plain data: every register, counter, queue, buffer, memory and mode
that the manual gives it, and the queue of waiting commands. Each field's docstring names the rule that gives
it and its value after reset; a value the manual does not state is marked DESIGN CHOICE with its log entry.
Fields that are fixed by package test or by the board (straps, serials, fuses, flash) stand here too, because
the steps read them.
-/
namespace Sys2Proof.Machine

/-- Why the machine stops. The manual gives every fault of the part as an effect (a status, a record, a
counter, a reset), so no meaning raises one and this type has no constructor. -/
inductive Fault where
  deriving DecidableEq, Repr

/-- Why a command has no meaning. -/
inductive Refusal where
  /-- An arm of the dispatch that has no meaning yet. Safe: nothing is claimed of it. -/
  | notModelled (mnemonic : String)
  deriving DecidableEq, Repr

/-! ## Memory and its protection -/

/-- An open merge-buffer entry (R278). -/
structure MergeEntry where
  /-- Block address of the entry (R278, 09). -/
  block : Addr
  /-- 64 bytes of data (R278, 09). -/
  data  : Block
  /-- Byte mask (R278, 09). -/
  mask  : BitVec 64
  /-- Clock at which the entry opened, for the 128 ns of R279 (09). -/
  since : Nat
  /-- The clusters and executors whose narrow writes it holds, by number (R280, 09). -/
  owners : List Nat
  deriving DecidableEq, Repr

/-- The protection counters of one store (R284, R285). -/
structure Prot where
  /-- Mends, demand and scrub, saturating (R284, 09; reset 0). -/
  corrected     : BitVec 16 := 0
  /-- Blocks poisoned, saturating (R284, 09; reset 0). -/
  uncorrectable : BitVec 16 := 0
  /-- Blocks now poisoned (R284, 09; reset 0). -/
  poisonedNow   : BitVec 16 := 0
  /-- Late scrub passes, saturating (R284, 09; reset 0). -/
  scrubLate     : BitVec 8 := 0
  deriving DecidableEq, Repr

/-- The data memories, their codes, merge buffers, protection registers and scrubbers. Stores are numbered:
clusters 0 to 511, ledger SRAMs 512 to 515, stacks 520 to 543. -/
structure MemSt where
  /-- HBM, carrels and ledger SRAM as (address, byte), canonical; an unlisted byte reads 0 (R57, R462, 02/15; reset all zero). -/
  bytes     : List Host.Cell := []
  /-- The 80-bit code of each 64-byte block by block number; unlisted is the code of a zero block (R270, 09; reset 0). -/
  codes     : Sparse (BitVec 80) := []
  /-- Open merge-buffer entries, oldest first (R278, 09; reset none). -/
  merge     : List MergeEntry := []
  /-- TILE_CARREL_PROT, HUB_LEDGER_PROT, HUB_HBM_PROT_s by store number (R284, R285, 09; reset 0). -/
  prot      : Sparse Prot := []
  /-- TILE_CARREL_ERRLOG and HUB_HBM_ERRLOG_s by store number (R285, 09; reset 0). -/
  errlog    : Sparse W64 := []
  /-- Next row of each scrubbed SRAM bank, by bank number (R281, 09; reset 0). -/
  scrubRow  : Sparse Nat := []
  /-- Clock at which the bank's pass began (R281, 09; reset 0). -/
  scrubFrom : Sparse Nat := []
  /-- Clock at which each quadrant's SRAM was last wiped: its passes begin there (R283, 09; reset 0). -/
  scrubBase : Sparse Nat := []
  /-- Next within-stack block of each stack's scrub (R282, 09; reset 0). -/
  hbmNext   : Sparse Nat := []
  /-- Clock at which the stack's pass began (R282, 09; reset 0). -/
  hbmFrom   : Sparse Nat := []
  /-- Scrub configuration in force in each stack's pass (R286, 09; reset 0x10C: period 12 h, enabled). -/
  hbmCfg    : Sparse (BitVec 32) := []
  /-- HUB_SCRUB_CFG of each hub (R286, 09; reset 0x10C). -/
  scrubCfg  : Sparse (BitVec 32) := []
  /-- Mended rows of the pass under way, as (stack, row) (R282, 09; reset none). -/
  passMends : List (Nat × Nat) := []
  /-- Rows that the scrubber reported, soft-repaired in service, as (stack, row) (R63, R282, 02/09; reset none). -/
  repair    : List (Nat × Nat) := []
  /-- Rows repaired for good at a partition reset, as (stack, row) (R63, 02; reset none). -/
  hard      : List (Nat × Nat) := []
  /-- Owners of narrow writes whose bytes a commit discarded, until their command completes (R279, R280, 09; reset none). -/
  lost      : List Nat := []
  /-- Blocks poisoned by the step under way, for R466 (16; reset none). -/
  newPoison : List Addr := []
  /-- The aged request that blocks each pseudo-channel, as (64*stack + pseudo-channel, request) (R69, 02; reset none). -/
  aged      : List (Nat × MemReq) := []
  /-- Blocks whose bytes the manual leaves unspecified since a program switch, as (first block, blocks, draw): each block is
  given its bytes when it is first met (R333, 11; reset none; log 31). -/
  vague     : List (Nat × Nat × Nat) := []
  deriving DecidableEq, Repr

/-! ## Clusters -/

/-- A command with the address it was fetched from and its issue stamp (R67, R191, R227). -/
structure QCmd where
  cmd   : Block
  addr  : Addr
  stamp : BitVec 32
  /-- Tile cycle at which its wait was satisfied, or else of its dispatch (R123). -/
  ready : Nat := 0
  deriving DecidableEq, Repr

/-- Who waits on a clasp: the head of an engine queue, or the Curator (R194). -/
inductive Waiting where
  | mx | vx | cx | curator
  deriving DecidableEq, Repr

/-- A pending wait or wait-and-take (R199). -/
structure Waiter where
  who   : Waiting
  clasp : BitVec 6
  thr   : W32
  take  : Bool
  stamp : BitVec 32
  addr  : Addr
  deriving DecidableEq, Repr

/-- An engine command that has done its work and awaits completion (R195): its status, numeric flags and the
earliest clock of its completion. -/
structure DoneCmd where
  q      : QCmd
  status : BitVec 16
  flags  : BitVec 10
  due    : Nat
  deriving DecidableEq, Repr

/-- An MMA that has issued, in the product array or the epilogue path (R123), with the descriptors read at issue (R230). -/
structure MxJob where
  q    : QCmd
  da   : Block
  db   : Block
  dc   : Block
  dr   : Block
  dp   : Block
  /-- Tile cycles of compute start and end, and of epilogue start and end once known (R123). Until it starts, `start` is issue + L. -/
  start : Nat
  computeEnd : Nat := 0
  /-- Bank-conflict cycles b of its operand fetch (R123). -/
  conf : Nat := 0
  epiStart : Nat := 0
  epiEnd : Nat := 0
  flags  : BitVec 10 := 0
  deriving DecidableEq, Repr

/-- An accumulator buffer (R105, R121): the shape of the command that last computed into it, its values row by
row, and its valid bit. -/
structure AccBuf where
  /-- M and N of the last computation (R121, 04; reset 0). -/
  m     : Nat := 0
  n     : Nat := 0
  /-- The FP32 accumulators (R98, 04; reset none: the buffer is invalid). -/
  vals  : List W32 := []
  /-- Valid bit (R121, R127, 04; reset 0). -/
  valid : Bool := false
  deriving DecidableEq, Repr

/-- A function image (R138): header, and the two coefficient tables as 1,536 words each. -/
structure FuncImage where
  header : Block
  value  : List W32
  deriv  : List W32
  deriving DecidableEq, Repr

/-- A function load that is copying its image (R138). -/
structure LoadJob where
  q    : QCmd
  slot : Nat
  img  : FuncImage
  due  : Nat
  deriving DecidableEq, Repr

/-- What the Curator is doing (R187, R190, R196, R255). -/
inductive CuratorMode where
  | idle      -- no folio: before a task, or after its part ended
  | running
  | stopWait  -- stopped on a wait of a class 3 command (R194)
  | stopFence (mask : BitVec 4)  -- R254
  | stopTime (t : Nat)           -- TIMEAT, R256
  | ending    -- END at depth 0 executed (R255)
  | switched  -- stopped at a program switch (R333)
  | halted    -- R196
  deriving DecidableEq, Repr

/-- The evaluation of a clasp's waits in one cycle (R199): the clasp, its value with every add of the cycle so far, and the waits before
and after. A further add of that cycle is applied before the waits are evaluated. -/
structure ClaspCycle where
  cycle   : Nat
  clasp   : Nat
  value   : W32
  waiters : List Waiter
  granted : List Waiting
  mode    : CuratorMode
  resume  : CuratorMode
  left    : List Waiter
  done    : List Waiting
  deriving DecidableEq, Repr

/-- A Curator's state (R98, R190, R191). -/
structure Curator where
  /-- What it is doing (R187, 07; reset idle). -/
  mode     : CuratorMode := .idle
  /-- The mode to go back to after a program switch (R333, R256, 11/08; reset idle). -/
  resume   : CuratorMode := .idle
  /-- Address of the next command to fetch (R190, 07; reset 0). -/
  fetch    : Addr := 0
  /-- Fetched and undispatched commands, at most 64 ahead (R191, 07; reset none). -/
  prefetch : List QCmd := []
  /-- The control command it is executing (R187, 07; reset none). -/
  current  : Option QCmd := none
  /-- Return stack, top first, 8 deep (R190, 07; reset empty). -/
  stack    : List Addr := []
  deriving DecidableEq, Repr

/-- A forwarded hub command that is outstanding (R188). -/
structure HubCmd where
  q       : QCmd
  /-- The hub has begun it. -/
  started : Bool := false
  /-- Its outcome, once known: status, flags, earliest clock of completion. -/
  done    : Option (BitVec 16 × BitVec 10 × Nat) := none
  /-- RECV: bytes still to land (R249), and whether a block of its source or of its destination was uncorrectable (R253). -/
  left    : Nat := 0
  bad     : Bool := false
  /-- A command that sends to another package: its outcome once its last packet has left the hub (R245, R248, R249). -/
  sent    : Option (BitVec 16 × BitVec 10) := none
  /-- The program slot it was dispatched for: it runs on while that program is suspended (R335). -/
  prog    : Nat := 0
  deriving DecidableEq, Repr

/-- The halt of a cluster, until its task ends (R196, R220). -/
structure HaltInfo where
  code    : BitVec 16
  cmdAddr : Addr
  flags   : BitVec 10
  due     : Nat
  deriving DecidableEq, Repr

/-- One cluster (R98). -/
structure Cluster where
  /-- Clasps 0 to 47 (R198, R203, 07; reset 0). -/
  clasps  : Sparse W32 := []
  /-- Pending waits of the cluster's clasps (R199, 07; reset none). -/
  waiters : List Waiter := []
  /-- Waits already satisfied whose command has not yet started (R194, 07; reset none). -/
  granted : List Waiting := []
  /-- The last evaluation that an add brought about (R199, 07; reset none). -/
  lastEval : Option ClaspCycle := none
  /-- Matrix, vector and copy queues, 32 commands each, head first (R99, 04; reset empty). -/
  mxq : List QCmd := []
  vxq : List QCmd := []
  cxq : List QCmd := []
  /-- The MMA that has issued and waits for the product array or its buffer (R123, R230, 04; reset none). -/
  mxIssued : Option MxJob := none
  /-- The MMA in the product array (R123, 04; reset none). -/
  mxComp : Option MxJob := none
  /-- MMAs whose computation has ended and whose epilogue runs or waits (R123, 04; reset none). -/
  mxEpi  : List MxJob := []
  /-- MMAs that await completion (R195, 07; reset none). -/
  mxDone : List DoneCmd := []
  /-- Tile cycle at which the last MMA's compute started, when the next command came to the head of the queue (R123, 04; reset 0). -/
  mxStart : Nat := 0
  /-- Tile cycle at which the product array and the epilogue path are free, and each buffer's last epilogue ended (R123, 04; reset 0). -/
  mxCompFree : Nat := 0
  mxEpiFree  : Nat := 0
  mxBufFree  : Sparse Nat := []
  /-- The two accumulator buffers (R105, R121, 04; reset invalid). -/
  acc0 : AccBuf := {}
  acc1 : AccBuf := {}
  /-- The vector command and the copy command that await completion (R195, R234, 07/08; reset none). -/
  vxDone : Option DoneCmd := none
  cxDone : Option DoneCmd := none
  /-- A function load in progress (R138, 05; reset none). -/
  load   : Option LoadJob := none
  /-- Resident function images of slots 0 to 15; an unlisted slot is absent (R138, 05; reset absent). -/
  funcs  : Sparse (Option FuncImage) := []
  /-- TILE_CPL_MX, _VX, _CX and _HUB (R227, 08; reset 0). -/
  cplMx  : W64 := 0
  cplVx  : W64 := 0
  cplCx  : W64 := 0
  cplHub : W64 := 0
  /-- TILE_MX_CYCLES and TILE_MX_CONFLICTS (R128, 04; reset 0). -/
  mxCycles    : W64 := 0
  mxConflicts : W64 := 0
  /-- The Curator (R98, R190, 04/07). -/
  cur    : Curator := {}
  /-- Program slot whose context the cluster holds (R333, 11; reset 0, by R332). -/
  prog   : Nat := 0
  /-- Forwarded hub commands outstanding, at most 4, in issue order (R188, 07; reset none). -/
  hubq   : List HubCmd := []
  /-- The cluster's halt, if it has halted (R196, 07; reset none). -/
  halt   : Option HaltInfo := none
  /-- Tile cycles of the last 16 dispatches, newest first (R188, R345, 07/11; reset none). -/
  dispatched : List Nat := []
  /-- Clock of the last event that could bring the cluster to rest (R210, 07; reset 0). -/
  movedAt   : Nat := 0
  /-- Parked (R210, 07; reset 0). -/
  parked    : Bool := false
  /-- An event that wakes a parked cluster has come (R210, 07; reset 0). -/
  wake      : Bool := false
  deriving DecidableEq, Repr

/-! ## Izaux mesh -/

/-- One direction of a slice (R43, R45, R46). -/
structure SliceDir where
  /-- Data lanes replaced and by which spare, as (lane, spare) (R46, R50, 02; reset none). -/
  replaced : List (Nat × Nat) := []
  /-- Lanes found failed, spares 64 and 65 included; none returns to service (R46, R50, 02; reset none). -/
  failed   : List Nat := []
  /-- CRC failures with a lane's parity in error, as (lane, clock), within 1 ms (R46, 02; reset none). -/
  errors   : List (Nat × Nat) := []
  deriving DecidableEq, Repr

/-- A flit in the sender's replay buffer (R45): its place in the order, its content, and the slice it is sent on. -/
structure SentFlit where
  seq   : Nat
  data  : Block
  slice : Nat
  deriving DecidableEq, Repr

/-- What one direction of an edge has sent and delivered (R45): the slices share one order, because the flits of a
slice under repair come over the others (R46). -/
structure FlitDir where
  /-- Next flit in the sender's order (R45, 02; reset 0). -/
  expect   : Nat := 0
  /-- Flits that came ahead of an earlier one, as (number, content) (R45, 02; reset none). -/
  early    : List (Nat × Block) := []
  /-- Flits delivered, newest first (R45, 02; reset none). -/
  delivered : List Block := []
  /-- Replays asked for (R45, 02; reset 0). -/
  replays  : Nat := 0
  /-- The sender's replay buffer: flits sent and not acknowledged (R45, R46, 02; reset none). -/
  unacked  : List SentFlit := []
  deriving DecidableEq, Repr

/-- One edge (R42, R43, R52). -/
structure Edge where
  /-- Trained and carrying traffic (R52, 02; reset 0). -/
  up        : Bool := false
  /-- Slices carrying traffic (R52, 02; reset —: DESIGN CHOICE all slices of the edge, log 12). -/
  sliceUp   : BitVec 16 := 0
  /-- Slices retired (R47, 02; reset none). -/
  retired   : BitVec 16 := 0
  /-- Lane failures since training, saturating (R52, 02; reset 0). -/
  laneEvents : BitVec 8 := 0
  /-- Slice directions by 2*slice + direction (R43, 02; reset none used). -/
  dirs      : Sparse SliceDir := []
  /-- Delivery of flits toward the higher-numbered end, and toward the lower (R45, 02). -/
  fwd       : FlitDir := {}
  back      : FlitDir := {}
  deriving DecidableEq, Repr

/-- One route entry: up to four next edges with their weights in slices (R53). -/
structure Route where
  src  : Nat
  dst  : Nat
  next : List (Nat × Nat)
  deriving DecidableEq, Repr

/-- A repair event as its lane-repair record will hold it (R51). -/
structure Repair where
  edge   : Nat
  slice  : Nat
  lane   : Nat
  action : Nat
  spare  : Nat
  dir    : Bool
  time   : W64
  deriving DecidableEq, Repr

/-- The mesh (R42 to R56). -/
structure MeshSt where
  /-- Edges by number (R42, 02). -/
  edges   : Sparse Edge := []
  /-- Route tables in force (R53, 02; reset —: computed at the package reset). -/
  routes  : List Route := []
  /-- Route entries waiting for a router's drain; `draining` of R52 is read from them (R52, R56, 02; reset none). -/
  draining : List Route := []
  /-- Repairs not yet recorded (R50, 02; reset none). -/
  unrecorded : List Repair := []
  deriving DecidableEq, Repr

/-! ## Panel and catalogue -/

/-- What is fixed in a die and its place (R13, R18, R23): the strap word presented, the fused serial, stepping,
numerics revision and feature map. -/
structure DieFacts where
  strap    : BitVec 16
  serial   : W64
  stepping : BitVec 8
  numerics : BitVec 8
  features : W64
  deriving DecidableEq, Repr

/-- A field record of the catalogue (R20): kind, body, and whether its HMAC tag verifies (R15). -/
structure JournalEntry where
  kind    : BitVec 8
  version : BitVec 8
  reserved : BitVec 16
  index   : BitVec 32
  panel   : W64
  body    : BitVec 256
  tagOk   : Bool
  deriving DecidableEq, Repr

/-- One copy of the catalogue (R15, R17): the header, the 40 entries, the journal, and whether both factory
signatures verify. -/
structure Catalogue where
  version  : BitVec 8
  panel    : W64
  stepping : BitVec 3
  numerics : BitVec 8
  features : W64
  seq      : BitVec 32
  entries  : List (BitVec 256)
  journal  : List JournalEntry
  sigOk    : Bool
  deriving DecidableEq, Repr

/-- Panel, sites and catalogue. -/
structure PanelSt where
  /-- The facts of each die, by die number 0 to 39 (R13, R23, 01; fixed by package test: DESIGN CHOICE, log 10). -/
  dies     : List DieFacts := []
  /-- TILE_STRAP and HUB_STRAP as sampled at reset release, by die number (R13, 01; reset strap). -/
  straps   : Sparse (BitVec 16) := []
  /-- Dies in STRAP_BAD reset-idle (R14, 01; reset none). -/
  strapBad : List Nat := []
  /-- The two flash copies (R15, 01; fixed by package test: DESIGN CHOICE, log 10). -/
  copyA    : Option Catalogue := none
  copyB    : Option Catalogue := none
  /-- Copy B is current (R16, 01; reset 0). -/
  useB     : Bool := false
  /-- Tile dies and hubs in service, by die number (R14, R24, R32, 01; reset: what R29 gives). -/
  inService : List Nat := []
  /-- The site that holds each slot 8q + s; 0xFF for an unmapped slot (R28, R36, 01; reset: what R29 gives). -/
  slotSite : Sparse (BitVec 8) := []
  /-- Slots of dies marked failed in service, awaiting a reset (R466, R503, 16/01; reset none). -/
  failedSlots : List Nat := []
  /-- Isolated dies (R55, 02; reset none). -/
  isolated : List Nat := []
  /-- Clocks of the poisonings of each slot's carrels in the last 24 hours (R466, 16; reset none). -/
  poisonLog : Sparse (List Nat) := []
  /-- Slots to mark failed once the restarting Custodian serves again, with the code of the halts (R435, R466, R503, 15/16; reset none). -/
  marks    : List (Nat × BitVec 16) := []
  deriving DecidableEq, Repr

/-! ## Programs, tasks and partitions -/

/-- A program image in decoded form (R337): the manual gives what it declares and no layout, so the image at a
package address is held beside memory (DESIGN CHOICE, log 5). -/
structure Image where
  /-- Passes the Registrar's header checks (R338 IMAGE_BAD). -/
  headerOk  : Bool
  job       : BitVec 10
  numerics  : BitVec 8
  features  : BitVec 256
  /-- (cluster, entry folio) of each cluster of the program. -/
  entries   : List (Nat × Addr)
  /-- Declared clasps, as (cluster, clasp) (R204). -/
  clasps    : List (Nat × Nat)
  /-- Declared outbound and inbound streams of each quadrant (R208). -/
  streamsOut : List Nat
  streamsIn  : List Nat
  /-- Declared carrel footprint, as (cluster, first offset, bytes) (R333). -/
  footprint : List (Nat × Nat × Nat)
  /-- Function slots declared in each cluster (R333). -/
  slots     : List Nat
  /-- Spill area (R333, R337). -/
  spill     : Addr
  /-- Longest command duration in ns (R334). -/
  cmdMaxOut : Nat
  /-- guar_power_w (R344). -/
  guarPower : Nat
  /-- Largest number of open contexts (R384). -/
  contexts  : Nat
  deriving DecidableEq, Repr

/-- The states of a task that has not ended (R222). -/
inductive TaskSt where
  | read | accepted | running | suspended | ending
  | halted    -- a halt is known, and the Registrar has not yet acted on it (R197, R503)
  | reported  -- every cluster has halted, and forwarded commands run to completion (R196, R197)
  deriving DecidableEq, Repr

/-- A task that the Registrar has read and that has not ended (R222). -/
structure Task where
  /-- Order of reading on the package (R224). -/
  index   : Nat
  /-- The descriptor (R218), its address (R220), and whether it could be read (R338). -/
  desc    : BitVec 2048
  addr    : Addr
  readable : Bool
  st      : TaskSt
  /-- Beat at which it was read (R215). -/
  beat    : Nat
  /-- The image its program_base named when it was admitted (R337). -/
  image   : Option Image
  /-- Its DEADLINE_MISS record has been written (R223). -/
  missed  : Bool := false
  /-- Clusters whose part has ended (R255). -/
  ended   : List Nat := []
  /-- First cluster to report a halt, with its code, command address and flags (R197). -/
  halt    : Option (BitVec 9 × HaltInfo) := none
  /-- Release beat that this package named in the MEMBER_UP of the task's acceptance (R477, 16; reset none). -/
  rejoinAt : Option Nat := none
  deriving DecidableEq, Repr

/-- What became of the last step (R172). -/
inductive StepOutcome where
  | clean | skipped | repeated | first
  deriving DecidableEq, Repr

/-- The step record of a program under step control, with PART_LOSS_STATE (R166, R171, R174). -/
structure StepRec where
  /-- Step number running or next to run (R167, 06; reset 0). -/
  step     : W64 := 0
  /-- L (R171, R174, 06; reset 0). -/
  lexp     : BitVec 8 := 0
  /-- clean_count (R171, R174, 06; reset 0). -/
  clean    : BitVec 16 := 0
  /-- Outcome of the last close (R172, 06; reset first). -/
  outcome  : StepOutcome := .first
  /-- last_skipped, floor_hit, tables_clamped, skipped_total (R174, 06; reset 0). -/
  lastSkipped   : Bool := false
  floorHit      : Bool := false
  tablesClamped : BitVec 16 := 0
  skippedTotal  : BitVec 16 := 0
  /-- The step is released and runs (R219, 07; reset 0). -/
  released : Bool := false
  /-- The step clasp has reached step_count since the release (R167, 06; reset 0). -/
  raised   : Bool := false
  /-- Of the step's contexts already freed: those with a non-finite gradient result, those that failed, with the
  STEP_SKEW refusals, and their latest deadline in ns (R168, R380, R407, 06/12/13; reset 0). -/
  bSeen    : Nat := 0
  fSeen    : Nat := 0
  dlSeen   : Nat := 0
  /-- Its close has begun and the verdict is awaited (R167, R168, 06; reset 0). -/
  closing  : Bool := false
  /-- Number of the last step closed (R220, 07; reset 0). -/
  closed   : W64 := 0
  /-- Release beat named by a MEMBER_UP (R477, 16; reset none). -/
  releaseAt : Option Nat := none
  /-- clean_count is set to 0 at the next release (R477, 16; reset 0). -/
  rejoin   : Bool := false
  /-- Deadlines of earlier verdict contexts by context number, for R370 (R380, 12; reset none). -/
  verdicts : Sparse Nat := []
  deriving DecidableEq, Repr

/-- A cluster's context in a spill area (R333): the carrel footprint and the rest of the cluster. -/
structure Spilled where
  cluster : Nat
  ctx     : Cluster
  carrel  : List Host.Cell
  /-- Offsets of the blocks that were poisoned when they were spilled (log 31). -/
  bad     : List Nat
  deriving DecidableEq, Repr

/-- A resident program slot (R337). -/
structure Program where
  /-- program_base of the resident program; none: empty (R337, 11; reset none). -/
  base    : Option Addr := none
  /-- Its image (R337, 11; reset none). -/
  image   : Option Image := none
  /-- It has been activated before (R333, 11; reset 0). -/
  active  : Bool := false
  /-- The spilled contexts of its clusters (R333, 11; reset none). -/
  spilled : List Spilled := []
  /-- Its step record (R166, 06). -/
  srec    : StepRec := {}
  deriving DecidableEq, Repr

/-- A staged set that a set of staging registers has checked and that awaits its commit beat (R349). -/
structure StageRun where
  id     : W32
  job    : BitVec 10
  scope  : BitVec 2
  commit : Nat
  /-- Its own check: 0 consistent, else a reason of R347; and its ready bit. -/
  result : BitVec 8
  ready  : Bool
  /-- A slice that it concerns had not formed under the plan that was checked: formation was required (R349). -/
  forming : Bool := false
  /-- GO has come, and carried formed = 1 (R349). -/
  go     : Bool := false
  formed : Bool := false
  deriving DecidableEq, Repr

/-- Staging control and status (R347). -/
structure StageRegs where
  /-- CTL as last written, without check (R347, 11; reset 0). -/
  ctl    : W64 := 0
  /-- AT (R347, 11; reset 0). -/
  at_    : W64 := 0
  /-- STATUS state, reason and last_id (R347, 11; reset IDLE, 0, 0). -/
  state  : BitVec 3 := 0
  reason : BitVec 8 := 0
  lastId : W32 := 0
  /-- The set that has been checked and awaits C (R349, 11; reset none). -/
  run    : Option StageRun := none
  deriving DecidableEq, Repr

/-- The state of a partition, by its lowest quadrant (R59). -/
structure Part where
  /-- PART_PROMOTE.auto_promote, and the value the reset in progress read (R38, R39, 01; reset 1). -/
  autoPromote    : Bool := true
  autoPromoteNow : Bool := true
  /-- PART_SUBQ and PART_CQ (R213, 07; reset 0). -/
  subq    : W64 := 0
  cq      : W64 := 0
  /-- Beat at which a write of enable 0 takes effect, and what it wrote (R213, 07; reset none, 0). -/
  subqOff : Option Nat := none
  cqOff   : Option Nat := none
  subqNext : W64 := 0
  cqNext   : W64 := 0
  /-- PART_PARK: park_after 2,000 and park_en 1; and a write waiting for its beat boundary (R212, 07; reset 0x1_07D0). -/
  park     : BitVec 32 := 0x107D0#32
  parkNext : Option (Nat × BitVec 32) := none
  /-- PART_SLOT_TABLE_i in force and staged (R331, 11; reset 0). -/
  slots    : Sparse (BitVec 32) := []
  slotsStg : Sparse (BitVec 32) := []
  /-- PART_SLOT_ANCHOR in force and staged (R331, 11; reset 0). -/
  anchor    : W64 := 0
  anchorStg : W64 := 0
  /-- PART_STAGE_CTL, _AT, _STATUS (R347, 11; reset 0). -/
  stage    : StageRegs := {}
  /-- PART_UPD_LIST in force and staged (R403, 13; reset 0). -/
  updList    : W64 := 0
  updListStg : W64 := 0
  /-- PART_LOSS_POLICY_p in force and staged (R173, 06; reset 0x0000_03E8_019F_7F8F). -/
  policy    : Sparse W64 := []
  policyStg : Sparse W64 := []
  /-- Resident program slots (R337, 11; reset empty). -/
  progs    : Sparse Program := []
  /-- Tasks read and not ended, in index order (R222, 07; reset none). -/
  tasks    : List Task := []
  /-- Beat of the last submission ring read (R215, 07; reset none). -/
  readBeat : Option Nat := none
  /-- Program slot whose context the clusters hold, and whether a table has yet made one active (R332, R333, 11; reset slot 0). -/
  active   : Option Nat := some 0
  /-- A program switch under way: the clock at which it ends, and the incoming slot (R333, R334, 11; reset none). -/
  switching : Option (Nat × Option Nat) := none
  /-- Tasks ABORTED by a reset whose records are owed, in index order, as (task_id, time of the event, last step closed, interrupt
  vector if asked for) (R224, 07; reset none). -/
  aborted  : List (W64 × Nat × W64 × Option Nat) := []
  deriving DecidableEq, Repr

/-! ## Streams and signals -/

/-- A stream (R205). -/
structure Stream where
  srcPkg  : BitVec 13
  srcCl   : BitVec 9
  dstPkg  : BitVec 13
  dstCl   : BitVec 9
  deriving DecidableEq, Repr

/-- An entry of a hub's stream table (R206): the count, and the program slot whose packet opened it (R208, R209; log 13). -/
structure StreamEntry where
  stream : Stream
  count  : W32
  prog   : Nat
  deriving DecidableEq, Repr

/-- A remote signal held until its stream's data has landed (R207). -/
structure HeldSignal where
  stream : Stream
  job    : BitVec 10
  count  : W32
  clasp  : BitVec 6
  inc    : BitVec 16
  deriving DecidableEq, Repr

/-- An add on its way to a clasp of this package (R202). -/
structure Signal where
  cluster : Nat
  clasp   : Nat
  inc     : BitVec 16
  /-- Program slot it is for: while that program is suspended the hub holds it (R335). -/
  prog    : Nat
  /-- The stream that a remote signal came on: its signals are applied in order (R207). -/
  stream  : Option Stream := none
  deriving DecidableEq, Repr

/-! ## Reduction -/

/-- A ledger: 320-bit two's complement with three sticky flags (R355). -/
structure Ledger where
  n    : BitVec 320 := 0
  nan  : Bool := false
  pinf : Bool := false
  ninf : Bool := false
  deriving DecidableEq, Repr

/-- The two copies of one source pair's units for a chunk in twin mode (R382, R383): `direct` came from the
same-side twin, `relayed` over LP6. -/
structure TwinPair where
  pair      : Nat
  tookRelay : Bool
  direct    : BitVec 64
  relayed   : BitVec 64
  nDirect   : Nat
  nRelayed  : Nat
  doneDirect  : Bool
  doneRelayed : Bool
  compared  : Bool
  deriving DecidableEq, Repr

/-- A chunk slot in use (R368, R369). -/
structure Slot where
  hub   : Nat
  /-- Its number among the 6,144 of the hub's ledger SRAM (R385). -/
  place : Nat := 0
  stage : Nat
  chunk : Nat
  /-- Ledgers by element offset; unlisted is zero. -/
  sums  : Sparse Ledger := []
  /-- Units added (R369). -/
  units : Nat := 0
  /-- Senders whose last fragment has come (R369). -/
  lasts : List Nat := []
  /-- Greatest group number of each fragment sender so far (R366). -/
  group : List (Nat × Nat) := []
  /-- A block of it was found uncorrectable or poisoned: the chunk never completes (R276, R465). -/
  dead  : Bool := false
  deriving DecidableEq, Repr

/-- The state of a context (R353). -/
inductive CtxSt where
  | open_ | complete | failed
  deriving DecidableEq, Repr

/-- A unit in an arrival log or a pre-open buffer (R368, R370): the packet and the clock of its arrival. -/
structure Unit_ where
  pkt  : Packet
  at_  : Nat
  /-- The hub that received it (R364). -/
  hub  : Nat := 0
  deriving DecidableEq, Repr

/-- A reduction context of this package (R352, R353); it holds an entry in every hub of its partition. -/
structure Ctx where
  part      : Nat
  prog      : Nat
  job       : BitVec 10
  registrar : Bool
  ctx       : BitVec 12
  gradient  : Bool
  topk      : Bool
  k         : Nat
  twin      : Bool
  step      : BitVec 20
  elements  : Nat
  deadline  : Nat
  plan      : Block
  result    : Addr
  st        : CtxSt := .open_
  reason    : BitVec 3 := 0
  slots     : List Slot := []
  /-- Chunks already forwarded or rounded, as (stage, chunk) (R354). -/
  doneChunks : List (Nat × Nat) := []
  /-- Chunks whose results have been received and written (R354, R369). -/
  gotResults : List Nat := []
  /-- Result elements received per chunk, and the member they come from (R369, R382). -/
  partial_   : List (Nat × Nat × Nat) := []
  /-- Rounded results held for the update unit, by element; unlisted is none (R251, R396). -/
  held      : Sparse (Option W32) := []
  /-- Home-hub results that are an infinity or a NaN (R168, R359). -/
  bad       : Nat := 0
  /-- Numeric flags of the roundings (R359). -/
  flags     : BitVec 10 := 0
  /-- The arrival log in order, and its bytes (R368). -/
  log       : List Unit_ := []
  logBytes  : Nat := 0
  /-- Where the next unit goes, from log_base (R368). -/
  logAt     : Nat := 0
  /-- Its entry is spilled (R384). -/
  spilled   : Bool := false
  /-- An UPD_APPLY is bound or waits (R251). -/
  bound     : Bool := false
  /-- A result write met a bus error, so the context cannot complete (R354). -/
  stuck     : Bool := false
  /-- Twin-mode copies by chunk and pair (R382, R383). -/
  pairs     : List (Nat × Nat × TwinPair) := []
  deriving DecidableEq, Repr

/-- Registers and buffers of one hub's collective engine and update unit (R388 to R390, R414 to R416). -/
structure HubSt where
  /-- HUB_RED_ERR (R389, 12; reset 0). -/
  ctxFailed : BitVec 16 := 0
  sdcAlarms : BitVec 16 := 0
  lateDrop  : BitVec 16 := 0
  malformed : BitVec 16 := 0
  /-- HUB_RED_FAILLOG (R390, 12; reset 0). -/
  failLog   : W64 := 0
  /-- HUB_LEDGER_CFG, and the program area in force (R387, 12; reset 0). -/
  ledgerCfg : BitVec 32 := 0
  scratch   : Nat := 0
  /-- HUB_UPD_ERR (R415, 13; reset 0). -/
  descBad    : BitVec 16 := 0
  stepSkew   : BitVec 16 := 0
  frozenNoop : BitVec 16 := 0
  dropped    : BitVec 16 := 0
  /-- HUB_UPD_SKEWLOG0 and 1 (R416, 13; reset 0). -/
  skewLog0  : W64 := 0
  skewLog1  : W64 := 0
  /-- Pre-open buffer, oldest first (R370, 12; reset empty). -/
  preopen   : List Unit_ := []
  /-- Outbound and inbound stream counts (R206, 07; reset none). -/
  outStreams : List StreamEntry := []
  inStreams  : List StreamEntry := []
  /-- Held signals (R207, R208, 07; reset none). -/
  heldSignals : List HeldSignal := []
  deriving DecidableEq, Repr

/-! ## Parameter update -/

/-- What has become of a binding (R393, R408, R409). -/
inductive BindSt where
  | waiting | bound | closing | done
  deriving DecidableEq, Repr

/-- A binding of a context to an update descriptor (R393). -/
structure Binding where
  /-- The model's own number of the binding, to tell bindings apart. -/
  id      : Nat
  part    : Nat
  cluster : Nat
  /-- Address of the UPD_APPLY command, which names it among the cluster's forwarded commands. -/
  cmdAddr : Addr
  cmd     : Block
  stamp   : BitVec 32
  desc    : Addr
  job     : BitVec 10
  ctx     : BitVec 12
  prog    : Nat
  st      : BindSt
  stepCtl : Bool
  /-- The step field of the context (R393), its element count and result address (R244, R396), the chunks whose
  elements are applied here (R397), and its deadline. -/
  hstep   : BitVec 20
  elements : Nat
  result  : Addr
  chunks  : List Nat
  /-- The hub that applies each of those chunks (R397). -/
  hubs    : List Nat := []
  /-- The active configuration that a commit replaced while the binding waited (R404). -/
  kept    : Option (BitVec 1024) := none
  /-- How the context ended, once it has; the context may have been freed since (R411). -/
  ended   : Option CtxSt := none
  /-- Refused with STEP_SKEW under step control: it awaits the verdict alone (R247, R407). -/
  skewed  : Bool := false
  /-- Rounded results not yet applied, by element; unlisted is none (R396). -/
  held    : Sparse (Option W32) := []
  /-- The configuration, the state and the row list read at the binding (R393), and the step of R407. -/
  cfg     : BitVec 1024 := 0
  ust     : BitVec 512 := 0
  rows    : List Nat := []
  step    : W64 := 0
  /-- L in force (R395). -/
  lexp    : BitVec 8 := 0
  /-- Elements applied (R409). -/
  applied : List Nat := []
  /-- Largest magnitude computed for the m1 and m2 arrays, as FP32 codes (R177). -/
  amax1   : W32 := 0
  amax2   : W32 := 0
  clamps  : Nat := 0
  flags   : BitVec 10 := 0
  status  : BitVec 16 := 0
  due     : Nat := 0
  deriving DecidableEq, Repr

/-- Collective engines and update units of the package. -/
structure RedSt where
  /-- Contexts, oldest first (R352, 12; reset none). -/
  ctxs     : List Ctx := []
  /-- Hubs by number (R388, R414, 12/13). -/
  hubs     : Sparse HubSt := []
  /-- Bindings, in issue-stamp order (R393, 13; reset none). -/
  bindings : List Binding := []
  deriving DecidableEq, Repr

/-! ## Fabric -/

/-- One Plemon link (R287 to R293, R299 to R303, R320, R321). -/
structure Link where
  /-- class, reason, up, port (R320, 10; reset 0, 0, 0, 7). -/
  cls    : BitVec 3 := 0
  reason : BitVec 3 := 0
  up     : Bool := false
  port   : BitVec 3 := 7
  /-- peer_id, peer_link, peer_if_major, rtt, retrains (R320, 10; reset 0). -/
  peerId    : BitVec 13 := 0
  peerLink  : BitVec 5 := 0
  peerMajor : BitVec 8 := 0
  rtt       : BitVec 20 := 0
  /-- The lane asymmetry calibrated at training, in 1/16 ns (R327, 11; reset 0: not calibrated). -/
  asym      : Int := 0
  retrains  : BitVec 8 := 0
  /-- Agreed feature set (R302, R321, 10; reset 0). -/
  cap    : W64 := 0
  /-- fec_corrected, fec_uncorrectable, replays, downs (R321, 10; reset 0). -/
  fecCorrected     : BitVec 16 := 0
  fecUncorrectable : BitVec 16 := 0
  replays : BitVec 16 := 0
  downs   : BitVec 16 := 0
  /-- Numbers of the last packet sent and of the last received in order (R288, 10; reset —: DESIGN CHOICE 0, log 23). -/
  txSeq  : BitVec 12 := 0
  rxSeq  : BitVec 12 := 0
  /-- Replay buffer: packets sent and not acknowledged, oldest first (R288, 10; reset empty). -/
  replay : List Packet := []
  /-- Training runs, since which clock, and when the next beacon is due (R299, R300, 10; reset 0). -/
  training  : Bool := false
  trainFrom : Nat := 0
  beaconAt  : Nat := 0
  /-- Clocks of the last replays, for the 16 within 1 ms of R289 (10; reset none). -/
  replayAt : List Nat := []
  /-- It went down by replays, and the neighbour has not yet said what it received (R289, R292, 10; reset 0). -/
  lost     : Bool := false
  /-- The last valid beacon: serial, plan_id, class (R300, R301, 10; reset 0). -/
  peerSerial : W64 := 0
  peerPlan  : W32 := 0
  peerClass : BitVec 3 := 0
  heard     : Bool := false
  /-- A valid beacon has named the neighbour since the package reset (R474, 16; reset 0). -/
  named     : Bool := false
  /-- The link has returned to MATCH and drains before it rejoins its bundle (R293, 10; reset 0). -/
  rejoining : Bool := false
  /-- Beacons sent, newest first (R299, 10; reset none). -/
  beacons   : List Block := []
  deriving DecidableEq, Repr

/-- A wiring plan image as the Registrar copies it (R296 to R298, R305). -/
structure Plan where
  header : Block := 0
  links  : Sparse (BitVec 128) := []
  jobs   : Sparse (BitVec 256) := []
  deriving DecidableEq, Repr

/-- A packet that waits for a credit or for its link (R293, R311): its port, the hub that sends it (R54, R290), and the forwarded
command it belongs to, named by cluster, address and issue stamp (R245, R248, R249). -/
structure WaitPkt where
  port : Nat
  hub  : Nat
  pkt  : Packet
  cmd  : Option (Nat × Addr × BitVec 32) := none
  deriving DecidableEq, Repr

/-- The link layers and fabric state of the package. -/
structure FabricSt where
  /-- STW_FABRIC_PLAN in force and staged (R296, 10; reset 0). -/
  planReg    : W64 := 0
  planStg    : W64 := 0
  /-- The committed plan image (R296, 10; reset none). -/
  plan       : Plan := {}
  /-- Links (R320, 10). -/
  links      : Sparse Link := []
  /-- PLK_DROP0 and PLK_DROP1 by hub: job_drop, epoch_drop, member_drop, land_drop, other_drop (R322, 10; reset 0). -/
  drops      : Sparse (Nat × Nat × Nat × Nat × Nat) := []
  /-- Previous epoch of a job, and the beat at which its grace ends (R316, 10; reset none). -/
  prevEpoch  : Sparse (Option (BitVec 16 × Nat)) := []
  /-- Formed slices by job (R308, 10; reset none). -/
  formed     : List Nat := []
  /-- (job, member) pairs under notice (R475, 16; reset none). -/
  notices    : List (Nat × Nat) := []
  /-- Jobs whose other members hold this package under its own notice: MEMBER_DOWN sent, no MEMBER_UP since (R473,
  R477, 16; reset none; log 32). -/
  downSent   : List Nat := []
  /-- Credits taken on each (port, class, vc), by 8*port + 2*class + vc (R311, 10; reset 0). -/
  credits    : Sparse Nat := []
  /-- Credits of each (port, class, vc): the manual gives no number (R311, 10; reset —: DESIGN CHOICE 256, log 20). -/
  creditMax  : Nat := 256
  /-- Packets waiting for a credit or for their link (R293, R311, 10; reset none). -/
  waiting    : List WaitPkt := []
  /-- Signals of completed commands on their way to a clasp of this package (R202, 07; reset none). -/
  signals    : List Signal := []
  deriving DecidableEq, Repr

/-! ## System time -/

/-- Time states (R328). -/
inductive TimeState where
  | free | acquire | locked | holdover | unlocked
  deriving DecidableEq, Repr

/-- The clock and system time (R324 to R329). -/
structure TimeSt where
  /-- The model's clock since reset in 1/21 ns: a tile cycle is 10, a hub cycle 15, a nanosecond 21 (R5, 00; reset 0). -/
  ticks  : Nat := 0
  /-- TIME_NOW in 1/21 ns (R324, 11; reset 0 by R326). -/
  now    : Nat := 0
  /-- Correction still to be slewed in, in 1/21 ns (R324, R326, 11; reset 0). -/
  slew   : Int := 0
  /-- What of a unit has been earned toward the slew, in millionths of 1/21 ns (R324, 11; reset 0). -/
  slewRem : Nat := 0
  /-- STATUS.state (R328, R329, 11; reset ACQUIRE, which R485 begins in phase 5: role resets to FOLLOWER, DEDUCED, log 14). -/
  state  : TimeState := .acquire
  /-- ref_lost, stepped, parent_link, offset (R329, 11; reset 0, 0, 31, 0); holdover_ms is read from heldFrom. -/
  refLost    : Bool := false
  stepped    : Bool := false
  parentLink : BitVec 5 := 31
  offset     : BitVec 16 := 0
  /-- LOCKED has been entered since the package reset, so that no step may follow (R324, 11; reset 0). -/
  everLocked : Bool := false
  /-- STW_TIME_CFG as written, and as in force since the last package reset (R325, 11; reset 0). -/
  cfg    : BitVec 32 := 0
  cfgOn  : BitVec 32 := 0
  /-- Seconds named by STW_TIME_SET and not yet used (R326, 11; reset none). -/
  setSecs : Option Nat := none
  /-- Reference time of the next 1PPS edge in ns (R326, 11; reset none). -/
  refNext : Option Nat := none
  /-- Successive usable syncs, edges or measurements within their bound (R326, R328, 11; reset 0). -/
  good    : Nat := 0
  /-- Offset last measured before the first entry to LOCKED, in 1/21 ns: the prediction of R326 (11; reset none). -/
  predict : Option Int := none
  /-- Clock of the last usable sync and of the last 1PPS edge (R328, R495, 11/17; reset 0). -/
  lastSync : Nat := 0
  lastPps  : Nat := 0
  /-- Clock at which holdover began (R328, 11; reset 0). -/
  heldFrom : Nat := 0
  /-- The system job's TIME_SYNC beat last sent (R327, 11; reset none). -/
  syncSent : Option Nat := none
  deriving DecidableEq, Repr

/-- A set that this package decides as stage root (R348, R349). -/
structure RootRec where
  id      : W32
  scope   : BitVec 2
  job     : BitVec 10
  commit  : Nat
  /-- With scope 0, the registers that the set belongs to: no message names them. -/
  set     : Option StageSet
  /-- Reports received: (package, digest, result, ready). -/
  reports : List (Nat × W64 × BitVec 8 × Bool)
  /-- The members, and Dg, by the plan in force at the root's check; until then, as the first report finds it (R348). -/
  members : List Nat := []
  dg      : Nat := 0
  /-- A slice that the set concerns is to form with degraded_ok, by the plan that the root checked (R309). -/
  degraded : Bool := false
  /-- The root's own check failed, or its Registrar restarted over beat D (R349, R436). -/
  failed  : Bool
  deriving DecidableEq, Repr

/-! ## Power -/

/-- The input monitor, the Bursar's registers and the environmental status (R343, R488, R494, R498 to R500). -/
structure PowerSt where
  /-- The package is powered and out of power loss (R487, 17; reset on). -/
  on        : Bool := true
  /-- PKG_RESET_N is low (R494, 17; reset high). -/
  pinLow    : Bool := false
  /-- Successive 1 µs samples: both blades at or above 43.0 V; below 44 V and at least 42 V; below 42 V; above 56 V; at or below 56 V (R487, R488, 17; reset 0). -/
  goodFor   : Nat := 0
  lowFor    : Nat := 0
  veryLowFor : Nat := 0
  highFor   : Nat := 0
  fineFor   : Nat := 0
  /-- The input is disconnected after V > 60 V (R488, 17; reset 0). -/
  cut       : Bool := false
  /-- No restart until V is at most 56 V for 10 ms (R488, 17; reset 0). -/
  highHold  : Bool := false
  /-- STW_ENV_STATUS (R500, 17; reset 0). -/
  env       : W64 := 0
  /-- Successive 10 µs readings of each die at or above 105 °C (R499, 17; reset 0). -/
  hotFor    : Sparse Nat := []
  /-- The thermal trip holds (R499, 17; reset 0). -/
  trip      : Bool := false
  /-- Best-effort issue is held by temperature (R498, 17; reset 0). -/
  thermalHold : Bool := false
  /-- STW_POWER_CAP: cap_w, cap_eff, cap_held, over_cap, be_fraction (R343, 11; reset 5000, 5000, 0, 0, 16). -/
  capW      : Nat := 5000
  capEff    : Nat := 5000
  capHeld   : Bool := false
  overCap   : Bool := false
  beFraction : Nat := 16
  deriving DecidableEq, Repr

/-! ## Steward, firmware and security -/

/-- A firmware processor's run state (R434, R443). -/
inductive RunSt where
  | running | restarting | failed
  deriving DecidableEq, Repr

/-- A firmware processor (R433, R434). -/
structure FwProc where
  /-- Run state (R443, 15; reset RUNNING). -/
  st       : RunSt := .running
  /-- Clocks of its restarts within the last second (R434, 15; reset none). -/
  restarts : List Nat := []
  /-- Clock of the last watchdog service before the restart under way (R434, 15; reset 0). -/
  since    : Nat := 0
  /-- Watchdog expiries since package reset (R483, 16; reset 0). -/
  expiries : Nat := 0
  deriving DecidableEq, Repr

/-- A firmware bundle in flash with the outcome of each check of R451 that needs its keys or bytes. -/
structure Bundle where
  magic     : W32
  component : BitVec 2
  svn       : BitVec 6
  rsaSlot   : BitVec 2
  slhSlot   : BitVec 2
  reservedZero : Bool
  keysMatch : Bool
  bodyHashOk : Bool
  rsaOk     : Bool
  slhOk     : Bool
  hash      : BitVec 384
  deriving DecidableEq, Repr

/-- A lifecycle token in the carve-out, in decoded form (R460; the manual gives no layout: DESIGN CHOICE, log 6). -/
structure Token where
  sigOk  : Bool
  serial : W64
  fromSt : BitVec 3
  toSt   : BitVec 3
  count  : Nat
  deriving DecidableEq, Repr

/-- The steward's pages and the control complex (R429 to R462). -/
structure StewardSt where
  /-- STW_IF_VERSION: if_minor in [7:0], if_major in [15:8] (R445, 15; reset —: DESIGN CHOICE 0x0100, log 11). -/
  ifVersion : BitVec 16 := 0x0100
  /-- STW_HOST_IF (R445, 15; reset 0). -/
  hostIf  : W64 := 0
  /-- STW_FEAT_ACCEPT and STW_FEAT_AGREED (R446, 15; reset 0). -/
  accept  : BitVec 256 := 0
  agreed  : BitVec 256 := 0
  /-- STW_NEG_STATUS (R447, 15; reset OPEN). -/
  neg     : BitVec 2 := 0
  /-- The firmware's own features, bits [70:64] and link features (R303, R446, 15; DESIGN CHOICE: all, log 11). -/
  fwFeatures   : BitVec 7 := 0x7F
  linkFeatures : W64 := 0x7F
  /-- STW_EVENTS and STW_HOST_ERRLOG (R441, R442, 15; reset 0). -/
  events  : W64 := 0
  errlog  : W64 := 0
  /-- Firmware processors (R443, 15; reset RUNNING), and restarts of every processor since package reset. -/
  custodian : FwProc := {}
  bursar    : FwProc := {}
  registrar : FwProc := {}
  curators  : Sparse FwProc := []
  restarts  : BitVec 16 := 0
  /-- STW_TIME_CFG's companion settings are in TimeSt; STW_MEMCFG as written and as in force (R59, 02; reset layout 0, carve 16). -/
  memcfg   : BitVec 32 := 0x80
  memcfgOn : BitVec 32 := 0x80
  /-- UCIe modules up (R430, 15; reset both). -/
  ucie     : BitVec 2 := 3
  /-- STW_ATTEST_CTL op, done, error; NONCE; BUF (R456, 15; reset 0). -/
  attOp    : BitVec 2 := 0
  attDone  : Bool := false
  attError : Bool := false
  nonce    : BitVec 384 := 0
  /-- STW_ATTEST_NONCE as written: it takes effect with its last word (R440, 15; reset 0). -/
  nonceStg : BitVec 384 := 0
  attBuf   : W64 := 0
  /-- The attestation operation under way: op, the nonce as read, the buffer, TIME_NOW at its start (R456, R457, 15; reset none). -/
  attBusy  : Option (BitVec 2 × BitVec 384 × Nat × Nat) := none
  /-- M0 to M5 (R455, 15; reset zero, then as the boot extends them by R452; log 7). -/
  meas     : List (BitVec 384) := [0, 0, 0, 0, 0, 0]
  /-- Anti-rollback fuse counters (R453, 15; reset —: DESIGN CHOICE 0, log 11). -/
  ctr      : List Nat := [0, 0, 0]
  /-- svn of the running bundles (R450, R457, 15; reset —: DESIGN CHOICE 0, log 11). -/
  svn      : List Nat := [0, 0, 0]
  /-- STW_SVN_COMMIT under way (R454, 15; reset none). -/
  svnBusy  : Option (BitVec 3) := none
  /-- Flash bundles by 2*component + slot (R452, 15; reset —: DESIGN CHOICE, log 11). -/
  bundles  : Sparse (Option Bundle) := []
  /-- Revocation bits of the four RSA and four SLH-DSA key slots (R449, 15; reset —: DESIGN CHOICE none, log 11). -/
  revoked  : BitVec 8 := 0
  /-- The package stays in reset for want of a Custodian bundle (R452, 15; reset 0). -/
  romOnly  : Bool := false
  /-- No die enters service for want of a bundle (R452, 15; reset 0). -/
  noService : Bool := false
  /-- Lifecycle fuses: state, transitions made, RETURNED to PROVISIONED transitions left (R459 to R461, 15; reset —: DESIGN CHOICE DEPLOYED, 2, 3, log 11). -/
  lifecycle  : BitVec 3 := 2
  transitions : Nat := 2
  redeploys  : BitVec 4 := 3
  /-- STW_LIFECYCLE target, result, token_addr; a transition is in progress (R461, 15; reset 0). -/
  lcTarget : BitVec 3 := 0
  lcResult : BitVec 3 := 0
  lcToken  : BitVec 48 := 0
  lcBusy   : Option (BitVec 3) := none
  /-- Tokens in the carve-out by address (R460, 15; reset none). -/
  tokens   : Sparse (Option Token) := []
  /-- The attestation certificates stand in flash, and the device secret is not revoked (R460, 15; reset yes). -/
  certsHeld : Bool := true
  secretOk  : Bool := true
  deriving DecidableEq, Repr

/-- The response to a host access (R58, R440, R277). -/
inductive HostResp where
  | none
  | done (data : Nat)
  | error      -- error completion
  | exception  -- load or fetch access fault (R277)
  | poisoned   -- PCI Express completion with poisoned data (R277)
  | unsupported  -- Unsupported Request (R431)
  | dropped    -- a narrow write not applied, without exception (R277)
  | held       -- waits for a restart (R440)
  deriving DecidableEq, Repr

/-- What the host sees: the last response, held accesses, and interrupts sent (R221, R432, R440). -/
structure HostSt where
  /-- Response to the last access (R440, 15; reset none). -/
  resp : HostResp := .none
  /-- Accesses to the pages held for a restarting processor, in arrival order (R440, 15; reset none). -/
  held : List HostReq := []
  /-- Low words written of 8-byte registers whose high word has not been written yet, by register address (R440, 15;
  reset none). -/
  low  : Sparse (Option W32) := []
  /-- Message-signalled interrupt vectors sent, oldest first (R221, R432, 07/15; reset none). -/
  msi  : List Nat := []
  deriving DecidableEq, Repr

/-! ## Resets and recovery -/

/-- The last reset that covered a quadrant: STW_RESET_LAST_q (R468). -/
structure ResetLast where
  /-- phase, cause, package, archived, promoted, duration_us (R468, 16; reset 0). -/
  phase    : BitVec 4 := 0
  cause    : BitVec 4 := 0
  package  : Bool := false
  archived : Bool := false
  promoted : Bool := false
  duration : BitVec 32 := 0
  deriving DecidableEq, Repr

/-- An entry of an archive record (R482, R483): `data` lists the non-zero bytes by offset. -/
structure ArchiveEntry where
  kind   : BitVec 4
  index  : BitVec 9
  source : BitVec 2
  length : Nat
  time   : W64
  data   : List Host.Cell
  deriving DecidableEq, Repr

/-- An archive record (R482). -/
structure ArchiveRec where
  seq     : W32
  time    : W64
  qmask   : BitVec 4
  package : Bool
  cause   : BitVec 4
  entries : List ArchiveEntry
  deriving DecidableEq, Repr

/-- A partition reset under way (R470): its quadrants, the phase in progress, its cause, the clock of its start,
and the units of the archive not yet dumped. -/
structure PartReset where
  quads : BitVec 4
  phase : BitVec 4
  cause : BitVec 4
  from_ : Nat
  /-- TIME_NOW at its start. -/
  at_   : Nat := 0
  /-- Clock at which its present phase began. -/
  since : Nat := 0
  units : List (BitVec 4 × BitVec 9) := []
  dump  : List ArchiveEntry := []
  /-- Dies that failed self-test in phase 4, for phase 5 (R32, R466). -/
  failed : List Nat := []
  deriving DecidableEq, Repr

/-- The reset controller (R467 to R486, R491). -/
structure ResetSt where
  /-- Partition resets under way, by lowest quadrant (R470, 16; reset none). -/
  parts    : Sparse (Option PartReset) := []
  /-- The package reset under way (R485, 16; reset none). -/
  pkg      : Option PartReset := none
  /-- Partition resets since power-on, saturating (R467, 16; reset 0). -/
  resets   : W32 := 0
  /-- STW_RESET_LAST_q (R468, 16; reset 0 at power-on; complete after the power-on reset, log 9). -/
  last     : Sparse ResetLast := []
  /-- The four archive slots in flash, and the newest (R480, R484, 16; reset —: DESIGN CHOICE empty, log 11). -/
  archive  : Sparse (Option ArchiveRec) := []
  newest   : BitVec 2 := 0
  /-- STW_ARCHIVE_CTL slot, busy, done, error; STW_ARCHIVE_BUF (R484, 16; reset 0). -/
  arSlot   : BitVec 2 := 0
  arBusy   : Option (BitVec 2 × Nat) := none
  arDone   : Bool := false
  arError  : Bool := false
  arBuf    : W64 := 0
  /-- STW_RESYNC_CTL fields, LIST, HOLD and STEP in force and staged (R479, 16; reset 0). -/
  rsCtl    : W64 := 0
  /-- STW_RESYNC_CTL[15:0] as last written, a running resync or not (R479, 16; reset 0). -/
  rsWritten : W64 := 0
  rsState  : BitVec 3 := 0
  rsList   : W64 := 0
  rsHold   : W64 := 0
  rsHoldStg : W64 := 0
  rsStep   : W64 := 0
  rsStepStg : W64 := 0
  /-- The hold of STW_RESYNC_HOLD stands: set by its commit with hold_en 1, ended by MEMBER_UP (R478, 16; reset 0). -/
  rsHolding : Bool := false
  /-- Ranges of the list not yet copied whole, as (address, length, bytes still to come) (R478, 16; reset none). -/
  rsLeft   : List (Nat × Nat × Nat) := []
  /-- Step and L of the partner's RESYNC_READY (R478, 16; reset 0). -/
  rsReady  : Option (W64 × BitVec 8) := none
  /-- A resync request waits for this package's hold (R478, 16; reset none). -/
  rsAsked  : Option (BitVec 10 × BitVec 13) := none
  /-- STW_FAULT_COUNT: lanes, slices, links, fw_restarts, failovers, beyond, notices (R486, 16; reset 0). -/
  fcLanes : BitVec 8 := 0
  fcSlices : BitVec 8 := 0
  fcLinks : BitVec 8 := 0
  fcFw : BitVec 8 := 0
  fcFailovers : BitVec 8 := 0
  fcBeyond : BitVec 8 := 0
  fcNotices : BitVec 8 := 0
  /-- STW_PD_STATE0 and 1: domains on (R40, R491, 01/17; reset —: all that R41 and R490 leave on). -/
  pd       : BitVec 92 := 0
  /-- PCIE_PERST_N is high: the package drives it high once its root port is ready (R493, 17; reset —: ready, log 94). -/
  perstN   : Bool := false
  deriving DecidableEq, Repr

/-! ## The package -/

/-- One DRN-N512 package. -/
structure State where
  /-- Commands waiting, first in first out (reset empty). -/
  pending  : List Instr := []
  /-- Clock and system time (R324). -/
  time     : TimeSt := {}
  /-- Data memories (R57, R270). -/
  mem      : MemSt := {}
  /-- Clusters by logical number; unlisted is a cluster as a partition reset leaves it (R28, R98). -/
  clusters : Sparse Cluster := []
  /-- The Izaux mesh (R42). -/
  mesh     : MeshSt := {}
  /-- Panel and catalogue (R9, R15). -/
  panel    : PanelSt := {}
  /-- Program images by package address (R337). -/
  images   : Sparse (Option Image) := []
  /-- Partitions by lowest quadrant (R59). -/
  parts    : Sparse Part := []
  /-- Tasks read so far, for the task index (R224; reset 0). -/
  nextTask : Nat := 0
  /-- Collective engines and update units (R352, R393). -/
  red      : RedSt := {}
  /-- Fabric (R287). -/
  fabric   : FabricSt := {}
  /-- Stage sets of the package page, and sets this package decides as root (R347, R349; reset none). -/
  stage    : StageRegs := {}
  roots    : List RootRec := []
  /-- Input, power cap and environment (R343, R488). -/
  power    : PowerSt := {}
  /-- Steward pages, firmware, security (R429). -/
  stw      : StewardSt := {}
  /-- What the host sees (R440). -/
  host     : HostSt := {}
  /-- Reset controller, archive, resync (R467). -/
  reset_   : ResetSt := {}
  /-- The model's own field: how many free values have been drawn (reset 0, DESIGN CHOICE, log 3). -/
  fresh    : Nat := 0
  deriving DecidableEq, Repr

/-! ## Right after reset -/

/-- The reserve site of each quadrant as package test chose it: the quadrant's centre (R12; DESIGN CHOICE, log 10). -/
def reserveSite (q : Nat) : Nat := [7, 10, 25, 28].getD q 0

/-- The eight sites of quadrant `q` that hold slots 0 to 7, in increasing order (R29). -/
def factorySlots (q : Nat) : List Nat := (quadSites q).filter (fun ts => ts != reserveSite q)

/-- Facts of die `d` (log 10): all dies of stepping 0, numerics revision 1 and every feature of R26. -/
def factoryDie (d : Nat) : DieFacts :=
  { strap := if d < 36 then strapWord d (siteQuad d) (b2n (d = reserveSite (siteQuad d))) 0
             else strapWord 0x3F (d - 36) 0 0
    serial := BitVec.ofNat 64 (d + 1), stepping := 0, numerics := 1, features := 0x1FF }

/-- A site entry of R18 as 256 bits. -/
def siteEntry (site quad role res slot stepping numerics serial features : Nat) : BitVec 256 :=
  BitVec.ofNat 256 (site + quad * 2 ^ 6 + role * 2 ^ 8 + res * 2 ^ 11 + slot * 2 ^ 12 +
    stepping * 2 ^ 16 + numerics * 2 ^ 24 + serial * 2 ^ 32 + features * 2 ^ 96)

/-- The catalogue entry of die `d` as package test wrote it (R18, R29, log 10). -/
def factoryEntry (d : Nat) : BitVec 256 :=
  if d < 36 then
    let q := siteQuad d
    match (factorySlots q).findIdx? (fun ts => ts == d) with
    | some sl => siteEntry d q 0 0 sl 0 1 (d + 1) 0x1FF
    | none => siteEntry d q 1 1 0xF 0 1 (d + 1) 0x1FF
  else siteEntry 0x3F (d - 36) 0 0 0xF 0 1 (d + 1) 0x1FF

/-- The catalogue as it left package test: panel serial 1, stepping 0, numerics revision 1, sequence 1, no
field record (R17, log 10). -/
def factoryCatalogue : Catalogue :=
  { version := 1, panel := 1, stepping := 0, numerics := 1, features := 0x1FF, seq := 1,
    entries := (List.range 40).map factoryEntry, journal := [], sigOk := true }

/-- Tile dies in service after the first reset: every site but the four reserves (R29, R41). -/
def factoryInService : List Nat :=
  (List.range 36).filter (fun d => d != reserveSite (siteQuad d)) ++ [36, 37, 38, 39]

/-- Edges that train after the first reset: those whose ends are both powered (R41, R44). -/
def factoryEdges : List Nat :=
  (List.range 76).filter (fun e => factoryInService.contains (edgeEnds e).1 &&
    factoryInService.contains (edgeEnds e).2)

/-- Route tables of layout 0 over the given dies and edges (R53): one entry for each pair of distinct dies. -/
def routeTable (dies edges : List Nat) (bw : Nat → Nat) : List Route :=
  dies.flatMap (fun a => dies.filterMap (fun b =>
    if a = b then none else some { src := a, dst := b, next := nextEdges edges bw a b }))

/-- Domains on after the first reset: every PD_TS but the reserves', PD_M, PD_HC, PD_HL and the steward's; no
PD_PL, because no plan is loaded (R40, R41, R490). -/
def factoryDomains : BitVec 92 :=
  BitVec.ofNat 92 (((List.range 92).filter (fun d =>
    if d < 36 then d != reserveSite (siteQuad d) else d < 68 || 88 ≤ d)).foldl (fun a d => a + 2 ^ d) 0)

/-- A firmware bundle that passes every check of R451, at svn 0 (log 11). -/
def factoryBundle (component : Nat) : Bundle :=
  { magic := 0x4E594D42, component := BitVec.ofNat 2 component, svn := 0, rsaSlot := 0, slhSlot := 0,
    reservedZero := true, keysMatch := true, bodyHashOk := true, rsaOk := true, slhOk := true, hash := 0 }

/-- M extended by a digest (R455). -/
def extend (m d : BitVec 384) : BitVec 384 := Config.sha384 (leBytes m.toNat 48 ++ leBytes d.toNat 48)

/-- M0 to M5 after the boot (R452, R455): M0 to M2 by the running bundles, M3 by the catalogue, M4 by the fuse configuration, M5
zero. `h` are the bundles' hashes, `seq` the catalogue's sequence number and `fuse` a number for the fuses. -/
def bootMeas (h : List (BitVec 384)) (seq fuse : Nat) : List (BitVec 384) :=
  [extend 0 (h.getD 0 0), extend 0 (h.getD 1 0), extend 0 (h.getD 2 0), extend 0 (Config.bootDigest 3 seq),
   extend 0 (Config.bootDigest 4 fuse), 0]

/-- A number that names the fuse configuration: lifecycle, transitions and the anti-rollback counters (R452). -/
def fuseNumber (lifecycle : BitVec 3) (transitions : Nat) (ctr : List Nat) : Nat :=
  lifecycle.toNat + 8 * (transitions % 2 ^ 8) + 2 ^ 11 * (ctr.getD 0 0 + 64 * ctr.getD 1 0 + 4096 * ctr.getD 2 0)

/-- The package right after its power-on package reset (R485), in layout 0, not yet negotiated (R447). -/
def State.reset : State :=
  { mesh := { edges := factoryEdges.map (fun e => (e, { up := true, sliceUp := allSlices e })),
              routes := routeTable factoryInService (factoryEdges.filter (fun e => e < 72)) edgeSlices }
    panel := { dies := (List.range 40).map factoryDie,
               straps := (List.range 40).map (fun d => (d, (factoryDie d).strap)),
               copyA := some factoryCatalogue, copyB := some { factoryCatalogue with seq := 0 },
               inService := factoryInService,
               slotSite := (List.range 32).map (fun i =>
                 (i, BitVec.ofNat 8 ((factorySlots (i / 8)).getD (i % 8) 0xFF))) }
    stw := { bundles := (List.range 6).map (fun i => (i, some (factoryBundle (i / 2))))
             meas := bootMeas [0, 0, 0] 1 (fuseNumber 2 2 [0, 0, 0]) }
    reset_ := { last := (List.range 4).map (fun q => (q, { phase := 0xF, package := true })),
                pd := factoryDomains, perstN := true } }

end Sys2Proof.Machine
end

