-- ==== Sys2Proof/Machine/Memory.lean ====
section
/-!
DEFINITION. The stores as the requesters meet them: the row and column parity code, mending and poisoning (R270
to R277), the merge buffers (R278 to R280), whole and narrow writes (R259), wipes (R273) and scrub reads (R281,
R282). Blocks are named by their number, the address divided by 64.
-/
namespace Sys2Proof.Machine

/-! ## The parity code -/

/-- XOR of the low `k` bits of `n`. -/
def parityOf (n : Nat) : Nat → Bool
  | 0 => false
  | k + 1 => parityOf n k != n.testBit k

/-- Word Di of a block (R270). -/
def dword (d i : Nat) : Nat := nfld d (64 * i) 64

/-- col_parity of a block's data (R270). -/
def colParity (d : Nat) : Nat := (List.range 8).foldl (fun a i => a ^^^ dword d i) 0

/-- row_parity of a block's data (R270). -/
def rowParity (d : Nat) : Nat :=
  (List.range 8).foldl (fun a i => a + b2n (parityOf (dword d i) 64) * 2 ^ i) 0

/-- The 80-bit code of a block's data, state valid (R270, R273). -/
def codeFor (d : Nat) : BitVec 80 :=
  let r := rowParity d
  BitVec.ofNat 80 (colParity d + r * 2 ^ 64 + b2n (parityOf r 8) * 2 ^ 72)

/-- The state field read by majority: poisoned (R275). -/
def codePoisoned (c : BitVec 80) : Bool := 4 ≤ popCount (fld c 73 7) 7

/-- The number of the only set bit, if exactly one bit is set. -/
def oneBit (n : Nat) : Option Nat := if n ≠ 0 ∧ n &&& (n - 1) = 0 then some (Nat.log2 n) else none

/-- What a read finds (R271, R275): the data; the data after a mend; an uncorrectable block; a poisoned one. -/
inductive BlockRead where
  | ok
  | mend (data : Nat)
  | bad
  | poisoned
  deriving DecidableEq, Repr

/-- The decode of R271 over a block's data and stored code. -/
def decodeBlock (d : Nat) (c : BitVec 80) : BlockRead :=
  if codePoisoned c then .poisoned
  else
    let col := fld c 0 64
    let row := fld c 64 8
    let corner := bit c 72
    let sr := row ^^^ rowParity d
    let sc := col ^^^ colParity d
    let kr := corner != parityOf row 8
    let kc := corner != parityOf col 64
    match oneBit sr, oneBit sc with
    | some i, some j =>
      if !kr && !kc then .mend (d ^^^ (2 ^ (64 * i + j))) else .bad
    | some _, none => if sc = 0 ∧ kr ∧ !kc then .mend d else .bad
    | none, some _ => if sr = 0 ∧ !kr ∧ kc then .mend d else .bad
    | none, none =>
      if sr = 0 ∧ sc = 0 then (if !kr && !kc then .ok else if kr && kc then .mend d else .bad) else .bad

/-! ## Blocks and stores -/

/-- What every access needs to know beside the memories: the layout in force and the clock. -/
structure MemX where
  lay   : Nat
  clock : Nat
  deriving DecidableEq, Repr

/-- Address base and stacks of the partition of lowest quadrant `q` in a layout (R60). -/
def partBase (q : Nat) : Addr := q * quadBytes
def partSpan (lay q : Nat) : Nat := (layoutQuads lay q).length * quadBytes

/-- Stack and within-stack offset of an HBM address (R62). -/
def stackOf (lay : Nat) (a : Addr) : Nat × Nat :=
  let q := partOfQuad lay (a / quadBytes)
  interleave (partBase q) q (layoutQuads lay q).length a

/-- Number of the pseudo-channel of an HBM address among those of all stacks (R62). -/
def pseudoNo (lay : Nat) (a : Addr) : Nat := 64 * (stackOf lay a).1 + hbmPc ((stackOf lay a).2 / 512)

/-- A request of another source waits behind the aged request of its pseudo-channel (R69). -/
def MemSt.heldAt (m : MemSt) (lay : Nat) (a : Addr) (source : Nat) : Bool :=
  m.aged.any (fun x => x.1 == pseudoNo lay a && x.2.source != source)

/-- The requests of a source have been granted: none of them blocks its pseudo-channel any more (R69). -/
def MemSt.grant (m : MemSt) (source : Nat) : MemSt := { m with aged := m.aged.filter (fun x => x.2.source != source) }

/-- Sources in the order of R68 after the 512 clusters: a hub, the steward, and a Plemon port. -/
def sourceHub (h : Nat) : Nat := 512 + h
def sourceSteward : Nat := 516
def sourcePort (port : Nat) : Nat := 517 + port

/-- The store that holds an address: cluster 0 to 511, hub ledger 512 to 515, stack 520 to 543 (R57, R62). -/
def storeOf (lay : Nat) (a : Addr) : Nat :=
  if a < hbmEnd then 520 + (stackOf lay a).1
  else if a < ledgerBase then (a - carrelBase) / carrelSize
  else 512 + (a - ledgerBase) / ledgerSize

/-- Data of block `b` as a number (R3). -/
def MemSt.blockNat (m : MemSt) (b : Nat) : Nat :=
  leNat ((List.range 64).map (fun i => sget 0 m.bytes (64 * b + i)))

/-- Code of block `b`. -/
def MemSt.code (m : MemSt) (b : Nat) : BitVec 80 := sget 0 m.codes b

/-- Block `b` is poisoned (R275). -/
def MemSt.poisoned (m : MemSt) (b : Nat) : Bool := codePoisoned (m.code b)

/-- The bytes [a, a + n) as they stand. -/
def MemSt.peek (m : MemSt) (a : Addr) (n : Nat) : List Byte :=
  (List.range n).map (fun i => sget 0 m.bytes (a + i))

/-- A number of `n` bytes at `a` as it stands (R3). -/
def MemSt.peekNat (m : MemSt) (a : Addr) (n : Nat) : Nat := leNat (m.peek a n)

/-- Put a block's 64 data bytes in place. -/
def setBlockBytes (bytes : List Host.Cell) (b d : Nat) : List Host.Cell :=
  (List.range 64).foldl (fun bs i => sset 0 bs (64 * b + i) (BitVec.ofNat 8 (nfld d (8 * i) 8))) bytes

/-- A list of unspecified block ranges without block `b` (log 31). -/
def cutVague (b : Nat) (v : List (Nat × Nat × Nat)) : List (Nat × Nat × Nat) :=
  v.flatMap (fun r =>
    if r.1 ≤ b ∧ b < r.1 + r.2.1 then
      (if r.1 < b then [(r.1, b - r.1, r.2.2)] else []) ++
        (if b + 1 < r.1 + r.2.1 then [(b + 1, r.1 + r.2.1 - (b + 1), r.2.2)] else [])
    else [r])

/-- Change the protection counters of a store. -/
def MemSt.onProt (m : MemSt) (st : Nat) (f : Prot → Prot) : MemSt :=
  { m with prot := sset {} m.prot st (f (sget {} m.prot st)) }

/-- Write a block's data with a fresh valid code (R272, R273): a poisoned block becomes valid. -/
def MemSt.writeWhole (m : MemSt) (x : MemX) (b d : Nat) : MemSt :=
  let m := if m.poisoned b then m.onProt (storeOf x.lay (64 * b))
      (fun p => { p with poisonedNow := if p.poisonedNow = 0 then 0 else p.poisonedNow - 1 }) else m
  { m with bytes := setBlockBytes m.bytes b d, codes := sset 0 m.codes b (codeFor d), vague := cutVague b m.vague }

/-- Block `b` is met: if its bytes are unspecified, they take values that nothing constrains (R333, log 31). -/
def MemSt.reveal (m : MemSt) (b : Nat) : MemSt :=
  match m.vague.find? (fun r => decide (r.1 ≤ b ∧ b < r.1 + r.2.1)) with
  | none => m
  | some r =>
    let d := leNat ((List.range 64).map (fun i => Config.freeCarrel r.2.2 (64 * b + i)))
    let m := { m with vague := cutVague b m.vague }
    if m.poisoned b then m
    else { m with bytes := setBlockBytes m.bytes b d, codes := sset 0 m.codes b (codeFor d) }

/-- Why a block was found uncorrectable, as R285 numbers it: 0 demand read, 1 merge read-modify-write, 2 scrub. -/
abbrev ErrSource := Nat

/-- An error log word of R285. -/
def errWord (b : Nat) (src : ErrSource) : W64 := BitVec.ofNat 64 (64 * b + 2 ^ 48 + src * 2 ^ 49)

/-- Poison block `b` (R274): state set, data and parity kept, the event counted once and logged while the log's
valid bit is 0 (R285). -/
def MemSt.poison (m : MemSt) (x : MemX) (src : ErrSource) (b : Nat) : MemSt :=
  let st := storeOf x.lay (64 * b)
  let m := m.onProt st (fun p => { p with
    uncorrectable := satAdd p.uncorrectable 1, poisonedNow := satAdd p.poisonedNow 1 })
  let log := sget 0 m.errlog st
  { m with
    codes := sset 0 m.codes b (m.code b ||| BitVec.ofNat 80 (127 * 2 ^ 73))
    errlog := if bit log 48 then m.errlog else sset 0 m.errlog st (errWord b src)
    newPoison := m.newPoison ++ [64 * b] }

/-- Read block `b` through its decode (R271 to R275): mend and count, or poison, or leave as it is. -/
def MemSt.readBlock (m : MemSt) (x : MemX) (src : ErrSource) (b : Nat) : MemSt :=
  let m := m.reveal b
  match decodeBlock (m.blockNat b) (m.code b) with
  | .ok => m
  | .poisoned => m
  | .bad => m.poison x src b
  | .mend d =>
    let m := m.onProt (storeOf x.lay (64 * b)) (fun p => { p with corrected := satAdd p.corrected 1 })
    { m with bytes := setBlockBytes m.bytes b d, codes := sset 0 m.codes b (codeFor d) }

/-! ## Merge buffers -/

/-- Data of a block with the bytes of a mask replaced. -/
def maskBytes (old new : Nat) (mask : BitVec 64) : Nat :=
  (List.range 64).foldl (fun a i => if bit mask i then setFld a (8 * i) 8 (nfld new (8 * i) 8) else a) old

/-- Commit one entry (R279), already taken out of the buffer: whole with a full mask; else a read-modify-write,
whose bytes are discarded when the read finds the block uncorrectable or poisoned (R280 names whom to tell). -/
def MemSt.commitEntry (m : MemSt) (x : MemX) (e : MergeEntry) : MemSt :=
  let b := e.block / 64
  if e.mask = BitVec.allOnes 64 then m.writeWhole x b e.data.toNat
  else
    let m := m.readBlock x 1 b
    if m.poisoned b then { m with lost := m.lost ++ e.owners.filter (fun o => !m.lost.contains o) }
    else m.writeWhole x b (maskBytes (m.blockNat b) e.data.toNat e.mask)

/-- Take an entry out of the buffer and commit it. -/
def MemSt.commitOut (m : MemSt) (x : MemX) (e : MergeEntry) : MemSt :=
  MemSt.commitEntry { m with merge := m.merge.filter (fun f => f.block != e.block) } x e

/-- Commit the open entry of block `b`, if there is one (R279). -/
def MemSt.commitBlock (m : MemSt) (x : MemX) (b : Nat) : MemSt :=
  match m.merge.find? (fun e => e.block == 64 * b) with
  | none => m
  | some e => m.commitOut x e

/-- Commit every open entry that `o` wrote to (R280). -/
def MemSt.commitOwner (m : MemSt) (x : MemX) (o : Nat) : MemSt :=
  (m.merge.filter (fun e => e.owners.contains o)).foldl (fun m e => m.commitOut x e) m

/-- The bank of a block, as (store, bank): one of the 32 of a carrel by R101, one of the 512 of a ledger SRAM, one of those of an
HBM pseudo-channel as its controller places it (R62, R278; log 99). -/
def bankOf (lay : Nat) (a : Addr) : Nat × Nat :=
  if a < hbmEnd then
    let (st, off) := stackOf lay a
    (520 + st, 2 ^ 16 * hbmPc (off / 512) + Config.hbmBank st (hbmPc (off / 512)) (hbmGranule (off / 512)))
  else if a < ledgerBase then ((a - carrelBase) / carrelSize, nfld a 6 5)
  else (512 + (a - ledgerBase) / ledgerSize, nfld a 6 9)

/-- Make room for one more entry in the bank of `a`: with eight open, the oldest commits first (R278). -/
def MemSt.evict (m : MemSt) (x : MemX) (a : Addr) : MemSt :=
  if m.merge.length < 8 then m
  else
    match m.merge.filter (fun e => bankOf x.lay e.block == bankOf x.lay a) with
    | e :: rest => if 7 ≤ rest.length then m.commitOut x e else m
    | [] => m

/-- An entry with the bytes of one more narrow write (R278). -/
def MergeEntry.add (e : MergeEntry) (owner off : Nat) (bs : List Byte) : MergeEntry :=
  let n := bs.length
  { e with
    data := BitVec.ofNat 512 (setFld e.data.toNat (8 * off) (8 * n) (leNat bs))
    mask := e.mask ||| BitVec.ofNat 64 ((2 ^ n - 1) <<< off)
    owners := if e.owners.contains owner then e.owners else e.owners ++ [owner] }

/-- A narrow write of `bs` at offset `off` of block `b` (R278): into the open entry, or a new one; a mask that
becomes full commits (R279). -/
def MemSt.narrowWrite (m : MemSt) (x : MemX) (owner b off : Nat) (bs : List Byte) : MemSt :=
  match m.merge.find? (fun e => e.block == 64 * b) with
  | some e =>
    let e' := e.add owner off bs
    if e'.mask = BitVec.allOnes 64 then
      MemSt.commitEntry { m with merge := m.merge.filter (fun f => f.block != e.block) } x e'
    else { m with merge := m.merge.map (fun f => if f.block = e.block then e' else f) }
  | none =>
    let m := m.evict x (64 * b)
    let e : MergeEntry := { block := 64 * b, data := 0, mask := 0, since := x.clock, owners := [] }
    { m with merge := m.merge ++ [e.add owner off bs] }

/-! ## Reads and writes of ranges -/

/-- A demand read of block `b` (R271, R279): its open entry commits first. -/
def MemSt.touch (m : MemSt) (x : MemX) (b : Nat) : MemSt := (m.commitBlock x b).readBlock x 0 b

/-- Demand-read the blocks of a list in order, stopping after the first poisoned one. -/
def MemSt.touchAll (m : MemSt) (x : MemX) : List Nat → MemSt
  | [] => m
  | b :: t =>
    let m' := m.touch x b
    if m'.poisoned b then m' else m'.touchAll x t

/-- The numbers of the blocks that [a, a + n) meets. -/
def blocksOf (a n : Nat) : List Nat := if n = 0 then [] else span (a / 64) ((a + n - 1) / 64 - a / 64 + 1)

/-- No block of the list is poisoned. -/
def MemSt.sound (m : MemSt) (bs : List Nat) : Bool := bs.all (fun b => !m.poisoned b)

/-- Demand-read a range: the memories after it, and the bytes, or none on a bus error (R277). -/
def MemSt.readRange (m : MemSt) (x : MemX) (a n : Nat) : MemSt × Option (List Byte) :=
  let bs := blocksOf a n
  let m' := m.touchAll x bs
  (m', if m'.sound bs then some (m'.peek a n) else none)

/-- A full-block write (R273): an open entry of the block commits first (R279). -/
def MemSt.fullWrite (m : MemSt) (x : MemX) (b d : Nat) : MemSt := (m.commitBlock x b).writeWhole x b d

/-- Write bytes at `a` by blocks in increasing order (R259): a block covered whole by a full-block write, a block
covered in part by a narrow write. -/
def MemSt.writeBlocks (m : MemSt) (x : MemX) (owner : Nat) : Nat → Addr → List Byte → MemSt
  | 0, _, _ => m
  | k + 1, a, bs =>
    let off := a % 64
    let here := bs.take (64 - off)
    let m' := if here.length = 64 then m.fullWrite x (a / 64) (leNat here)
      else if here.isEmpty then m else m.narrowWrite x owner (a / 64) off here
    MemSt.writeBlocks m' x owner k (a + here.length) (bs.drop (64 - off))

/-- Write bytes at `a` (R259). -/
def MemSt.write (m : MemSt) (x : MemX) (owner : Nat) (a : Addr) (bs : List Byte) : MemSt :=
  m.writeBlocks x owner (bs.length / 64 + 2) a bs

/-- 128 ns on the model clock (R279, log 2). -/
def mergeAge : Nat := 128 * 21

/-- The clock at which the last open entry that `owner` wrote to commits, if nothing commits it sooner (R279). -/
def MemSt.ackDue (m : MemSt) (owner : Nat) : Nat :=
  (m.merge.filter (fun e => e.owners.contains owner)).foldl (fun t e => max t (e.since + mergeAge)) 0

/-- Every narrow write of `owner` is acknowledged (R65, R280): its entries have committed. The memories, and whether every byte was
written. -/
def MemSt.settleOwner (m : MemSt) (x : MemX) (owner : Nat) : MemSt × Bool :=
  let m' := m.commitOwner x owner
  ({ m' with lost := m'.lost.filter (fun o => o != owner) }, !m'.lost.contains owner)

/-- A list of unspecified block ranges without the blocks [b, b + n). -/
def cutRange (b n : Nat) (v : List (Nat × Nat × Nat)) : List (Nat × Nat × Nat) :=
  v.flatMap (fun r =>
    (if r.1 < b then [(r.1, min r.2.1 (b - r.1), r.2.2)] else []) ++
      (if b + n < r.1 + r.2.1 then
        let lo := max r.1 (b + n)
        [(lo, r.1 + r.2.1 - lo, r.2.2)]
      else []))

/-- Wipe [a, a + n): zero data, the valid code of a zero block, and nothing left in the merge buffers (R273). -/
def MemSt.wipe (m : MemSt) (a n : Nat) : MemSt :=
  { m with
    bytes := skeep (fun i _ => i < a || a + n ≤ i) m.bytes
    codes := skeep (fun b _ => 64 * b < a || a + n ≤ 64 * b) m.codes
    merge := m.merge.filter (fun e => e.block < a || a + n ≤ e.block)
    vague := cutRange (a / 64) (ceilDiv n 64) m.vague }

/-- Blocks written whole with zeros (R273): nothing of them stays listed, and a poisoned one becomes valid. -/
def MemSt.zeroBlocks (m : MemSt) (x : MemX) (b n : Nat) : MemSt :=
  let m := ((span b n).filter m.poisoned).foldl (fun m b => m.writeWhole x b 0) m
  m.wipe (64 * b) (64 * n)

/-- A scrub read (R281, R282): an open entry of the block commits first, as at any read of it (R279); a poisoned
block is skipped. -/
def MemSt.scrub (m : MemSt) (x : MemX) (b : Nat) : MemSt := (m.commitBlock x b).readBlock x 2 b

/-- The canonical form of the memories: bytes and codes in the form of `sok`. -/
def MemSt.wf (m : MemSt) : Bool := sok 0 m.bytes && sok 0 m.codes

end Sys2Proof.Machine
end

