-- ==== Sys2Proof/Machine/Ops.lean ====
section
/-!
DEFINITION. The named operations that the commands share: which parts of the state they reach, the address rules
of R57 to R61, the clock, events and logs of the package page, and what an uncorrectable event leads to (R466,
R503).
-/
namespace Sys2Proof.Machine

/-- Numeric codes of the statuses and folio faults (R226). -/
def stOk : BitVec 16 := 0x0000
def stShape : BitVec 16 := 0x0001
def stFormat : BitVec 16 := 0x0002
def stOrient : BitVec 16 := 0x0003
def stLayout : BitVec 16 := 0x0004
def stScale : BitVec 16 := 0x0005
def stAcc : BitVec 16 := 0x0006
def stFunc : BitVec 16 := 0x0007
def stFuncImage : BitVec 16 := 0x0008
def stOp : BitVec 16 := 0x0009
def stAddr : BitVec 16 := 0x000A
def stMem : BitVec 16 := 0x000B
def stStream : BitVec 16 := 0x000C
def stContext : BitVec 16 := 0x000D
def stCtxFailed : BitVec 16 := 0x000E
def stSkew : BitVec 16 := 0x000F
def stDesc : BitVec 16 := 0x0010
def stPeer : BitVec 16 := 0x0011
def ffHeader : BitVec 16 := 0x0100
def ffCallDepth : BitVec 16 := 0x0101
def ffFetch : BitVec 16 := 0x0102
def ffClasp : BitVec 16 := 0x0103

/-- What a row answers whose operands can describe what no part meets (a slice that an edge does not have, a packet of another row's
kind): then nothing comes about (log 1); else its effect `t`. -/
def formed (ok : Bool) (s t : State) : Host.Outcome State Fault Refusal := .next (if ok then t else s)

/-- Do `f` when an event can come about; else nothing happens (log 1). -/
def whenever (c : Bool) (f : State → State) (s : State) : State := if c then f s else s

/-- Smallest member of a list. -/
def least : List Nat → Option Nat
  | [] => none
  | a :: t => some (t.foldl min a)

/-! ## Parts of the state -/

def State.cl (s : State) (c : Nat) : Cluster := sget {} s.clusters c
def State.setCl (s : State) (c : Nat) (k : Cluster) : State := { s with clusters := sset {} s.clusters c k }
def State.onCl (s : State) (c : Nat) (f : Cluster → Cluster) : State := s.setCl c (f (s.cl c))
def State.prt (s : State) (p : Nat) : Part := sget {} s.parts p
def State.onPart (s : State) (p : Nat) (f : Part → Part) : State :=
  { s with parts := sset {} s.parts p (f (s.prt p)) }
def Part.prog (p : Part) (k : Nat) : Program := sget {} p.progs k
def Part.onProg (p : Part) (k : Nat) (f : Program → Program) : Part :=
  { p with progs := sset {} p.progs k (f (p.prog k)) }
def State.hub (s : State) (h : Nat) : HubSt := sget {} s.red.hubs h
def State.onHub (s : State) (h : Nat) (f : HubSt → HubSt) : State :=
  { s with red := { s.red with hubs := sset {} s.red.hubs h (f (s.hub h)) } }
def State.link (s : State) (l : Nat) : Link := sget {} s.fabric.links l
def State.onLink (s : State) (l : Nat) (f : Link → Link) : State :=
  { s with fabric := { s.fabric with links := sset {} s.fabric.links l (f (s.link l)) } }
def State.edge (s : State) (e : Nat) : Edge := sget {} s.mesh.edges e
def State.onEdge (s : State) (e : Nat) (f : Edge → Edge) : State :=
  { s with mesh := { s.mesh with edges := sset {} s.mesh.edges e (f (s.edge e)) } }
def State.onMem (s : State) (f : MemSt → MemSt) : State := { s with mem := f s.mem }

/-! ## The clock (R5, R324) -/

/-- Model clock units in a nanosecond, a tile cycle and a hub cycle (R5). -/
def nsT : Nat := 21
def cycT : Nat := 10
def hubT : Nat := 15

/-- TIME_NOW in nanoseconds (R324). -/
def State.now (s : State) : Nat := s.time.now / nsT

/-- The beat under way (R5). -/
def State.beat (s : State) : Nat := s.now / 1024

/-- An issue stamp: TIME_NOW[33:2] (R67). -/
def State.stamp (s : State) : BitVec 32 := BitVec.ofNat 32 (s.now / 4)

/-- Stamp `a` is older than stamp `b` (R67). -/
def stampLt (a b : BitVec 32) : Bool := a != b && (b - a).toNat < 2 ^ 31

/-- The clock goes on by `d` units: TIME_NOW with it, slewing at most 50 ppm toward its reference (R324). -/
def TimeSt.pass (t : TimeSt) (d : Nat) : TimeSt :=
  let earned := if t.slew = 0 then 0 else t.slewRem + d * 50
  let room : Int := (earned / 1000000 : Nat)
  let k := max (-room) (min room t.slew)
  { t with ticks := t.ticks + d, now := ((t.now + d : Nat) + k).toNat, slew := t.slew - k, predict := t.predict.map (fun p => p - k)
           slewRem := if t.slew - k = 0 then 0 else earned % 1000000 }

/-- Cycles common to two half-open intervals. -/
def common (a b c d : Nat) : Nat := min b d - max a c

/-- Cycles in [a, b) in which the product array or the epilogue path of a cluster is busy (R128). -/
def busyCycles (k : Cluster) (a b : Nat) : Nat :=
  let comp := match k.mxComp with
    | some j => [(j.start, j.computeEnd)]
    | none => []
  let epi := k.mxEpi.map (fun j => (j.epiStart, j.epiEnd))
  let n (l : List (Nat × Nat)) := (l.map (fun i => common i.1 i.2 a b)).foldl (· + ·) 0
  let both := (comp.flatMap (fun x => epi.map (fun y =>
    common (max x.1 a) (min x.2 b) (max y.1 a) (min y.2 b)))).foldl (· + ·) 0
  n comp + n epi - both

/-- The engine's jobs change at tile cycle `a`: cycles of theirs before `a` are counted, those no longer theirs are not (R128). -/
def Cluster.rejob (k : Cluster) (a : Nat) (f : Cluster → Cluster) : Cluster :=
  let k' := f k
  { k' with mxCycles := k.mxCycles + BitVec.ofNat 64 (busyCycles k' 0 a) - BitVec.ofNat 64 (busyCycles k 0 a) }

/-- Run the clock on to `t` if it has not passed it (log 2): every matrix engine counts its busy cycles. -/
def State.runTo (s : State) (t : Nat) : State :=
  if t ≤ s.time.ticks then s
  else
    let a := s.time.ticks / cycT
    let b := t / cycT
    { s with
      time := s.time.pass (t - s.time.ticks)
      clusters := s.clusters.map (fun p =>
        if p.2.mxComp.isNone && p.2.mxEpi.isEmpty then p
        else (p.1, { p.2 with mxCycles := p.2.mxCycles + BitVec.ofNat 64 (busyCycles p.2 a b) })) }

/-- The model clock at which TIME_NOW reads at least `ns`, if nothing steps it meanwhile (log 2). -/
def State.clockAt (s : State) (ns : Nat) : Nat := s.time.ticks + (ns * nsT - s.time.now)

/-- Run the clock until TIME_NOW reaches `ns` nanoseconds, slewing included. -/
def State.runToNow (s : State) (ns : Nat) : State :=
  let s1 := s.runTo (s.clockAt ns)
  s1.runTo (s1.clockAt ns)

/-- The tile cycle that begins at or after the clock (R5). -/
def State.cycle (s : State) : Nat := ceilDiv s.time.ticks cycT

/-- A free value is drawn: how many have been drawn before it (log 3). -/
def State.draw (s : State) : State := { s with fresh := s.fresh + 1 }

/-! ## The hub ring (R54) -/

/-- Hub `a` reaches hub `b` over the ring edges that are up (R54). -/
def State.ringReach (s : State) (a b : Nat) : Bool :=
  a == b || reachable ([72, 73, 74, 75].filter (fun e => (s.edge e).up)) (36 + a) (36 + b)

/-! ## Layout and addresses (R57 to R61) -/

/-- Partition layout in force (R59). -/
def State.layout (s : State) : Nat := fld s.stw.memcfgOn 0 3

/-- Carve-out size in bytes: carve_gib, values above 64 taken as 64 (R59). -/
def State.carveBytes (s : State) : Nat := min 64 (fld s.stw.memcfgOn 3 7) * 2 ^ 30

/-- What a memory access needs to know. -/
def State.mx (s : State) : MemX := { lay := s.layout, clock := s.time.ticks }

/-- Partition (its lowest quadrant) of a quadrant and of a cluster. -/
def State.partOf (s : State) (q : Nat) : Nat := partOfQuad s.layout q
def State.clPart (s : State) (c : Nat) : Nat := s.partOf (clusterQuad c)

/-- Quadrants of a partition. -/
def State.quads (s : State) (p : Nat) : List Nat := layoutQuads s.layout p

/-- First byte of the carve-out, and the byte after it: the top of the range of Q2's partition (R61). -/
def State.carve (s : State) : Nat × Nat :=
  let p := s.partOf 2
  let top := partBase p + partSpan s.layout p
  (top - s.carveBytes, top)

/-- A slot is mapped: a die holds it, which is not isolated and has not been marked failed in service (R28, R36, R55, R503). -/
def State.slotMapped (s : State) (slot : Nat) : Bool :=
  let site : BitVec 8 := sget 0xFF s.panel.slotSite slot
  site != 0xFF && !s.panel.failedSlots.contains slot && !s.panel.isolated.contains site.toNat

/-- A partition is in service: every hub of it is (R466). -/
def State.serves (s : State) (p : Nat) : Bool := (s.quads p).all (fun q => s.panel.inService.contains (36 + q))

/-- A cluster is present in partition `p` (R36, R58). -/
def State.clusterIn (s : State) (p c : Nat) : Bool :=
  c < 512 && s.clPart c == p && s.slotMapped (clusterSlot c)

/-- No processor of the package works: it is unpowered, or its package reset is past the archive (R462, R485). -/
def State.dark (s : State) : Bool := !s.power.on || s.reset_.pkg.any (fun r => decide (3 ≤ r.phase.toNat))

/-- A reset covers quadrant `q` (R470, R485). -/
def State.inReset (s : State) (q : Nat) : Bool :=
  s.reset_.pkg.isSome || (List.range 4).any (fun p => match sget none s.reset_.parts p with
    | some r => bit r.quads q
    | none => false)

/-- Byte range of the program area of hub `h`, as offsets (R385 to R387). -/
def State.scratch (s : State) (h : Nat) : Nat × Nat := ((6144 - (s.hub h).scratch) * 10240, 6144 * 10240)

/-- [a, a + n) lies in HBM of partition `p` (R58, R60), carve-out included. -/
def State.inHbm (s : State) (p a n : Nat) : Bool := inside a n (partBase p) (partSpan s.layout p)

/-- [a, a + n) shares no byte with the carve-out. -/
def State.offCarve (s : State) (a n : Nat) : Bool := !overlap a n s.carve.1 s.carveBytes

/-- No byte of [a, a + n) falls under R58 for a folio command or hub of partition `p`: HBM of the partition
outside the carve-out, carrels of its mapped clusters, or program areas of its hubs (R57, R58, R257, R386). -/
def State.rangeOk (s : State) (p a n : Nat) : Bool :=
  n == 0 || (a < hbmEnd && s.inHbm p a n && s.offCarve a n && s.serves p) ||
  (inside a n carrelBase (512 * carrelSize) &&
    (span ((a - carrelBase) / carrelSize) ((a + n - 1 - carrelBase) / carrelSize - (a - carrelBase) / carrelSize + 1)).all
      (s.clusterIn p)) ||
  (inside a n ledgerBase (4 * ledgerSize) &&
    (let h := (a - ledgerBase) / ledgerSize
     let o := (a - ledgerBase) % ledgerSize
     s.partOf h == p && s.serves p && (s.scratch h).1 ≤ o && o + n ≤ (s.scratch h).2))

/-- Package address of an offset of the carrel of cluster `c` (R100). -/
def carrelAt (c off : Nat) : Addr := carrelBase + c * carrelSize + off

/-- The number that names a unit as owner of narrow writes: executor 0 to 3 of a cluster; then the hubs, the
Registrar and the steward. -/
def ownerOf (c : Nat) (x : Executor) : Nat :=
  4 * c + (match x with | .mx => 0 | .vx => 1 | .cx => 2 | .hub => 3)
/-- The owner of a command's narrow writes (R280): MMAs of one cluster await theirs side by side, so each has a number of its own. -/
def ownerCmd (c : Nat) (x : Executor) (q : QCmd) : Nat :=
  ownerOf c x + (if x = .mx then 4096 * (1 + q.stamp.toNat + 2 ^ 32 * q.addr) else 0)
def ownerHub (h : Nat) : Nat := 2048 + h
def ownerReg : Nat := 2060
/-- The arrival logs of hub `h`, whose writes nobody awaits (R368). -/
def ownerLog (h : Nat) : Nat := 2064 + h
def ownerHost : Nat := 2061

/-- Demand-read a range (R277). -/
def State.read (s : State) (a n : Nat) : State × Option (List Byte) :=
  let (m, r) := s.mem.readRange s.mx a n
  ({ s with mem := m }, r)

/-- Await the acknowledgement of every narrow write of `owner` (R65, R280): the clock runs until its entries have committed. -/
def State.settleOwner (s : State) (owner : Nat) : State × Bool :=
  let s := s.runTo (s.mem.ackDue owner)
  let (m, ok) := s.mem.settleOwner s.mx owner
  ({ s with mem := m }, ok)

/-- Write bytes and await their acknowledgement (R280). -/
def State.writeAck (s : State) (owner : Nat) (a : Addr) (bs : List Byte) : State × Bool :=
  State.settleOwner { s with mem := s.mem.write s.mx owner a bs } owner

/-! ## Package features (R25, R26) -/

/-- Package feature map (R25). -/
def State.pkgFeatures (s : State) : W64 := (if s.panel.useB then s.panel.copyB else s.panel.copyA).elim 0 (fun c => c.features)

/-- The dies enable feature `i`: it is in the package feature map (R25, R26). A command of a feature that is not enabled ends as one that
names nothing the hub has (log 98). -/
def State.feature (s : State) (i : Nat) : Bool := bit s.pkgFeatures i

def featFrag : Nat := 2
def featTopk : Nat := 3
def featTwin : Nat := 4
def featRing : Nat := 5
def featStage : Nat := 6
def featBlockpre : Nat := 7
def featStepctl : Nat := 8

/-! ## Events and logs of the package page (R432, R441, R442) -/

/-- Send a message-signalled interrupt (R221, R432). -/
def State.msi (s : State) (v : Nat) : State := { s with host := { s.host with msi := s.host.msi ++ [v] } }

/-- Set bits of STW_EVENTS; setting any bit raises vector 1,024 (R441). -/
def State.event (s : State) (mask : Nat) : State :=
  let new := s.stw.events ||| BitVec.ofNat 64 mask
  let s' := { s with stw := { s.stw with events := new } }
  if new = s.stw.events then s' else s'.msi 1024

/-- Log an error seen by the host (R442): the first is kept, all are counted. -/
def State.hostError (s : State) (kind : Nat) (a : Addr) : State :=
  let log := s.stw.errlog
  let cnt := sat 12 (fld log 52 12 + 1)
  let log' := if bit log 51 then BitVec.ofNat 64 (setFld log.toNat 52 12 cnt)
    else BitVec.ofNat 64 (a % 2 ^ 48 + kind * 2 ^ 48 + 2 ^ 51 + cnt * 2 ^ 52)
  ({ s with stw := { s.stw with errlog := log' } }).event (2 ^ 8)

/-! ## Task descriptors (R218) -/

def tdTask (d : BitVec 2048) : W64 := BitVec.ofNat 64 (fld d 0 64)
def tdBase (d : BitVec 2048) : Addr := fld d 64 48
def tdSlot (d : BitVec 2048) : Nat := fld d 112 3
def tdGuar (d : BitVec 2048) : Bool := bit d 115
def tdStep (d : BitVec 2048) : Bool := bit d 116
def tdMsi (d : BitVec 2048) : Option Nat := if bit d 117 then some (fld d 118 10) else none
def tdRelease (d : BitVec 2048) : Nat := fld d 128 64
def tdDeadline (d : BitVec 2048) : Nat := fld d 192 64
def tdCost (d : BitVec 2048) : Nat := fld d 256 48
def tdAllowance (d : BitVec 2048) : Nat := if fld d 320 32 = 0 then 20000 else fld d 320 32
def tdFirstStep (d : BitVec 2048) : W64 := BitVec.ofNat 64 (fld d 384 64)
def tdTableList (d : BitVec 2048) : Addr := fld d 448 48
def tdTableCount (d : BitVec 2048) : Nat := fld d 512 16
def tdStepCluster (d : BitVec 2048) : Nat := fld d 528 9
def tdStepClasp (d : BitVec 2048) : Nat := fld d 537 6
def tdStepCount (d : BitVec 2048) : Nat := fld d 544 32
def tdRelCluster (d : BitVec 2048) : Nat := fld d 576 9
def tdRelClasp (d : BitVec 2048) : Nat := fld d 585 6
def tdStepWord (d : BitVec 2048) : Addr := fld d 640 48

/-! ## Folio halts (R196) -/

/-- A cluster's folio halts (R196): dispatch stops, the rest of each queue is discarded, its waits end, and its
accumulator buffers become invalid (R121). The report is due within 1 µs. -/
def Cluster.halted (k : Cluster) (code : BitVec 16) (cmd : Addr) (flags : Flags) (clock : Nat) : Cluster :=
  if k.halt.isSome then k
  else { k with
    cur := { k.cur with mode := .halted, prefetch := [], current := none }
    mxIssued := none, mxq := [], vxq := [], cxq := [], waiters := [], granted := []
    acc0 := { k.acc0 with valid := false }, acc1 := { k.acc1 with valid := false }
    halt := some { code := code, cmdAddr := cmd, flags := flags, due := clock + 1000 * nsT }
    wake := true }

/-- Halt the folio of cluster `c`. -/
def State.haltCluster (s : State) (c : Nat) (code : BitVec 16) (cmd : Addr) (flags : Flags) : State :=
  s.onCl c (fun k => k.halted code cmd flags s.time.ticks)

/-! ## Uncorrectable events (R466, R486, R503) -/

/-- A task that has started and not ended. -/
def Task.live (t : Task) : Bool :=
  match t.st with
  | .running => true
  | .suspended => true
  | .ending => true
  | _ => false

/-- A task that has started and has no final record yet, halted or not. -/
def Task.started (t : Task) : Bool := t.live || t.st == .halted || t.st == .reported

/-- Clusters of a task's program. -/
def Task.clusters (t : Task) : List Nat := match t.image with
  | some i => i.entries.map (fun e => e.1)
  | none => []

/-- The target's program of this job is suspended (R335). -/
def State.suspendedJob (s : State) (c job : Nat) : Bool :=
  (s.prt (s.clPart c)).tasks.any (fun t => t.st == .suspended && t.clusters.contains c &&
    t.image.any (fun i => i.job.toNat == job))

/-- Program slot of the task of a job on a cluster (R305, R337): the one whose context the cluster holds when no task
has the job. -/
def State.slotOfJob (s : State) (c job : Nat) : Nat :=
  match (s.prt (s.clPart c)).tasks.find? (fun t => t.started && t.clusters.contains c &&
      t.image.any (fun i => i.job.toNat == job)) with
  | some t => tdSlot t.desc
  | none => (s.cl c).prog

/-- A halt of a task, first seen at cluster `c` (R197, R503). -/
def Task.firstHalt (t : Task) (c : Nat) (h : HaltInfo) : Task :=
  if t.halt.isSome then t else { t with st := .halted, halt := some (BitVec.ofNat 9 c, h) }

/-- A die is marked failed (R466): the slot counts as unmapped, and every task under way
that uses a cluster of it halts by R503, naming the slot's lowest cluster. -/
def State.dieFailed (s : State) (slot : Nat) (code : BitVec 16) : State :=
  if s.panel.failedSlots.contains slot then s
  else
    let c := 16 * slot
    let h : HaltInfo := { code := code, cmdAddr := 0, flags := 0, due := s.time.ticks }
    let uses (t : Task) : Bool := t.live && t.clusters.any (fun k => clusterSlot k == slot)
    let hit := (s.prt (s.clPart c)).tasks.any uses
    let s := { s with panel := { s.panel with failedSlots := s.panel.failedSlots ++ [slot] } }
    let s := s.onPart (s.clPart c) (fun p =>
      { p with tasks := p.tasks.map (fun t => if uses t then t.firstHalt c h else t) })
    if hit then s.haltCluster c code 0 0 else s

/-- The Custodian marks the die of a slot failed (R466); the marking waits for one that restarts (R435). -/
def State.markFailed (s : State) (slot : Nat) (code : BitVec 16) : State :=
  if s.stw.custodian.st = .restarting then { s with panel := { s.panel with marks := s.panel.marks ++ [(slot, code)] } }
  else s.dieFailed slot code

/-- One newly poisoned block: it is counted in beyond (R486), and 8 in the carrels of one die within 24 hours mark
the die failed (R466). -/
def State.onPoison (s : State) (a : Addr) : State :=
  let s := { s with reset_ := { s.reset_ with fcBeyond := satAdd s.reset_.fcBeyond 1 } }
  if carrelBase ≤ a ∧ a < ledgerBase then
    let slot := (a - carrelBase) / carrelSize / 16
    let day := 86400 * 1000000000 * nsT
    let recent : List Nat :=
      ((sget [] s.panel.poisonLog slot).filter (fun t => s.time.ticks < t + day)) ++ [s.time.ticks]
    let s := { s with panel := { s.panel with poisonLog := sset [] s.panel.poisonLog slot recent } }
    if 8 ≤ recent.length then s.markFailed slot stMem else s
  else s

/-- Handle the blocks that the step under way poisoned. -/
def State.settle (s : State) : State :=
  let ps := s.mem.newPoison
  ps.foldl State.onPoison { s with mem := { s.mem with newPoison := [] } }

/-! ## Frames

What a family of commands can change, said once by construction: every other part of the state is the part
before the step. -/

/-- Steps inside a cluster: memories, clusters, the clock, and what R466 does. -/
def State.coreFrame (s t : State) : State :=
  { s with mem := t.mem, clusters := t.clusters, time := t.time, fresh := t.fresh, panel := t.panel,
           parts := t.parts, reset_ := { s.reset_ with fcBeyond := t.reset_.fcBeyond } }

end Sys2Proof.Machine
end

