-- ==== Sys2Proof/Machine/Clasp.lean ====
section
/-!
DEFINITION. Clasps (R198 to R204) and the waits of queue heads (R194): what an add does, how pending waits are
evaluated, and when an engine command may start.
-/
namespace Sys2Proof.Machine

/-- Value of clasp `i` (R198). -/
def Cluster.clasp (k : Cluster) (i : Nat) : W32 := sget 0 k.clasps i

/-- Set clasp `i`. -/
def Cluster.setClasp (k : Cluster) (i : Nat) (v : W32) : Cluster := { k with clasps := sset 0 k.clasps i v }

/-- R200: the value after the operation stands within 0 to 2^31 − 1. -/
def claspFits (v : W32) : Bool := v.toNat < 2 ^ 31

/-- The value that an add of `n` leaves (R198). -/
def claspSum (v : W32) (n : Nat) : W32 := v + BitVec.ofNat 32 n

/-- The oldest of a list of waiters, and the others (R67, R199). -/
def oldest : List Waiter → Option (Waiter × List Waiter)
  | [] => none
  | w :: t => match oldest t with
    | none => some (w, [])
    | some (v, rest) => if stampLt v.stamp w.stamp then some (v, w :: rest) else some (w, t)

/-- The wait-and-takes of a clasp one at a time, oldest first, each against the value the takes before it left:
the value, who is satisfied, and who still waits (R199). -/
def runTakes : Nat → W32 → List Waiter → W32 × List Waiter × List Waiter
  | 0, v, ws => (v, [], ws)
  | n + 1, v, ws => match oldest ws with
    | none => (v, [], [])
    | some (w, rest) =>
      if reached v w.thr then
        let (v', done, left) := runTakes n (v - w.thr) rest
        (v', w :: done, left)
      else
        let (v', done, left) := runTakes n v rest
        (v', done, w :: left)

/-- A satisfied wait lets its command start (R194). -/
def Cluster.grant (k : Cluster) (cyc : Nat) (w : Waiter) : Cluster :=
  let k := { k with granted := k.granted ++ [w.who] }
  let mark (q : List QCmd) : List QCmd := match q with
    | [] => []
    | c :: t => { c with ready := cyc } :: t
  match w.who with
  | .mx => { k with mxq := mark k.mxq }
  | .vx => { k with vxq := mark k.vxq }
  | .cx => { k with cxq := mark k.cxq }
  | .curator =>
    if k.cur.mode = .switched then { k with cur := { k.cur with resume := .running } }
    else { k with cur := { k.cur with mode := .running } }

/-- Evaluate the pending waits of clasp `i`: plain waits against the value, then the takes (R199). -/
def Cluster.evaluate (k : Cluster) (cyc i : Nat) : Cluster :=
  let mine := k.waiters.filter (fun w => w.clasp.toNat == i)
  let others := k.waiters.filter (fun w => w.clasp.toNat != i)
  let v := k.clasp i
  let plainDone := mine.filter (fun w => !w.take && reached v w.thr)
  let plainLeft := mine.filter (fun w => !w.take && !reached v w.thr)
  let takes := mine.filter (fun w => w.take)
  let (v', takeDone, takeLeft) := runTakes takes.length v takes
  let k := { (k.setClasp i v') with waiters := others ++ plainLeft ++ takeLeft }
  (plainDone ++ takeDone).foldl (fun k w => k.grant cyc w) k

/-- The step clasp of a released step goes from below step_count to it (R167, R219): the Registrar sees it raised. -/
def State.noteRaise (s : State) (c i old new : Nat) : State :=
  let k := (s.cl c).prog
  let hit (t : Task) : Bool := t.live && tdStep t.desc && tdSlot t.desc == k && tdStepCluster t.desc == c &&
    tdStepClasp t.desc == i && old < tdStepCount t.desc && tdStepCount t.desc ≤ new
  if (s.prt (s.clPart c)).tasks.any hit && ((s.prt (s.clPart c)).prog k).srec.released then
    s.onPart (s.clPart c) (fun p => p.onProg k (fun g => { g with srec := { g.srec with raised := true } }))
  else s

/-! ## Header waits (R192, R194) -/

def hWait (q : Block) : Bool := wfld q 0 11 1 == 1
def hTake (q : Block) : Bool := wfld q 0 12 1 == 1
def hSignal (q : Block) : Bool := wfld q 0 10 1 == 1
def hOpcode (q : Block) : Nat := wfld q 0 0 8
def hClass (q : Block) : Nat := wfld q 0 8 2
def hWaitClasp (q : Block) : Nat := wfld q 1 0 6
def hThreshold (q : Block) : W32 := BitVec.ofNat 32 (cmdWord q 2)
def hTarget (q : Block) : Nat := wfld q 3 0 9
def hTargetClasp (q : Block) : Nat := wfld q 3 9 6
def hRemote (q : Block) : Bool := wfld q 3 15 1 == 1
def hPackage (q : Block) : Nat := wfld q 3 16 13
def hInc (q : Block) : BitVec 16 := BitVec.ofNat 16 (wfld q 4 0 16)

/-- The waiter that a command's header asks for. -/
def waiterOf (who : Waiting) (q : QCmd) : Waiter :=
  { who := who, clasp := BitVec.ofNat 6 (hWaitClasp q.cmd), thr := hThreshold q.cmd, take := hTake q.cmd,
    stamp := q.stamp, addr := q.addr }

/-- Begin the wait of a command (R194, R199): granted at once, or pending. -/
def Cluster.beginWait (k : Cluster) (cyc : Nat) (who : Waiting) (q : QCmd) : Cluster :=
  if !hWait q.cmd then { k with granted := k.granted ++ [who] }
  else
    let w := waiterOf who q
    let k := { k with waiters := k.waiters ++ [w] }
    if k.parked then k else k.evaluate cyc w.clasp.toNat

/-- A wait of `who` has begun. -/
def Cluster.armed (k : Cluster) (who : Waiting) : Bool :=
  k.granted.contains who || k.waiters.any (fun w => w.who == who)

/-- The head of an engine's queue begins its wait once it stands at the head: the command before it has completed,
or, in the matrix engine, its computation has started (R123, R194, R234). -/
def Cluster.armHead (k : Cluster) (cyc : Nat) (who : Waiting) (q : List QCmd) (free : Bool) : Cluster :=
  match q with
  | [] => k
  | c :: _ => if free && !k.armed who then k.beginWait cyc who c else k

/-- Begin the waits of the queue heads. In the matrix engine a command is at the head from the start of the compute before it (R123). -/
def Cluster.arm (k : Cluster) (cyc : Nat) : Cluster :=
  let k := k.armHead (max k.mxStart ((k.mxq.head?.map (fun q => q.ready)).getD 0)) .mx k.mxq
    (k.mxIssued.isNone && decide (k.mxStart ≤ cyc))
  let k := k.armHead cyc .vx k.vxq (k.vxDone.isNone && k.load.isNone)
  k.armHead cyc .cx k.cxq k.cxDone.isNone

/-- The command at the head of an engine's queue whose wait is satisfied and whose engine is free, if its opcode
is `op` (R194). -/
def Cluster.head (k : Cluster) (who : Waiting) (op : Nat) : Option QCmd :=
  let (q, free) := match who with
    | .mx => (k.mxq, k.mxIssued.isNone)
    | .vx => (k.vxq, k.vxDone.isNone && k.load.isNone)
    | .cx => (k.cxq, k.cxDone.isNone)
    | .curator => ([], false)
  match q with
  | c :: _ => if free && !k.parked && k.cur.mode != .switched && k.granted.contains who && hOpcode c.cmd == op then some c else none
  | [] => none

/-- Take the head out of its queue: its command starts. -/
def Cluster.pop (k : Cluster) (who : Waiting) : Cluster :=
  let k := { k with granted := k.granted.filter (fun w => w != who) }
  match who with
  | .mx => { k with mxq := k.mxq.tail }
  | .vx => { k with vxq := k.vxq.tail }
  | .cx => { k with cxq := k.cxq.tail }
  | .curator => k

/-! ## Adds (R198 to R200, R203, R210) -/

/-- Take back the evaluation of this cycle, if nothing has come of it yet: a further add of the cycle goes first (R199). -/
def Cluster.reopen (k : Cluster) (cyc i : Nat) : Cluster :=
  match k.lastEval with
  | none => k
  | some e =>
    if e.cycle = cyc ∧ e.clasp = i ∧ e.left = k.waiters ∧ e.done = k.granted then
      { (k.setClasp i e.value) with
        waiters := e.waiters, granted := e.granted, cur := { k.cur with mode := e.mode, resume := e.resume } }
    else k

/-- Evaluate the waits of clasp `i` after an add (R199), and remember the evaluation for the rest of the cycle. -/
def Cluster.evaluateAdd (k : Cluster) (cyc i : Nat) : Cluster :=
  let k' := k.evaluate cyc i
  let e : ClaspCycle :=
    { cycle := cyc, clasp := i, value := k.clasp i, waiters := k.waiters, granted := k.granted, mode := k.cur.mode,
      resume := k.cur.resume, left := k'.waiters, done := k'.granted }
  { k' with lastEval := some e }

/-- Add `n` to clasp `i` (R198 to R200): applied and evaluated, or, when the value would leave the range, not applied
and the folio halts with CLASP_RANGE. A parked cluster keeps the value and wakes; its waits are evaluated once it
runs (R210). -/
def State.claspAdd (s : State) (c i n : Nat) : State :=
  let k := ((s.cl c).arm s.cycle).reopen s.cycle i
  let v := claspSum (k.clasp i) n
  if claspFits v then
    let s := s.noteRaise c i (k.clasp i).toNat v.toNat
    let k := k.setClasp i v
    if k.parked then s.setCl c { k with wake := true }
    else s.setCl c (k.evaluateAdd s.cycle i)
  else s.haltCluster c ffClasp 0 0

/-- An add by the host or the steward (R203): one that R200 forbids is not applied and sets clasp_range. -/
def State.hostClaspAdd (s : State) (c i n : Nat) : State :=
  if n = 0 then s
  else if claspFits (claspSum (((s.cl c).reopen s.cycle i).clasp i) n) then s.claspAdd c i n
  else s.event 1

end Sys2Proof.Machine
end

