-- ==== Sys2Proof/Machine/Spill.lean ====
section
/-!
DEFINITION. What a hub meets of a carrel whose program is suspended (R335): its spill image stands in for it. The hubs read and
write the memory of a job through these operations.
-/
namespace Sys2Proof.Machine

/-- The program slot and the spill image of cluster `c`, while the program of a job is suspended on it (R335). -/
def State.away (s : State) (job c : Nat) : Option (Nat × Spilled) :=
  if s.suspendedJob c job then
    let k := s.slotOfJob c job
    (((s.prt (s.clPart c)).prog k).spilled.find? (fun z => z.cluster == c)).map (fun z => (k, z))
  else none

/-- Bytes [off, off + n) of a spill image up to its first uncorrectable block, and whether that is all. -/
def Spilled.peek (z : Spilled) (off n : Nat) : List Byte × Bool :=
  match (blocksOf off n).find? (fun b => z.bad.contains (64 * b)) with
  | none => ((List.range n).map (fun i => sget 0 z.carrel (off + i)), true)
  | some b => ((List.range (64 * b - off)).map (fun i => sget 0 z.carrel (off + i)), false)

/-- Offset `off` lies in a footprint's block (R333). -/
def Image.covers (i : Image) (c off : Nat) : Bool :=
  i.footprint.any (fun f => f.1 == c && f.2.1 / 64 ≤ off / 64 && decide (off / 64 < ceilDiv (f.2.1 + f.2.2) 64))

/-- Write bytes at an offset of a spill image, block by block: bytes outside the footprint have no place there (log 31); a block
that is uncorrectable takes a whole write only (R280). Answers whether every byte was written. -/
def Spilled.put (z : Spilled) (covers : Nat → Bool) : Nat → Nat → List Byte → Spilled × Bool
  | 0, _, _ => (z, true)
  | k + 1, off, bs =>
    let here := bs.take (64 - off % 64)
    let b := off / 64 * 64
    if here.isEmpty then (z, true)
    else
      let lost := z.bad.contains b && decide (here.length < 64)
      let z := if !covers off || lost then z
        else { z with
          carrel := (List.range here.length).foldl (fun m i => sset 0 m (off + i) (here.getD i 0)) z.carrel
          bad := z.bad.filter (fun x => x != b) }
      let (z, ok) := z.put covers k (off + here.length) (bs.drop here.length)
      (z, ok && !lost)

/-- Replace the spill image of a cluster. -/
def State.setSpilled (s : State) (k : Nat) (z : Spilled) : State :=
  s.onPart (s.clPart z.cluster) (fun p => p.onProg k (fun g =>
    { g with spilled := g.spilled.map (fun y => if y.cluster = z.cluster then z else y) }))

/-- Clusters whose carrels [a, a + n) meets (R100). -/
def carrelsOf (a n : Nat) : List Nat :=
  if carrelBase ≤ a ∧ a < ledgerBase ∧ n ≠ 0 then
    span ((a - carrelBase) / carrelSize) ((a + n - 1 - carrelBase) / carrelSize - (a - carrelBase) / carrelSize + 1)
  else []

/-- The part of [a, a + n) in the carrel of cluster `c`: its address and length. -/
def carrelPart (a n c : Nat) : Addr × Nat :=
  let lo := max a (carrelAt c 0)
  (lo, min (a + n) (carrelAt c 0 + carrelSize) - lo)

/-- Demand-read a range up to its first uncorrectable block: the bytes before it, and whether that is all. -/
def State.readPrefix (s : State) (a n : Nat) : State × List Byte × Bool :=
  let bs := blocksOf a n
  let m := s.mem.touchAll s.mx bs
  let s := { s with mem := m }
  match bs.find? m.poisoned with
  | none => (s, m.peek a n, true)
  | some b => (s, m.peek a (64 * b - a), false)

/-- `State.readPrefix` by a hub for a job (R335). -/
def State.hubPrefix (s : State) (job a n : Nat) : State × List Byte × Bool :=
  let cs := carrelsOf a n
  if cs.all (fun c => (s.away job c).isNone) then s.readPrefix a n
  else cs.foldl (fun (x : State × List Byte × Bool) c =>
    let (s, bs, ok) := x
    let (lo, len) := carrelPart a n c
    if !ok then x
    else match s.away job c with
      | none => let r := s.readPrefix lo len; (r.1, bs ++ r.2.1, r.2.2)
      | some z => let r := z.2.peek (lo - carrelAt c 0) len; (s, bs ++ r.1, r.2)) (s, [], true)

/-- A read by a hub for a job (R335): none on a bus error. -/
def State.hubRead (s : State) (job a n : Nat) : State × Option (List Byte) :=
  if (carrelsOf a n).all (fun c => (s.away job c).isNone) then s.read a n
  else
    let r := s.hubPrefix job a n
    (r.1, if r.2.2 then some r.2.1 else none)

/-- A write by a hub for a job, and its acknowledgement (R280, R335). -/
def State.hubWrite (s : State) (job owner : Nat) (a : Addr) (bs : List Byte) : State × Bool :=
  let cs := carrelsOf a bs.length
  if cs.all (fun c => (s.away job c).isNone) then s.writeAck owner a bs
  else cs.foldl (fun (x : State × Bool) c =>
    let (s, ok) := x
    let (lo, len) := carrelPart a bs.length c
    let part := (bs.drop (lo - a)).take len
    match s.away job c with
    | none => let r := s.writeAck owner lo part; (r.1, ok && r.2)
    | some (k, z) =>
      let covers := match ((s.prt (s.clPart c)).prog k).image with
        | some i => i.covers c
        | none => fun (_ : Nat) => false
      let r := z.put covers (len / 64 + 2) (lo - carrelAt c 0) part
      (s.setSpilled k r.1, ok && r.2)) (s, true)

end Sys2Proof.Machine
end

