-- ==== Sys2Proof/Machine/Fabric.lean ====
section
/-!
DEFINITION. The Plemon fabric as the other units use it (R287 to R322): the wiring plan, slices and members, used
ports, dimension-ordered routing, the choice of a link, credits and the replay buffers, streams and counted
signals, and the drop counters.
-/
namespace Sys2Proof.Machine

/-! ## The wiring plan (R294 to R298, R305, R306) -/

def Plan.planId (p : Plan) : W32 := BitVec.ofNat 32 (fld p.header 0 32)
def Plan.loaded (p : Plan) : Bool := p.planId != 0
def Plan.ownId (p : Plan) : Nat := fld p.header 32 13

/-- Size of axis `a` of the torus (R294, R297). -/
def Plan.size (p : Plan) (a : Nat) : Nat := fld p.header (45 + 5 * a) 5 + 1

/-- Packages of the torus (R294). -/
def Plan.total (p : Plan) : Nat := p.size 0 * p.size 1 * p.size 2

/-- The twin partner (R295, R297). -/
def Plan.twin (p : Plan) : Option Nat := if bit p.header 77 then some (fld p.header 64 13) else none

/-- Coordinate of package `id` on axis `a`, and the package at a coordinate (R294). -/
def Plan.coord (p : Plan) (id a : Nat) : Nat :=
  match a with
  | 0 => id % p.size 0
  | 1 => id / p.size 0 % p.size 1
  | _ => id / (p.size 0 * p.size 1)

def Plan.idAt (p : Plan) (x y z : Nat) : Nat := x + p.size 0 * (y + p.size 1 * z)

/-- Link entry and job entry (R298, R305). -/
def Plan.link (p : Plan) (l : Nat) : BitVec 128 := sget 0 p.links l
def Plan.job (p : Plan) (j : Nat) : BitVec 256 := sget 0 p.jobs j

def lPort (e : BitVec 128) : Nat := fld e 0 3
def lUsed (e : BitVec 128) : Bool := bit e 3
def lNbr (e : BitVec 128) : Nat := fld e 4 13
def lNbrPort (e : BitVec 128) : Nat := fld e 17 3
def lSerial (e : BitVec 128) : Nat := fld e 64 64

def jValid (e : BitVec 256) : Bool := bit e 0
def jTwin (e : BitVec 256) : Bool := bit e 1
def jDegraded (e : BitVec 256) : Bool := bit e 2
def jQmask (e : BitVec 256) : Nat := fld e 3 4
def jOrg (e : BitVec 256) (a : Nat) : Nat := fld e (16 + 5 * a) 5
def jExt (e : BitVec 256) (a : Nat) : Nat := fld e (32 + 6 * a) 6
def jReq (e : BitVec 256) : Nat := fld e 64 64
def jEpoch (e : BitVec 256) : BitVec 16 := BitVec.ofNat 16 (fld e 128 16)

/-- Position of coordinate `c` on axis `a`, relative to the origin of job entry `e` (R306, R363). -/
def Plan.rel (p : Plan) (e : BitVec 256) (a c : Nat) : Nat := (c + p.size a - jOrg e a % p.size a) % p.size a

/-- Package `id` lies in the block of job entry `e` (R306). -/
def Plan.inBlock (p : Plan) (e : BitVec 256) (id : Nat) : Bool :=
  id < p.total && [0, 1, 2].all (fun a => p.rel e a (p.coord id a) < jExt e a)

/-- Package `id` is a member of slice `j` (R306). -/
def Plan.member (p : Plan) (j id : Nat) : Bool := jValid (p.job j) && p.inBlock (p.job j) id

/-- Members of slice `j`, in increasing id (R306). -/
def Plan.members (p : Plan) (j : Nat) : List Nat := (List.range p.total).filter (p.member j)

/-- The neighbour that port `port` faces (R290, R294, R295). -/
def Plan.neighbour (p : Plan) (port : Nat) : Option Nat :=
  if port = 6 then p.twin
  else if 6 < port then none
  else
    let a := port / 2
    let n := p.size a
    let step (b : Nat) : Nat :=
      let c := p.coord p.ownId b
      if b = a then (if port % 2 = 0 then (c + 1) % n else (c + n - 1) % n) else c
    some (p.idAt (step 0) (step 1) (step 2))

/-- Port `port` is a used port of slice `j` on this package, a member (R308); the system job uses every port. -/
def Plan.usedPort (p : Plan) (j port : Nat) : Bool :=
  if j = 0 then port < 7
  else p.member j p.ownId && (
    if port = 6 then jTwin (p.job j)
    else match p.neighbour port with
      | some n => 2 ≤ jExt (p.job j) (port / 2) && p.member j n
      | none => false)

/-- Links that the plan assigns to a port (R290, R298). -/
def Plan.portLinks (p : Plan) (port : Nat) : List Nat :=
  (List.range 20).filter (fun l => lUsed (p.link l) && lPort (p.link l) == port)

/-- Port of a link; 7 if unused (R299, R320). -/
def Plan.portOf (p : Plan) (l : Nat) : Nat := if lUsed (p.link l) then lPort (p.link l) else 7

/-- Primary id of a package of a twin-mode slice (R381): pairs are known by the plan of each twin, and the model
knows its own pair. -/
def Plan.primary (p : Plan) : Nat := match p.twin with
  | some t => min p.ownId t
  | none => p.ownId

def State.plan (s : State) : Plan := s.fabric.plan
def State.ownId (s : State) : Nat := s.plan.ownId
def State.jobEntry (s : State) (j : Nat) : BitVec 256 := s.plan.job j

/-- The partition that runs a job by its qmask (R307). -/
def State.jobPart (s : State) (j : Nat) : Option Nat :=
  (List.range 4).find? (fun p => s.quads p != [] &&
    (s.quads p).foldl (fun m q => m + 2 ^ q) 0 == jQmask (s.jobEntry j))

/-- (job, member) stands under a member-down notice (R475). -/
def State.noticed (s : State) (j id : Nat) : Bool := s.fabric.notices.contains (j, id)

/-! ## Drop counters (R322) -/

/-- Why a packet is dropped (R317, R318). -/
inductive Drop where
  | job | epoch | member | land | other
  deriving DecidableEq, Repr

/-- Count a drop at hub `h` (R322). -/
def State.drop (s : State) (h : Nat) (d : Drop) : State :=
  let (a, b, c, e, f) := sget (0, 0, 0, 0, 0) s.fabric.drops h
  let t := match d with
    | .job => (sat 32 (a + 1), b, c, e, f)
    | .epoch => (a, sat 32 (b + 1), c, e, f)
    | .member => (a, b, sat 32 (c + 1), e, f)
    | .land => (a, b, c, sat 16 (e + 1), f)
    | .other => (a, b, c, e, sat 16 (f + 1))
  { s with fabric := { s.fabric with drops := sset (0, 0, 0, 0, 0) s.fabric.drops h t } }

/-! ## Links, credits and the replay buffers (R288, R291, R293, R311) -/

/-- Links of a port that carry packets (R301). -/
def State.upLinks (s : State) (port : Nat) : List Nat := (s.plan.portLinks port).filter (fun l => (s.link l).up)

/-- Links of a port among which the hub chooses (R291, R293): a link that is rejoining waits for its drain. -/
def State.choice (s : State) (port : Nat) : List Nat :=
  match (s.upLinks port).filter (fun l => !(s.link l).rejoining) with
  | [] => s.upLinks port
  | ls => ls

/-- Links of a list that hub `h` reaches: traffic for a link of another hub travels on the ring (R54, R290). A hub chooses among these
(log 97). -/
def State.fromHub (s : State) (h : Nat) (ls : List Nat) : List Nat := ls.filter (fun l => s.ringReach h (l / 5))

/-- What the hash takes in place of the destination granule (R291, R364). -/
def granule (p : Packet) : Nat :=
  if 4 ≤ p.kind.toNat ∧ p.kind.toNat ≤ 8 then p.addr.toNat else p.addr.toNat / 512

/-- The link of a list that the hash chooses (R291). -/
def pickLink (ls : List Nat) (p : Packet) : Option Nat :=
  match ls with
  | [] => none
  | [l] => some l
  | _ => ls[Config.linkHash p.srcPkg.toNat p.dstPkg.toNat p.job.toNat (granule p) % ls.length]?

/-- Credit account of a packet at a port (R311). -/
def creditKey (port : Nat) (p : Packet) : Nat := 8 * port + 2 * p.vclass.toNat + b2n p.vc

/-- Bits [223:0] of a header (R313). -/
def packetHeader (p : Packet) : Nat :=
  p.kind.toNat + p.vclass.toNat * 2 ^ 4 + b2n p.vc * 2 ^ 6 + b2n p.lock * 2 ^ 7 + b2n p.lockDir * 2 ^ 8 + p.job.toNat * 2 ^ 9 +
    p.dstPkg.toNat * 2 ^ 19 + p.srcPkg.toNat * 2 ^ 32 + p.srcCluster.toNat * 2 ^ 45 + p.dstCluster.toNat * 2 ^ 54 +
    p.epoch.toNat * 2 ^ 64 + p.stamp.toNat * 2 ^ 80 + p.addr.toNat * 2 ^ 112 + p.len.toNat * 2 ^ 160 + p.seq.toNat * 2 ^ 164 +
    p.ack.toNat * 2 ^ 176 + p.aux.toNat * 2 ^ 192

/-- A packet with its CRC-32, over header bits [223:0] and the payload (R313). -/
def sealPacket (p : Packet) : Packet := { p with crc := Config.crc32 (leBytes (packetHeader p) 28 ++ p.payload) }

/-- Put a packet on link `l`: it takes the next number, carries the acknowledgement, and stays in the replay
buffer (R288); the link layer gives it its CRC (R313). -/
def State.transmit (s : State) (l : Nat) (p : Packet) : State :=
  s.onLink l (fun k =>
    let n := k.txSeq + 1
    { k with txSeq := n, replay := k.replay ++ [sealPacket { p with seq := n, ack := k.rxSeq }] })

/-- A packet of hub `h` may leave now: a credit is free (R311), no drain holds it (R293), and no lost link of the port has packets to
be sent again first (R292). -/
def State.mayLeave (s : State) (port h : Nat) (p : Packet) : Bool :=
  sget 0 s.fabric.credits (creditKey port p) < s.fabric.creditMax &&
  pickLink (s.fromHub h (s.choice port)) p == pickLink (s.fromHub h (s.upLinks port)) p &&
  (s.plan.portLinks port).all (fun l => !(s.link l).lost)

/-- Send a packet of hub `h` through a port (R291, R311): on the chosen link, or among those that wait. `cmd` is the forwarded command
it belongs to. -/
def State.sendOn (s : State) (port h : Nat) (p : Packet) (cmd : Option (Nat × Addr × BitVec 32) := none) : State :=
  let waits := s.fabric.waiting.any (fun w => creditKey w.port w.pkt == creditKey port p)
  let hold := { s with fabric := { s.fabric with waiting := s.fabric.waiting ++ [{ port := port, hub := h, pkt := p, cmd := cmd }] } }
  match pickLink (s.fromHub h (s.choice port)) p with
  | some l =>
    if !waits && s.mayLeave port h p then
      let key := creditKey port p
      let s := { s with fabric := { s.fabric with
        credits := sset 0 s.fabric.credits key (sget 0 s.fabric.credits key + 1) } }
      s.transmit l p
    else hold
  | none => hold

/-- Put a packet among those that wait by its issue stamp, behind those as old (R67, R68, R311). -/
def insertWait (w : WaitPkt) : List WaitPkt → List WaitPkt
  | [] => [w]
  | y :: t => if stampLt w.pkt.stamp y.pkt.stamp then w :: y :: t else y :: insertWait w t

/-- The forwarded command named by cluster, address and stamp ends with what was made of it, once none of its packets waits. -/
def HubCmd.settleSent (ws : List WaitPkt) (c clock : Nat) (h : HubCmd) : HubCmd :=
  match h.sent, h.done with
  | some x, none =>
    if ws.any (fun w => w.cmd == some (c, h.q.addr, h.q.stamp)) then h else { h with done := some (x.1, x.2, clock) }
  | _, _ => h

/-- Forwarded commands whose last packet has left the hub end (R245, R248, R249). -/
def State.settleSends (s : State) : State :=
  { s with clusters := s.clusters.map (fun k =>
      (k.1, { k.2 with hubq := k.2.hubq.map (HubCmd.settleSent s.fabric.waiting k.1 s.time.ticks) })) }

/-- Let waiting packets leave, oldest issue stamp first, as far as they may (R68, R311). -/
def State.release (s : State) : State :=
  let ws := s.fabric.waiting.foldl (fun l w => insertWait w l) []
  (ws.foldl (fun (s : State) w => s.sendOn w.port w.hub w.pkt w.cmd) { s with fabric := { s.fabric with waiting := [] } }).settleSends

/-- The acknowledgement in a header (R288): packets up to it leave the replay buffer and give back their credits. -/
def State.acked (s : State) (l : Nat) (ack : BitVec 12) : State :=
  let old (p : Packet) : Bool := (ack - p.seq).toNat < 2 ^ 11
  let gone := (s.link l).replay.filter old
  let port := s.plan.portOf l
  let s := s.onLink l (fun k => { k with replay := k.replay.filter (fun p => !old p) })
  let credits := gone.foldl (fun c p =>
    if p.kind = 10 then c
    else sset 0 c (creditKey port p) (sget 0 c (creditKey port p) - 1)) s.fabric.credits
  { s with fabric := { s.fabric with credits := credits } }

/-- An acknowledgement, and what the credits it gives back let go (R288, R311). -/
def State.ackLink (s : State) (l : Nat) (ack : BitVec 12) : State := (s.acked l ack).release

/-! ## Routing (R310) -/

/-- Where a packet goes next. -/
inductive Hop where
  | land
  | none
  | go (port : Nat) (p : Packet)
  deriving DecidableEq, Repr

/-- Hub `h` reaches a partition: it is one of its hubs, or the ring leads to one (R54; log 97). -/
def State.reaches (s : State) (h p : Nat) : Bool := (s.quads p).any (s.ringReach h)

/-- The choice of R310 at hub `h` of this package, for a packet that came in by port `ingress` (none: sent here). -/
def State.nextHop (s : State) (h : Nat) (ingress : Option Nat) (p : Packet) : Hop :=
  let pl := s.plan
  let c := fun a => pl.coord s.ownId a
  let t := fun a => pl.coord p.dstPkg.toNat a
  match [0, 1, 2].find? (fun a => c a != t a) with
  | none => if p.job = 0 ∨ (s.jobPart p.job.toNat).all (s.reaches h) then .land else .none
  | some a =>
    let same := match ingress with
      | some i => i / 2 == a
      | none => false
    let p := if same then p else { p with lock := false, vc := false }
    let e := s.jobEntry p.job.toNat
    let n := pl.size a
    let d := if p.job = 0 then n else jExt e a
    let o := if p.job = 0 then 0 else jOrg e a
    let rel (x : Nat) : Nat := (x + n - o % n) % n
    let plus := if p.lock then !p.lockDir
      else if d = n then 2 * ((t a + n - c a) % n) ≤ n
      else rel (t a) > rel (c a)
    let port (b : Bool) : Nat := 2 * a + (if b then 0 else 1)
    let flip := !p.lock && d == n && p.job != 0 && jDegraded e && (s.fromHub h (s.upLinks (port plus))).isEmpty
    let plus' := if flip then !plus else plus
    let p := if flip then { p with lock := true, lockDir := !plus' } else p
    if (s.fromHub h (s.upLinks (port plus'))).isEmpty then .none
    else
      let nx := if plus' then (c a + 1) % n else (c a + n - 1) % n
      let wrap := (c a == n - 1 && nx == 0) || (c a == 0 && nx == n - 1)
      .go (port plus') (if wrap then { p with vc := true } else p)

/-! ## Streams (R205 to R209) -/

/-- The count of a stream in a table, if it has an entry. -/
def streamCount (t : List StreamEntry) (k : Stream) : Option W32 := (t.find? (fun e => e.stream == k)).map (fun e => e.count)

/-- Add `n` to the count of a stream (R206). Its first packet opens the entry, for program slot `prog`, while the hub has one of its
16,384 entries free (R208; log 13). -/
def streamAdd (t : List StreamEntry) (k : Stream) (prog n : Nat) : List StreamEntry :=
  match streamCount t k with
  | none => if t.length < 16384 then t ++ [{ stream := k, count := BitVec.ofNat 32 n, prog := prog }] else t
  | some _ => t.map (fun e => if e.stream = k then { e with count := e.count + BitVec.ofNat 32 n } else e)

/-- The hub that counts a stream at this package (R206). -/
def hubOf (c : Nat) : Nat := clusterQuad c

/-- A held signal whose data has landed (R207). -/
def HubSt.ready (h : HubSt) (x : HeldSignal) : Bool :=
  (((streamCount h.inStreams x.stream).getD 0) - x.count).toNat < 2 ^ 31

/-- The first held signal that may be applied, and the others: signals of one stream go in the order of their
counts (R207). -/
def HubSt.nextSignal (h : HubSt) : Option HeldSignal :=
  h.heldSignals.find? (fun x => h.ready x && h.heldSignals.all (fun y =>
    y.stream != x.stream || y == x || (y.count - x.count).toNat < 2 ^ 31))

/-- A released remote signal is on its way to its clasp (R207). -/
def State.releasedSignal (s : State) (prog : Nat) (x : HeldSignal) : State :=
  { s with fabric := { s.fabric with signals := s.fabric.signals ++
      [{ cluster := x.stream.dstCl.toNat, clasp := x.clasp.toNat, inc := x.inc, prog := prog, stream := some x.stream }] } }

/-- A signal to a clasp of this package is on its way (R202). -/
def State.localSignal (s : State) (prog c k : Nat) (inc : BitVec 16) : State :=
  { s with fabric := { s.fabric with
      signals := s.fabric.signals ++ [{ cluster := c, clasp := k, inc := inc, prog := prog }] } }

/-- A data packet of a stream has landed (R206). -/
def State.landed (s : State) (p : Packet) : State :=
  if p.dstCluster = 0x1FF then s
  else
    let k : Stream := { srcPkg := p.srcPkg, srcCl := p.srcCluster, dstPkg := p.dstPkg, dstCl := p.dstCluster }
    let c := p.dstCluster.toNat
    s.onHub (hubOf c) (fun h => { h with inStreams := streamAdd h.inStreams k (s.slotOfJob c p.job.toNat) 1 })

/-! ## Landing here (R206, R207, R318) -/

/-- Bytes of a payload that its sender filled (R249, R314): aux of a WRITE or READ_RSP packet. -/
def filled (p : Packet) : List Byte := p.payload.take (fld p.aux 0 10)

/-- The local destination and the length that a READ_REQ packet names (R249). -/
def reqDst (p : Packet) : Addr := leNat (p.payload.take 8) % 2 ^ 48
def reqLen (p : Packet) : Nat := leNat ((p.payload.drop 8).take 8)

/-- R318: the target lies in the partition that runs the job, which is not in reset, and its address is one that a requester of the
partition may use (R58). -/
def State.landOk (s : State) (p : Packet) : Bool :=
  match s.jobPart p.job.toNat with
  | none => false
  | some q =>
    !s.inReset q && (p.dstCluster == 0x1FF || s.clusterIn q p.dstCluster.toNat) &&
    (match p.kind.toNat with
     | 0 => s.rangeOk q p.addr.toNat (filled p).length
     | 1 => s.rangeOk q p.addr.toNat (reqLen p)
     | 2 => s.rangeOk q p.addr.toNat (filled p).length
     | 3 => p.dstCluster != 0x1FF && decide (fld p.addr 0 6 < 48)
     | _ => true)

/-- WRITE: the bytes are written; acknowledged as done they have landed (R206), else the packet is counted in land_drop (R318). -/
def State.landWrite (s : State) (h : Nat) (p : Packet) : State :=
  if p.kind = 9 then s.drop h .other
  else
    let (s, ok) := s.hubWrite p.job.toNat (ownerHub h) p.addr.toNat (filled p)
    if ok then s.landed p else s.drop h .land

/-- A SIGNAL packet is held at the hub of its cluster until its stream's data has landed. -/
def State.landSignal (s : State) (p : Packet) : State :=
  let k : Stream := { srcPkg := p.srcPkg, srcCl := p.srcCluster, dstPkg := p.dstPkg, dstCl := p.dstCluster }
  let x : HeldSignal :=
    { stream := k, job := p.job, count := p.aux, clasp := BitVec.ofNat 6 (fld p.addr 0 6), inc := BitVec.ofNat 16 (fld p.addr 6 16) }
  s.onHub (hubOf p.dstCluster.toNat) (fun b => { b with heldSignals := b.heldSignals ++ [x] })

/-- A packet of this package to itself, which a secondary sends that names its own pair's primary (R381): it lands here (R310). -/
def State.landOwn (s : State) (h : Nat) (p : Packet) : State :=
  if p.kind = 9 then s
  else if !s.landOk p then s.drop h .land
  else if p.kind = 0 then s.landWrite h p
  else if p.kind = 3 then s.landSignal p
  else s

/-! ## Sending -/

/-- The hub that counts a drop of a packet sent here: the lowest of the job's partition (log 25). -/
def State.homeHub (s : State) (job : Nat) : Nat := (s.jobPart job).getD 0

/-- The hub that sends a packet of this package (R188, log 25). -/
def State.sendingHub (s : State) (p : Packet) : Nat :=
  if p.srcCluster = 0x1FF then s.homeHub p.job.toNat else clusterQuad p.srcCluster.toNat

/-- A SYSTEM packet of a twin-mode job: a member notice or a message of the resync (R295, R472, R476). -/
def State.twinMessage (s : State) (p : Packet) : Bool :=
  let x := leNat p.payload
  p.kind == 9 && 0x10 ≤ nfld x 0 8 && nfld x 0 8 ≤ 0x15 && jTwin (s.jobEntry (nfld x 32 10))

/-- Send a packet of this package (R310, R315): traffic of a twin-mode job for the twin partner goes over LP6 (R295; its SYSTEM packets
while LP6 is up), all else by dimension order; without a port it is dropped and counted in other_drop. -/
def State.inject (s : State) (p : Packet) (cmd : Option (Nat × Addr × BitVec 32) := none) : State :=
  let h := s.sendingHub p
  let lp6 := s.fromHub h (s.upLinks 6)
  let toTwin := some p.dstPkg.toNat == s.plan.twin &&
    (p.job != 0 && jTwin (s.jobEntry p.job.toNat) || s.twinMessage p && !lp6.isEmpty)
  if toTwin then
    if lp6.isEmpty || !s.plan.usedPort p.job.toNat 6 then s.drop h .other else s.sendOn 6 h p cmd
  else match s.nextHop h none p with
    | .land => s.landOwn h p
    | .none => s.drop h .other
    | .go port p => if s.plan.usedPort p.job.toNat port then s.sendOn port h p cmd else s.drop h .other

/-- Send a list of packets, in order. -/
def State.injectAll (s : State) (ps : List Packet) (cmd : Option (Nat × Addr × BitVec 32) := none) : State :=
  ps.foldl (fun s p => s.inject p cmd) s

/-- A header of this package at this instant (R313): the rest of the fields are the sender's. -/
def State.newPacket (s : State) (kind vclass job dst srcCl dstCl : Nat) (addr : Addr) (aux : Nat)
    (payload : List Byte) : Packet :=
  { kind := BitVec.ofNat 4 kind, vclass := BitVec.ofNat 2 vclass, vc := false, lock := false, lockDir := false,
    job := BitVec.ofNat 10 job, dstPkg := BitVec.ofNat 13 dst, srcPkg := BitVec.ofNat 13 s.ownId,
    srcCluster := BitVec.ofNat 9 srcCl, dstCluster := BitVec.ofNat 9 dstCl, epoch := jEpoch (s.jobEntry job),
    stamp := s.stamp, addr := BitVec.ofNat 48 addr, len := BitVec.ofNat 4 (ceilDiv payload.length 64),
    seq := 0, ack := 0, aux := BitVec.ofNat 32 aux, payload := padTo (64 * ceilDiv payload.length 64) payload }

/-- A SYSTEM packet (R314): system job, 64-byte payload. -/
def State.sysPacket (s : State) (dst : Nat) (payload : List Byte) : Packet :=
  s.newPacket 9 3 0 dst 0x1FF 0x1FF 0 0 payload

/-! ## Twins and the names of packages (R295, R381) -/

/-- The twin partner of a package of a twin-mode slice (R295, log 26). -/
def State.partner (s : State) (id : Nat) : Nat :=
  match s.plan.twin with
  | none => Config.twinOf id
  | some t => if id = s.ownId then t else if id = t then s.ownId else Config.twinOf id

/-- Primary id of the pair of a package (R381). -/
def State.primary (s : State) (id : Nat) : Nat := min id (s.partner id)

/-- What a hub of a secondary makes of a package that a program names in a twin-mode slice (R381): a primary is replaced
by its partner. -/
def State.named (s : State) (job id : Nat) : Nat :=
  if jTwin (s.jobEntry job) && s.primary s.ownId != s.ownId && s.primary id == id then
    s.partner id
  else id

/-- The started task of program slot `prog` that uses cluster `c` (R222, R337). -/
def State.progTask (s : State) (prog c : Nat) : Option Task :=
  (s.prt (s.clPart c)).tasks.find? (fun t => t.started && tdSlot t.desc == prog && t.clusters.contains c)

/-- The task whose program's context cluster `c` holds (R222, R333). -/
def State.taskOf (s : State) (c : Nat) : Option Task := s.progTask (s.cl c).prog c

/-- Job id of the program of slot `prog` that runs on a cluster; 0 when none does. -/
def State.jobOf (s : State) (prog c : Nat) : Nat :=
  match (s.progTask prog c).bind (fun t => t.image) with
  | some i => i.job.toNat
  | none => 0

/-- Cluster `c` may send on stream `k`: it has an entry, or its program's declaration and the hub have room for one
more (R208). -/
def State.streamOpen (s : State) (prog c : Nat) (k : Stream) : Bool :=
  let h := s.hub (hubOf c)
  match streamCount h.outStreams k with
  | some _ => true
  | none =>
    match (s.progTask prog c).bind (fun t => t.image) with
    | none => false
    | some i =>
      let mine := h.outStreams.filter (fun e => e.prog == prog)
      mine.length < i.streamsOut.getD (clusterQuad c) 0 && h.outStreams.length < 16384

/-- The stream of a command of cluster `c` to package `dst`, cluster `d` (R205). -/
def State.streamTo (s : State) (c dst d : Nat) : Stream :=
  { srcPkg := BitVec.ofNat 13 s.ownId, srcCl := BitVec.ofNat 9 c, dstPkg := BitVec.ofNat 13 dst,
    dstCl := BitVec.ofNat 9 d }

/-- Send data packets of a forwarded command of cluster `c` on a stream: each raises the sent count (R206). -/
def State.sendData (s : State) (h : HubCmd) (c : Nat) (k : Stream) (ps : List Packet) : State :=
  let s := s.onHub (hubOf c) (fun b => { b with outStreams := streamAdd b.outStreams k h.prog ps.length })
  s.injectAll ps (some (c, h.q.addr, h.q.stamp))

/-- Send a command's signal (R195, R202, R207): to a clasp of this package, or as a SIGNAL packet that carries the
sent count of its stream. -/
def State.sendSignal (s : State) (prog c : Nat) (q : Block) : State :=
  if hRemote q then
    let dst := s.named (s.jobOf prog c) (hPackage q)
    let k := s.streamTo c dst (hTarget q)
    let cnt := (streamCount (s.hub (hubOf c)).outStreams k).getD 0
    s.inject (s.newPacket 3 2 (s.jobOf prog c) dst c (hTarget q)
      (hTargetClasp q + (hInc q).toNat * 64) cnt.toNat [])
  else s.localSignal prog (hTarget q) (hTargetClasp q) (hInc q)

/-- Opcodes that send data to another package with this command (R225, R205). -/
def sendsData (q : Block) : Bool :=
  let op := hOpcode q
  ((op == 0xD1 || op == 0xD2 || op == 0xD5) && hRemote q) || (op == 0xD4 && wfld q 9 19 1 == 1)

end Sys2Proof.Machine
end

