-- ==== Sys2Proof/Machine/Num.lean ====
section
/-!
DEFINITION. Exact numbers, the number formats, and the one rounding mode (R71 to R84). A value is exact until
an operation's own rule rounds it: a finite non-zero value is (−1)^neg × (n / d) × 2^e with n and d above 0,
in no normal form.
-/
namespace Sys2Proof.Machine

/-- An exact value: NaN, an infinity or a zero with its sign, or a non-zero rational times a power of two. -/
inductive Val where
  | nan
  | inf (neg : Bool)
  | zero (neg : Bool)
  | num (neg : Bool) (n d : Nat) (e : Int)
  deriving DecidableEq, Repr

/-- An integer as a value. -/
def vInt (n : Int) : Val := if n = 0 then .zero false else .num (decide (n < 0)) n.natAbs 1 0

/-- 2^e as a value. -/
def vPow (e : Int) : Val := .num false 1 1 e

def vOne : Val := .num false 1 1 0

def vNeg : Val → Val
  | .nan => .nan
  | .inf s => .inf (!s)
  | .zero s => .zero (!s)
  | .num s n d e => .num (!s) n d e

def vAbs : Val → Val
  | .nan => .nan
  | .inf _ => .inf false
  | .zero _ => .zero false
  | .num _ n d e => .num false n d e

def vIsNan : Val → Bool
  | .nan => true
  | _ => false

def vFinite : Val → Bool
  | .nan => false
  | .inf _ => false
  | _ => true

def vIsZero : Val → Bool
  | .zero _ => true
  | _ => false

/-- The sign bit. -/
def vSign : Val → Bool
  | .nan => false
  | .inf s => s
  | .zero s => s
  | .num s _ _ _ => s

/-- n × 2^k for k at or above 0. -/
def shl (n : Nat) (k : Int) : Nat := n <<< k.toNat

/-- Two magnitudes over one denominator and exponent: (a, b, d, e) with the first a/d·2^e, the second b/d·2^e. -/
def align (n1 d1 : Nat) (e1 : Int) (n2 d2 : Nat) (e2 : Int) : Nat × Nat × Nat × Int :=
  let e := min e1 e2
  if d1 = 1 ∧ d2 = 1 then (shl n1 (e1 - e), shl n2 (e2 - e), 1, e)
  else (shl (n1 * d2) (e1 - e), shl (n2 * d1) (e2 - e), d1 * d2, e)

/-- Exact sum; the Boolean says it is invalid (∞ − ∞, R82). A zero sum of non-zero terms is +0 (R74, R112). -/
def vAdd (a b : Val) : Val × Bool :=
  match a, b with
  | .nan, _ => (.nan, false)
  | _, .nan => (.nan, false)
  | .inf s, .inf t => if s = t then (.inf s, false) else (.nan, true)
  | .inf s, _ => (.inf s, false)
  | _, .inf t => (.inf t, false)
  | .zero s, .zero t => (.zero (s && t), false)
  | .zero _, v => (v, false)
  | v, .zero _ => (v, false)
  | .num s1 n1 d1 e1, .num s2 n2 d2 e2 =>
    let (x, y, d, e) := align n1 d1 e1 n2 d2 e2
    if s1 = s2 then (.num s1 (x + y) d e, false)
    else if x = y then (.zero false, false)
    else if y < x then (.num s1 (x - y) d e, false)
    else (.num s2 (y - x) d e, false)

/-- Exact product; the Boolean says it is invalid (0 × ∞, R82). -/
def vMul (a b : Val) : Val × Bool :=
  match a, b with
  | .nan, _ => (.nan, false)
  | _, .nan => (.nan, false)
  | .inf _, .zero _ => (.nan, true)
  | .zero _, .inf _ => (.nan, true)
  | .inf s, v => (.inf (s != vSign v), false)
  | v, .inf t => (.inf (vSign v != t), false)
  | .zero s, v => (.zero (s != vSign v), false)
  | v, .zero t => (.zero (vSign v != t), false)
  | .num s1 n1 d1 e1, .num s2 n2 d2 e2 => (.num (s1 != s2) (n1 * n2) (d1 * d2) (e1 + e2), false)

/-- Exact quotient with the flags of R82 and R134: 0/0 and ∞/∞ invalid; a finite non-zero value over zero is an
infinity with overflow_inf. -/
def vDiv (a b : Val) : Val × Flags :=
  match a, b with
  | .nan, _ => (.nan, 0)
  | _, .nan => (.nan, 0)
  | .inf _, .inf _ => (.nan, fNanProd)
  | .zero _, .zero _ => (.nan, fNanProd)
  | .inf s, v => (.inf (s != vSign v), 0)
  | v, .inf t => (.zero (vSign v != t), 0)
  | .zero s, v => (.zero (s != vSign v), 0)
  | .num s _ _ _, .zero t => (.inf (s != t), fOverInf)
  | .num s1 n1 d1 e1, .num s2 n2 d2 e2 => (.num (s1 != s2) (n1 * d2) (d1 * n2) (e1 - e2), 0)

/-- Order of two values that are not NaN, the zeros equal: 0 below, 1 equal, 2 above. -/
def vCmp (a b : Val) : Nat :=
  match a, b with
  | .inf s, .inf t => if s = t then 1 else if s then 0 else 2
  | .inf s, _ => if s then 0 else 2
  | _, .inf t => if t then 2 else 0
  | .zero _, .zero _ => 1
  | .zero _, v => if vSign v then 2 else 0
  | v, .zero _ => if vSign v then 0 else 2
  | .num s1 n1 d1 e1, .num s2 n2 d2 e2 =>
    if s1 = s2 then
      let (x, y, _, _) := align n1 d1 e1 n2 d2 e2
      if x = y then 1 else if (decide (x < y)) != s1 then 0 else 2
    else if s1 then 0 else 2
  | _, _ => 1

/-- `a` below `b`, neither NaN. -/
def vLt (a b : Val) : Bool := vCmp a b == 0

/-- floor(log2(n / d)). -/
def log2Frac (n d : Nat) : Int :=
  let l : Int := (Nat.log2 n : Int) - (Nat.log2 d : Int)
  if (if 0 ≤ l then shl d l ≤ n else d ≤ shl n (-l)) then l else l - 1

/-- floor(log2 |v|) of a finite non-zero value; 0 for any other. -/
def vLog2 : Val → Int
  | .num _ n d e => log2Frac n d + e
  | _ => 0

/-- clog2 of R93: ceil(log2 |v|) of a finite non-zero value, none (minus infinity) for zero. -/
def vClog2 : Val → Option Int
  | .num _ n d e =>
    let l := log2Frac n d
    let eq := if 0 ≤ l then n == shl d l else shl n (-l) == d
    some (if eq then l + e else l + e + 1)
  | _ => none

/-- floor of a value as an integer (0 for NaN and infinities). -/
def vFloor : Val → Int
  | .num s n d e =>
    let (a, b) := if 0 ≤ e then (shl n e, d) else (n, shl d (-e))
    if s then -((a + b - 1) / b : Nat) else ((a / b : Nat) : Int)
  | _ => 0

/-- Nearest integer to a fraction n / d, ties to even (R78). -/
def rneDiv (n d : Nat) : Nat :=
  let q := n / d
  let r := n % d
  if d < 2 * r ∨ (2 * r = d ∧ q % 2 = 1) then q + 1 else q

/-- Nearest integer to a finite value, ties to even (R179). -/
def vRne : Val → Int
  | .num s n d e =>
    let q := if 0 ≤ e then rneDiv (shl n e) d else rneDiv n (shl d (-e))
    if s then -(q : Int) else (q : Int)
  | _ => 0

/-- Integer square root by bits, from bit k down. -/
def isqrtFrom (n : Nat) : Nat → Nat → Nat
  | 0, a => a
  | k + 1, a => if (a + 2 ^ k) * (a + 2 ^ k) ≤ n then isqrtFrom n k (a + 2 ^ k) else isqrtFrom n k a

/-- A value that rounds as the square root of n·2^e does in every format of R71: 40 root bits and a sticky
bit. -/
def sqrtNum (n : Nat) (e : Int) : Val :=
  let k : Int := 80 - (Nat.log2 n : Int)
  let k := if 0 ≤ k then k else 0
  let k := if (e - k) % 2 = 0 then k else k + 1
  let m := shl n k
  let r := isqrtFrom m (Nat.log2 m / 2 + 1) 0
  .num false (2 * r + (if r * r = m then 0 else 1)) 1 ((e - k) / 2 - 1)

/-- Square root (R133, R134): of a negative non-zero value invalid; √−0 = −0. -/
def vSqrt (a : Val) : Val × Flags :=
  match a with
  | .nan => (.nan, 0)
  | .inf s => if s then (.nan, fNanProd) else (.inf false, 0)
  | .zero s => (.zero s, 0)
  | .num s n d e =>
    if s then (.nan, fNanProd)
    else if d = 1 then (sqrtNum n e, 0) else (sqrtNum (shl n 200 / d) (e - 200), 0)

/-! ## Formats -/

/-- A floating-point format of R72 and R73: width, mantissa bits, bias, code of the largest finite value, and
what lies above it. -/
structure Fmt where
  w    : Nat
  p    : Nat
  bias : Nat
  top  : Nat
  inf  : Bool
  nan  : Option Nat
  deriving DecidableEq, Repr

def fp32 : Fmt := ⟨32, 23, 127, 0x7F7FFFFF, true, some 0x7FC00000⟩
def fp16 : Fmt := ⟨16, 10, 15, 0x7BFF, true, some 0x7E00⟩
def bf16 : Fmt := ⟨16, 7, 127, 0x7F7F, true, some 0x7FC0⟩
def e4m3 : Fmt := ⟨8, 3, 7, 0x7E, false, some 0x7F⟩
def e5m2 : Fmt := ⟨8, 2, 15, 0x7B, true, some 0x7E⟩
def e3m2 : Fmt := ⟨6, 2, 3, 0x1F, false, none⟩
def e2m3 : Fmt := ⟨6, 3, 1, 0x1F, false, none⟩
def e2m1 : Fmt := ⟨4, 1, 1, 0x7, false, none⟩

/-- Format of a code of R71; T2 (0x8) and the reserved codes have none here. -/
def fmtOf : Nat → Option Fmt
  | 0 => some fp32
  | 1 => some fp16
  | 2 => some bf16
  | 3 => some e4m3
  | 4 => some e5m2
  | 5 => some e3m2
  | 6 => some e2m3
  | 7 => some e2m1
  | _ => none

/-- Width in bits of the format of a code (R71). -/
def fmtWidth : Nat → Nat
  | 0 => 32
  | 1 => 16
  | 2 => 16
  | 3 => 8
  | 4 => 8
  | 5 => 6
  | 6 => 6
  | 7 => 4
  | 8 => 2
  | _ => 0

/-- Codes that are block-scaled only (R71). -/
def fmtBlocked (c : Nat) : Bool := 5 ≤ c && c ≤ 8

/-- Value of code `c` of format `F` (R72, R73). -/
def decode (F : Fmt) (c : Nat) : Val :=
  let s := c.testBit (F.w - 1)
  let m := c % 2 ^ (F.w - 1)
  if F.top < m then (if F.inf ∧ m = F.top + 1 then .inf s else .nan)
  else
    let ex := m >>> F.p
    let fr := m % 2 ^ F.p
    if ex = 0 then (if fr = 0 then .zero s else .num s fr 1 (1 - (F.bias : Int) - F.p))
    else .num s (2 ^ F.p + fr) 1 ((ex : Int) - F.bias - F.p)

/-- Value of a T2 code (R76): 0b10 reads as 0 and sets t2_reserved. -/
def decodeT2 (c : Nat) : NumM Val :=
  match c with
  | 1 => pure (.num false 1 1 0)
  | 2 => do setF fT2; pure (.zero false)
  | 3 => pure (.num true 1 1 0)
  | _ => pure (.zero false)

/-- Magnitude code of n/d·2^e in `F` by round_rne (R78), not held at the largest finite value: the mantissa in
units of the grid at that value, counted on from the grid of the subnormals. A value below half the smallest
subnormal rounds to zero. -/
def rneCode (F : Fmt) (n d : Nat) (e : Int) : Nat :=
  let emin : Int := 1 - (F.bias : Int)
  let l := log2Frac n d + e
  if l < emin - F.p - 1 then 0 else
  let k := max l emin
  let sh := e - (k - F.p)
  let r := if 0 ≤ sh then rneDiv (shl n sh) d else rneDiv n (shl d (-sh))
  r + ((k - emin).toNat) * 2 ^ F.p

/-- A code with its sign bit. -/
def signed (F : Fmt) (s : Bool) (m : Nat) : Nat := if s then m + 2 ^ (F.w - 1) else m

/-- Canonical NaN of R73 (0 where the format has none). -/
def nanCode (F : Fmt) : Nat := F.nan.getD 0

/-- Round a value to a format (R78, R80, R81), with its flags; `hold` is the rule of R83, under which an overflow
of a finite value gives the largest finite value. An E2M3 value with three mantissa bits is no E5M2 value, though R84 lists the pair as
exact: it rounds to nearest, ties to even, and sets no flag (DESIGN CHOICE, log 96). -/
def roundTo (F : Fmt) (hold : Bool) (v : Val) : NumM Nat :=
  match v with
  | .nan => pure (nanCode F)
  | .inf s =>
    if F.inf then pure (signed F s (F.top + 1))
    else do setF fOverNan; pure (nanCode F)
  | .zero s => pure (signed F s 0)
  | .num s n d e =>
    let m := rneCode F n d e
    if m = 0 then do setF fUnderflow; pure (signed F s 0)
    else if m ≤ F.top then pure (signed F s m)
    else if hold then do setF fSaturated; pure (signed F s F.top)
    else if F.inf then do setF fOverInf; pure (signed F s (F.top + 1))
    else if F.nan.isSome then do setF fOverNan; pure (nanCode F)
    else do setF fSaturated; pure (signed F s F.top)

/-- Round to FP32 and go on with the value. -/
def r32 (v : Val) : NumM Val := do
  let c ← roundTo fp32 false v
  pure (decode fp32 c)

/-- FP32 value of a word. -/
def v32 (w : W32) : Val := decode fp32 w.toNat

/-- The FP32 code of a value that FP32 holds. -/
def code32 (v : Val) : W32 := BitVec.ofNat 32 ((roundTo fp32 false v).run 0).1

/-- An FP32 code that is positive, finite and normal (R91). -/
def scaleOk (w : Nat) : Bool := 0x00800000 ≤ w && w ≤ 0x7F7FFFFF

/-! ## Operations, each rounded once to FP32 unless said -/

/-- An exact result with its validity, flagged (R82). -/
def liftV (r : Val × Bool) : NumM Val := do
  setFIf r.2 fNanProd
  pure r.1

def xAdd (a b : Val) : NumM Val := liftV (vAdd a b)
def xMul (a b : Val) : NumM Val := liftV (vMul a b)
def xSub (a b : Val) : NumM Val := liftV (vAdd a (vNeg b))

/-- Exact a·b + c; a 0 × ∞ product is invalid whatever c is (R82). -/
def xFma (a b c : Val) : NumM Val := do
  let p ← xMul a b
  xAdd p c

/-- A product of three values: 0 × ∞ among them is invalid whatever the others are (R82). -/
def xMul3 (a b c : Val) : NumM Val := do
  let vs := [a, b, c]
  let inf := vs.any (fun v => !vFinite v && !vIsNan v)
  if inf && vs.any vIsZero then do setF fNanProd; pure .nan
  else xMul (← xMul a b) c

def xDiv (a b : Val) : NumM Val := do
  let (v, f) := vDiv a b
  setF f
  pure v

def xSqrt (a : Val) : NumM Val := do
  let (v, f) := vSqrt a
  setF f
  pure v

def fAdd (a b : Val) : NumM Val := do r32 (← xAdd a b)
def fSub (a b : Val) : NumM Val := do r32 (← xSub a b)
def fMul (a b : Val) : NumM Val := do r32 (← xMul a b)
def fFma (a b c : Val) : NumM Val := do r32 (← xFma a b c)
def fDiv (a b : Val) : NumM Val := do r32 (← xDiv a b)

/-- Larger of two values: +0 above −0, and the number when the other is NaN (R82, R134). -/
def vMax (a b : Val) : Val :=
  if vIsNan a then b
  else if vIsNan b then a
  else match vCmp a b with
    | 0 => b
    | 1 => if vSign a then b else a
    | _ => a

/-- Smaller of two values, likewise. -/
def vMin (a b : Val) : Val :=
  if vIsNan a then b
  else if vIsNan b then a
  else match vCmp a b with
    | 0 => a
    | 1 => if vSign a then a else b
    | _ => b

/-- A value read, with nan_input for a NaN (R97). -/
def readVal (v : Val) : NumM Val := do
  setFIf (vIsNan v) fNanIn
  pure v

/-- The flags of FP32 words that a command reads and does not compute with (R97). -/
def flagsIn (ws : List W32) : Flags := if ws.any (fun w => vIsNan (v32 w)) then fNanIn else 0

end Sys2Proof.Machine
end

