-- ==== Sys2Proof/Machine/Ledger.lean ====
section
/-!
DEFINITION. The ledger and its arithmetic (R355 to R359), the fragment encoding (R366, R367), the reduction plan
(R361), the division of chunks (R363), and the digest of R383.
-/
namespace Sys2Proof.Machine

/-! ## Ledgers -/

/-- The integer x × 2^160 of a finite FP32 code's magnitude (R356). -/
def ledgerMag (w : W32) : Nat :=
  let ex := fld w 23 8
  let fr := fld w 0 23
  if ex = 0 then fr <<< 11 else (2 ^ 23 + fr) <<< (ex + 10)

/-- Add an FP32 contribution (R356). -/
def Ledger.add (l : Ledger) (w : W32) : Ledger :=
  if fld w 23 8 = 255 then
    if fld w 0 23 ≠ 0 then { l with nan := true }
    else if bit w 31 then { l with ninf := true } else { l with pinf := true }
  else
    let m := BitVec.ofNat 320 (ledgerMag w)
    { l with n := if bit w 31 then l.n - m else l.n + m }

/-- Add a ledger into a ledger (R357). -/
def Ledger.join (a b : Ledger) : Ledger :=
  { n := a.n + b.n, nan := a.nan || b.nan, pinf := a.pinf || b.pinf, ninf := a.ninf || b.ninf }

/-- Any of the sticky flags. -/
def Ledger.flagged (l : Ledger) : Bool := l.nan || l.pinf || l.ninf

/-- Magnitude and sign of N (R367). -/
def Ledger.mag (l : Ledger) : Nat := l.n.toInt.natAbs
def Ledger.neg (l : Ledger) : Bool := l.n.msb

/-- The exact value of a ledger that carries no flag (R355). -/
def Ledger.val (l : Ledger) : Val := if l.n = 0 then .zero false else .num l.neg l.mag 1 (-160)

/-- Round a ledger to FP32, once (R359). -/
def Ledger.round (l : Ledger) : NumM W32 :=
  if l.nan then do setF fNanIn; pure 0x7FC00000
  else if l.pinf && l.ninf then do setF fNanProd; pure 0x7FC00000
  else if l.pinf then pure 0x7F800000
  else if l.ninf then pure 0xFF800000
  else do
    let c ← roundTo fp32 false l.val
    pure (BitVec.ofNat 32 c)

/-- An infinity or a NaN (R168, R359). -/
def nonFinite (w : W32) : Bool := fld w 23 8 == 255

/-! ## Fragments (R366, R367) -/

/-- An element is present (R367). -/
def Ledger.present (l : Ledger) : Bool := l.n != 0 || l.flagged

/-- Limb `i` of |N| (R355). -/
def Ledger.limb (l : Ledger) (i : Nat) : Nat := nfld l.mag (32 * i) 32

/-- Numbers of the limbs that are carried (R367): none beside a flag. -/
def Ledger.carried (l : Ledger) : List Nat :=
  if l.flagged then [] else (List.range 10).filter (fun i => l.limb i != 0)

/-- The element header of R367. -/
def Ledger.header (l : Ledger) : Nat :=
  (l.carried.foldl (fun a i => a + 2 ^ i) 0) + (if l.neg && !l.flagged then 2 ^ 10 else 0) +
    b2n l.nan * 2 ^ 11 + b2n l.pinf * 2 ^ 12 + b2n l.ninf * 2 ^ 13

/-- Zero bytes up to a multiple of 4. -/
def pad4 (l : List Byte) : List Byte := padTo (roundUp l.length 4) l

/-- Group `g` of a chunk (R367); empty when no element of it is present. -/
def groupBytes (sums : Sparse Ledger) (g : Nat) : List Byte :=
  let es := (List.range 8).map (fun i => sget {} sums (8 * g + i))
  let here := es.filter Ledger.present
  if here.isEmpty then []
  else
    let mask := ((List.range 8).zip es).foldl (fun a x => a + b2n x.2.present * 2 ^ x.1) 0
    leBytes (mask + g * 256) 4 ++ pad4 (here.flatMap (fun l => leBytes l.header 2)) ++
      here.flatMap (fun l => l.carried.flatMap (fun i => leBytes (l.limb i) 4))

/-- The packets of a chunk's fragment as (first group, groups, bytes): groups in increasing g, as many as fit into
512 bytes (R366). -/
def fragPack (sums : Sparse Ledger) : List Nat → List (Nat × Nat × List Byte) → List (Nat × Nat × List Byte)
  | [], acc => acc.reverse
  | g :: t, acc =>
    let b := groupBytes sums g
    if b.isEmpty then fragPack sums t acc
    else match acc with
      | (f, n, bs) :: rest =>
        if bs.length + b.length ≤ 512 then fragPack sums t ((f, n + 1, bs ++ b) :: rest)
        else fragPack sums t ((g, 1, b) :: acc)
      | [] => fragPack sums t [(g, 1, b)]

/-- The (aux, payload) of every packet of a chunk's fragment (R366): the last carries last, and a chunk with no
present element sends one empty packet. -/
def fragPackets (sums : Sparse Ledger) : List (Nat × List Byte) :=
  let ps := fragPack sums (List.range 32) []
  match ps with
  | [] => [(2 ^ 21, [])]
  | _ => ((List.range ps.length).zip ps).map (fun x =>
      (x.2.1 + x.2.2.1 * 32 + x.2.2.2.length * 2 ^ 11 + (if x.1 + 1 = ps.length then 2 ^ 21 else 0), x.2.2.2))

/-- What a fragment packet decodes to: the ledgers by offset, the last flag, and the g of its last group. -/
structure FragRead where
  elems : List (Nat × Ledger) := []
  last  : Bool := false
  group : Option Nat := none
  deriving DecidableEq, Repr

/-- Read the limbs of the present elements (R367); none where malformed. -/
def readLimbs : List (Nat × Nat) → List Byte → Option (List (Nat × Ledger) × List Byte)
  | [], bs => some ([], bs)
  | (off, h) :: t, bs =>
    let limbs := (List.range 10).filter (fun i => h.testBit i)
    let n := limbs.length
    let words := (List.range n).map (fun k => leNat ((bs.drop (4 * k)).take 4))
    let flags := nfld h 11 3
    let mag := (limbs.zip words).foldl (fun a x => a + x.2 * 2 ^ (32 * x.1)) 0
    if bs.length < 4 * n || nfld h 14 2 != 0 || (n == 0 && flags == 0) || (n != 0 && flags != 0) ||
        words.any (fun w => w == 0) || mag.testBit 319 then none
    else
      let m := BitVec.ofNat 320 mag
      let l : Ledger := { n := if h.testBit 10 then 0 - m else m, nan := h.testBit 11, pinf := h.testBit 12,
                          ninf := h.testBit 13 }
      match readLimbs t (bs.drop (4 * n)) with
      | none => none
      | some (es, r) => some ((off, l) :: es, r)

/-- Read one group (R367): its g, its elements, and the bytes after it; none where malformed. -/
def readGroup (bs : List Byte) : Option (Nat × List (Nat × Ledger) × List Byte) :=
  if bs.length < 4 then none
  else
    let w := leNat (bs.take 4)
    let g := nfld w 8 5
    let idx := (List.range 8).filter (fun i => w.testBit i)
    let n := idx.length
    let hb := roundUp (2 * n) 4
    let rest := bs.drop 4
    let heads := (List.range n).map (fun k => leNat ((rest.drop (2 * k)).take 2))
    if nfld w 13 19 != 0 || rest.length < hb || ((rest.take hb).drop (2 * n)).any (fun b => b != 0) then none
    else match readLimbs ((idx.map (fun i => 8 * g + i)).zip heads) (rest.drop hb) with
      | none => none
      | some (es, r) => some (g, es, r)

/-- Read the groups of a packet in order, each g above the one before (R367). -/
def readGroups : Nat → Option Nat → List Byte → Option (List (Nat × List (Nat × Ledger)))
  | _, _, [] => some []
  | 0, _, _ => none
  | k + 1, prev, bs =>
    match readGroup bs with
    | none => none
    | some (g, es, r) =>
      if prev.any (fun p => decide (g ≤ p)) then none
      else match readGroups k (some g) r with
        | none => none
        | some t => some ((g, es) :: t)

/-- Read a FRAGMENT packet after group `prev` of the same chunk and sender (R366, R367); none where it, or a group
of it, is malformed. -/
def readFragment (prev : Option Nat) (aux : W32) (payload : List Byte) : Option FragRead :=
  let first := fld aux 0 5
  let groups := fld aux 5 6
  let bytes := fld aux 11 10
  if fld aux 22 10 != 0 || 512 < bytes || payload.length < bytes || (payload.drop bytes).any (fun b => b != 0) ||
      (groups == 0 && bytes != 0) then none
  else match readGroups 33 prev (payload.take bytes) with
    | none => none
    | some gs =>
      if gs.length != groups || gs.head?.any (fun x => x.1 != first) then none
      else some { elems := gs.flatMap (fun x => x.2), last := bit aux 21, group := (gs.getLast?.map (fun x => x.1)) }

/-! ## The reduction plan and the division of chunks (R361, R363) -/

def pStages (p : Block) : Nat := fld p 0 2
def pAll (p : Block) : Bool := bit p 2
def pContrib (p : Block) : Nat := fld p 8 16
def pWindow (p : Block) : Nat := fld p 32 13
def pLogBase (p : Block) : Nat := fld p 48 48
def pLogSize (p : Block) : Nat := fld p 96 32
/-- Axis and width of the entry of stage `s`, from 1. -/
def pAxis (p : Block) (s : Nat) : Nat := fld p (128 + 32 * (s - 1)) 2
def pWidth (p : Block) (s : Nat) : Nat := fld p (130 + 32 * (s - 1)) 10

/-- split of R363: first chunk and number of chunks of part `j` of `w`. -/
def split (lo n w j : Nat) : Nat × Nat :=
  let q := n / w
  let r := n % w
  (lo + j * q + min j r, q + (if j < r then 1 else 0))

/-- The part that holds chunk `h` (R363). -/
def splitIndex (lo n w h : Nat) : Nat :=
  let q := n / w
  let r := n % w
  let o := h - lo
  if o < r * (q + 1) then o / (q + 1) else r + (o - r * (q + 1)) / max q 1

/-- The chunks of an element count. -/
def chunksOf (elements : Nat) : Nat := ceilDiv elements 256

/-! ## The digest (R383) -/

/-- One byte into a CRC-64 register, polynomial 0x42F0_E1EB_A9EA_3693, most significant bit first. -/
def crc64Byte (c : BitVec 64) (b : Byte) : BitVec 64 :=
  (List.range 8).foldl (fun c _ => if c.msb then (c <<< 1) ^^^ 0x42F0E1EBA9EA3693#64 else c <<< 1)
    (c ^^^ (BitVec.ofNat 64 (b.toNat * 2 ^ 56)))

/-- Digest of more bytes of a copy (R383). -/
def crc64 (c : BitVec 64) (bs : List Byte) : BitVec 64 := bs.foldl crc64Byte c

end Sys2Proof.Machine
end

