-- ==== Sys2Proof/Machine/Reduction.lean ====
section
/-!
DEFINITION. The collective engines' contexts (R352 to R384): homes, units, slots and the arrival log, completion
of chunks, results, twin copies, and failure.
-/
namespace Sys2Proof.Machine

/-! ## Contexts by key -/

/-- The key of a context (R352). -/
def Ctx.is (c : Ctx) (job reg ctx : Nat) : Bool :=
  c.job.toNat == job && c.registrar == (reg == 1) && c.ctx.toNat == ctx

def State.ctx? (s : State) (job reg ctx : Nat) : Option Ctx := s.red.ctxs.find? (fun c => c.is job reg ctx)

def Ctx.same (a b : Ctx) : Bool := a.job == b.job && a.registrar == b.registrar && a.ctx == b.ctx

/-- Put back a changed context. -/
def State.setCtx (s : State) (c : Ctx) : State :=
  { s with red := { s.red with ctxs := s.red.ctxs.map (fun d => if d.same c then c else d) } }

/-- Free a context (R353). -/
def State.freeCtx (s : State) (c : Ctx) : State :=
  { s with red := { s.red with ctxs := s.red.ctxs.filter (fun d => !d.same c) } }

/-! ## Homes (R363, R381) -/

/-- Primary ids of the pairs of a slice, rising (R363). -/
def State.pairsOf (s : State) (job : Nat) : List Nat := (s.plan.members job).filter (fun m => s.primary m == m)

/-- Position of package `id` on an axis of a plan (R363). -/
def State.pos (s : State) (job axis id : Nat) : Nat :=
  if axis = 3 then ((s.pairsOf job).findIdx? (fun m => m == s.primary id)).getD 0
  else s.plan.rel (s.jobEntry job) axis (s.plan.coord id axis)

/-- Range of chunks that package `id` homes at stage `k` (R363): first chunk and number. -/
def State.rangeAt (s : State) (job : Nat) (plan : Block) (elements id : Nat) : Nat → Nat × Nat
  | 0 => (0, chunksOf elements)
  | k + 1 =>
    let (lo, n) := s.rangeAt job plan elements id k
    split lo n (max 1 (pWidth plan (k + 1))) (s.pos job (pAxis plan (k + 1)) id)

/-- The last stage, and the stages of a context: 1 to n, or the one stage of a package-local context, whose range is
every chunk (R361, R363). -/
def Ctx.stages (c : Ctx) : Nat := max 1 (pStages c.plan)

/-- Range homed here at stage `k`. -/
def State.homes (s : State) (c : Ctx) (k : Nat) : Nat × Nat :=
  s.rangeAt c.job.toNat c.plan c.elements s.ownId (if pStages c.plan = 0 then 0 else k)

/-- Chunk `h` is homed here at stage `k` (R364). -/
def State.homed (s : State) (c : Ctx) (k h : Nat) : Bool :=
  let (lo, n) := s.homes c k
  1 ≤ k && k ≤ c.stages && lo ≤ h && h < lo + n

/-- The package with the same place as this one but at position `j` of an axis (R363). -/
def State.onLine (s : State) (job axis j : Nat) : Nat :=
  if axis = 3 then
    let prim := (s.pairsOf job).getD j 0
    if s.primary s.ownId = s.ownId then prim else s.partner prim
  else
    let pl := s.plan
    let at_ (a : Nat) : Nat :=
      if a = axis then (jOrg (s.jobEntry job) a + j) % pl.size a else pl.coord s.ownId a
    pl.idAt (at_ 0) (at_ 1) (at_ 2)

/-- The home of chunk `h` at stage `k`, for the line of this package (R363). -/
def State.homeOf (s : State) (c : Ctx) (k h : Nat) : Nat :=
  if pStages c.plan = 0 then s.ownId
  else
    let (lo, n) := s.rangeAt c.job.toNat c.plan c.elements s.ownId (k - 1)
    s.onLine c.job.toNat (pAxis c.plan k) (splitIndex lo n (max 1 (pWidth c.plan k)) h)

/-- The hub of the partition that homes chunk `h` at stage `k` (R363). -/
def State.hubFor (s : State) (c : Ctx) (k h : Nat) : Nat :=
  let qs := s.quads c.part
  let (lo, n) := s.homes c k
  qs.getD (splitIndex lo n qs.length h) c.part

/-- Length of chunk `h` (R363). -/
def Ctx.len (c : Ctx) (h : Nat) : Nat := min 256 (c.elements - 256 * h)

/-! ## Counters and failure (R377, R389, R390) -/

/-- Hub `h` drops `n` units (R389). -/
def State.lateDrop (s : State) (h : Nat) (n : Nat := 1) : State := s.onHub h (fun b => { b with lateDrop := satAdd b.lateDrop n })
def State.malDrop (s : State) (h : Nat) : State := s.onHub h (fun b => { b with malformed := satAdd b.malformed 1 })

/-- The failure log word of R390. -/
def failWord (c : Ctx) (reason chunk src : Nat) : W64 :=
  BitVec.ofNat 64 (c.job.toNat + c.ctx.toNat * 2 ^ 10 + b2n c.registrar * 2 ^ 22 + reason * 2 ^ 23 + 2 ^ 26 +
    chunk * 2 ^ 27 + src * 2 ^ 51)

/-- A context fails (R377): slots and log space free, unrounded ledgers and held results discarded; counted and, while
the log is free, logged in every hub of its partition (R389, R390). -/
def State.failCtx (s : State) (c : Ctx) (reason : Nat) (chunk src : Nat := 0) : State :=
  if c.st != .open_ then s
  else
    let s := s.setCtx { c with st := .failed, reason := BitVec.ofNat 3 reason, slots := [], log := [], logBytes := 0,
                               held := [], pairs := [], partial_ := [] }
    (s.quads c.part).foldl (fun s h => s.onHub h (fun b =>
      { b with ctxFailed := satAdd b.ctxFailed 1
               failLog := if bit b.failLog 26 then b.failLog else failWord c reason chunk src })) s

/-! ## Slots and the arrival log (R368) -/

/-- Slots that a context uses in hub `h`. -/
def Ctx.used (c : Ctx) (h : Nat) : Nat := (c.slots.filter (fun x => x.hub == h)).length

/-- Chunk slots of hub `h` neither reserved nor in use (R368, R388). -/
def State.freeSlots (s : State) (h : Nat) : Nat :=
  6144 - (s.hub h).scratch -
    ((s.red.ctxs.filter (fun c => (s.quads c.part).contains h)).map
      (fun c => if c.st = .failed then 0 else max (pWindow c.plan) (c.used h))).foldl (· + ·) 0

/-- A new slot is available to context `c` in hub `h` (R368). -/
def State.slotFor (s : State) (c : Ctx) (h : Nat) : Bool := c.used h < pWindow c.plan || 0 < s.freeSlots h

/-- The pieces (address, length) of `n` bytes of an arrival log from offset `o`, which runs on at log_base (R368, log 101). -/
def logPieces (c : Ctx) (o n : Nat) : List (Addr × Nat) :=
  let size := pLogSize c.plan
  [(pLogBase c.plan + o, min n (size - o)), (pLogBase c.plan, n - (size - o))].filter (fun x => x.2 != 0)

/-- Bytes of a packet in an arrival log: header and payload, whole (R368, log 101). -/
def logBytesOf (p : Packet) : List Byte := leBytes (packetHeader p + p.crc.toNat * 2 ^ 224) 32 ++ p.payload

/-- Append a packet to the arrival log in HBM, for hub `h` (R368); an overflow fails the context with LOG_FULL. -/
def State.logUnit (s : State) (c : Ctx) (p : Packet) (at_ rh h : Nat) : State × Bool :=
  let k := 32 + p.payload.length
  if c.logBytes + k ≤ pLogSize c.plan then
    let s := s.onMem (fun m => ((logPieces c c.logAt k).foldl (fun (x : MemSt × List Byte) w =>
      (x.1.write s.mx (ownerLog h) w.1 (x.2.take w.2), x.2.drop w.2)) (m, logBytesOf p)).1)
    (s.setCtx { c with log := c.log ++ [{ pkt := p, at_ := at_, hub := rh }], logBytes := c.logBytes + k
                       logAt := (c.logAt + k) % pLogSize c.plan }, true)
  else (s.failCtx c 4, false)

/-! ## Chunk slots in ledger SRAM (R276, R368, R385) -/

/-- The blocks of slot `place` of hub `h` (R385). -/
def slotBlocks (h place : Nat) : List Nat := span ((ledgerBase + h * ledgerSize + 10240 * place) / 64) 160

/-- A chunk takes a slot, the lowest free one (log 101): 256 ledgers of zero, written whole (R273, R368). -/
def State.newSlot (s : State) (h stage chunk : Nat) : State × Slot :=
  let used := s.red.ctxs.flatMap (fun c => (c.slots.filter (fun x => x.hub == h)).map (fun x => x.place))
  let place := ((List.range (used.length + 1)).find? (fun i => !used.contains i)).getD 0
  (s.onMem (fun m => m.zeroBlocks s.mx ((ledgerBase + h * ledgerSize + 10240 * place) / 64) 160),
   { hub := h, place := place, stage := stage, chunk := chunk })

/-- The hub reads a slot whole: sound, or a block of it is uncorrectable (R276). -/
def State.readSlot (s : State) (x : Slot) : State × Bool :=
  let bs := slotBlocks x.hub x.place
  let m := s.mem.touchAll s.mx bs
  ({ s with mem := m }, m.sound bs)

/-! ## Packet fields (R364, R365) -/

def aCtx (p : Packet) : Nat := fld p.addr 0 12
def aChunk (p : Packet) : Nat := fld p.addr 12 24
def aStage (p : Packet) : Nat := fld p.addr 36 2
def aInner (p : Packet) : Nat := fld p.addr 38 4
def aReg (p : Packet) : Nat := fld p.addr 42 1

/-- The address field of a packet of these kinds (R364). -/
def redAddr (c : Ctx) (chunk stage inner : Nat) : Nat :=
  c.ctx.toNat + chunk * 2 ^ 12 + stage * 2 ^ 36 + inner * 2 ^ 38 + b2n c.registrar * 2 ^ 42

/-- The kind whose payload a packet carries: its own, or the inner kind of a TWIN packet (R382). -/
def unitKind (p : Packet) : Nat := if p.kind = 8 then aInner p else p.kind.toNat

/-- Units of a packet (R368): the values of a CONTRIB packet, else the packet. -/
def unitsOf (p : Packet) : Nat := if unitKind p = 4 then fld p.aux 8 8 + 1 else 1

/-- The addr of a packet of these kinds keeps to its table, whatever its context (R364). -/
def redForm (p : Packet) : Bool :=
  fld p.addr 43 5 == 0 && (if p.kind = 8 then [4, 5, 6].contains (aInner p) else aInner p == 0) &&
  (if p.kind = 7 then aStage p == 0 else aStage p != 3)

/-- FP32 values of a payload. -/
def payWords (bs : List Byte) (n : Nat) : List W32 :=
  (List.range n).map (fun i => BitVec.ofNat 32 (leNat ((bs.drop (4 * i)).take 4)))

/-- Stage at which a packet's data enters, from 1. -/
def unitStage (p : Packet) : Nat := aStage p + 1

/-- The addr, and the aux and payload of a CONTRIB or CONTRIB_TOPK packet, keep to their tables, and the package homes
the chunk (R364, R365, R372). -/
def State.unitOk (s : State) (c : Ctx) (p : Packet) : Bool :=
  let k := unitKind p
  let h := aChunk p
  redForm p && h < chunksOf c.elements && s.homed c (unitStage p) h &&
  (pStages c.plan != 0 || p.srcPkg.toNat == s.ownId) &&
  (match k with
   | 4 => aStage p == 0 && !c.topk && fld p.aux 16 16 == 0 && fld p.aux 8 8 < 128 &&
       fld p.aux 0 8 + fld p.aux 8 8 + 1 ≤ c.len h && 4 * (fld p.aux 8 8 + 1) ≤ p.payload.length
   | 5 =>
     let n := fld p.aux 0 7
     aStage p == 0 && c.topk && fld p.aux 7 25 == 0 && 1 ≤ n && n ≤ 64 && 5 * n ≤ p.payload.length &&
       ((p.payload.drop (4 * n)).take n).all (fun b => b.toNat < c.len h)
   | _ => 1 ≤ aStage p)

/-- The hub that drops a unit of a context: the home of its chunk, or else the one that received it (R364, R389). -/
def State.dropHub (s : State) (c : Ctx) (p : Packet) (rh : Nat) : Nat :=
  if s.homed c (unitStage p) (aChunk p) then s.hubFor c (unitStage p) (aChunk p) else rh

/-- The contributions of a CONTRIB or CONTRIB_TOPK packet, by offset (R365, R372). -/
def unitValues (p : Packet) : List (Nat × W32) :=
  if unitKind p = 5 then
    let n := fld p.aux 0 7
    (((p.payload.drop (4 * n)).take n).map BitVec.toNat).zip (payWords p.payload n)
  else
    let n := fld p.aux 8 8 + 1
    (span (fld p.aux 0 8) n).zip (payWords p.payload n)

/-! ## Completion of a chunk (R359, R369) -/

/-- Hub `h` writes result values at their places (R369); a bus error keeps the context from completing (R354). Whether every byte was
written. -/
def State.writeResults (s : State) (c : Ctx) (h chunk first : Nat) (vals : List W32) : State × Ctx × Bool :=
  let held := ((span (256 * chunk + first) vals.length).zip vals).foldl
    (fun h x => sset none h x.1 (some x.2)) c.held
  let c := { c with held := held }
  if c.result = 0 then (s, c, true)
  else
    let bs := vals.flatMap (fun v => leBytes v.toNat 4)
    let (s, ok) := s.hubWrite c.job.toNat (ownerHub h) (c.result + 4 * (256 * chunk + first)) bs
    (s, if ok then c else { c with stuck := true }, ok)

/-- The RESULT packets of a chunk's values to one member (R365, R369). -/
def State.resultPackets (s : State) (c : Ctx) (dst chunk : Nat) (vals : List W32) : List Packet :=
  (List.range (ceilDiv vals.length 128)).map (fun i =>
    let part := (vals.drop (128 * i)).take 128
    s.newPacket 7 1 c.job.toNat dst 0x1FF 0x1FF (redAddr c chunk 0 0) (128 * i + (part.length - 1) * 256)
      (part.flatMap (fun v => leBytes v.toNat 4)))

/-- The other members of this package's line of stage `t` (R363, R369); in twin mode both twins of every pair. -/
def State.lineOthers (s : State) (c : Ctx) (t : Nat) : List Nat :=
  let job := c.job.toNat
  let line := (List.range (pWidth c.plan t)).map (fun j => s.onLine job (pAxis c.plan t) j)
  let all := if c.twin then line.flatMap (fun m => [min m (s.partner m), max m (s.partner m)]) else line
  all.filter (fun m => m != s.ownId)

/-! ## Twin copies (R382, R383) -/

/-- Bytes of a packet that its copy's digest takes (R383). -/
def usedBytes (p : Packet) : List Byte :=
  if unitKind p = 5 then p.payload.take (5 * fld p.aux 0 7) else p.payload.take (4 * (fld p.aux 8 8 + 1))

/-- One more packet of a copy: its digest and its count of units. -/
def TwinPair.note (t : TwinPair) (relayed : Bool) (p : Packet) (n expect : Nat) : TwinPair :=
  if relayed then
    { t with relayed := crc64 t.relayed (usedBytes p), nRelayed := t.nRelayed + n,
             doneRelayed := t.nRelayed + n == expect }
  else
    { t with direct := crc64 t.direct (usedBytes p), nDirect := t.nDirect + n,
             doneDirect := t.nDirect + n == expect }

/-- Replace the record of a (chunk, pair) of a context. -/
def Ctx.setPair (c : Ctx) (chunk pair : Nat) (t : TwinPair) : Ctx :=
  { c with pairs := (c.pairs.filter (fun x => !(x.1 == chunk && x.2.1 == pair))) ++ [(chunk, pair, t)] }

/-- The record of a (chunk, pair) of a context, empty before its first unit. -/
def Ctx.pairOf (c : Ctx) (chunk pair : Nat) (relayed : Bool) : TwinPair :=
  (c.pairs.find? (fun x => x.1 == chunk && x.2.1 == pair)).elim
    { pair := pair, tookRelay := relayed, direct := 0, relayed := 0, nDirect := 0, nRelayed := 0,
      doneDirect := false, doneRelayed := false, compared := false } (fun x => x.2.2)

/-- The number that stands for the copies of a chunk's results, beyond every package id (R383). -/
def resultPair : Nat := 8192

/-- The pair that is the final home of a chunk in twin mode (R362, R363). -/
def State.homePair (s : State) (c : Ctx) (chunk : Nat) : Nat :=
  (s.pairsOf c.job.toNat).getD (splitIndex 0 (chunksOf c.elements) (max 1 (pWidth c.plan 1)) chunk) 0

/-- A RESULT packet of a chunk is noted (R369, R382, R383): the copy whose first packet lands first is the one taken, and in twin mode
each copy is digested. A copy whose source `lost` names is taken over by the other, from the packet where it stopped (R476, log 28). The
Boolean: this packet belongs to the copy taken. -/
def Ctx.noteResult (c : Ctx) (lost : Nat → Bool) (p : Packet) : Ctx × Bool :=
  let chunk := aChunk p
  let n := fld p.aux 8 8 + 1
  let src := p.srcPkg.toNat
  let (count, from_) := (c.partial_.find? (fun x => x.1 == chunk)).elim (0, src) (fun x => x.2)
  let t := c.pairOf chunk resultPair false
  let takes := c.twin && src != from_ && lost from_ && decide (count ≤ t.nRelayed)
  let taken := src == from_ || takes
  let c := if c.twin then c.setPair chunk resultPair (t.note (src != from_) p n (c.len chunk)) else c
  ({ c with partial_ := (chunk, if taken then count + n else count, if takes then src else from_) ::
              c.partial_.filter (fun x => x.1 != chunk) }, taken)

/-- Hub `h` compares the digests once both copies are complete (R383): a mismatch fails the context with SDC. -/
def State.compareTwins (s : State) (job reg ctx chunk pair h : Nat) : State :=
  match s.ctx? job reg ctx with
  | none => s
  | some c =>
    match c.pairs.find? (fun x => x.1 == chunk && x.2.1 == pair) with
    | none => s
    | some (_, _, t) =>
      if t.doneDirect && t.doneRelayed && !t.compared then
        if t.direct = t.relayed then s.setCtx (c.setPair chunk pair { t with compared := true })
        else (s.onHub h (fun b => { b with sdcAlarms := satAdd b.sdcAlarms 1 })).failCtx c 3 chunk
          (if pair = resultPair then s.homePair c chunk else pair)
      else s

/-- The final home rounds a chunk, once, and sends its results on (R359, R369). In twin mode its own values are one of the two copies
that it receives (R382). -/
def State.finalChunk (s : State) (c : Ctx) (chunk : Nat) (sums : Sparse Ledger) : State :=
  let (vals, fl) := (mapF Ledger.round ((List.range (c.len chunk)).map (fun i => sget {} sums i))).run 0
  let h := s.hubFor c c.stages chunk
  let c := { c with bad := c.bad + (vals.filter nonFinite).length, flags := c.flags ||| fl,
                    gotResults := if c.gotResults.contains chunk then c.gotResults else c.gotResults ++ [chunk] }
  let (s, c, _) := s.writeResults c h chunk 0 vals
  let c := if c.twin && pAll c.plan then (s.resultPackets c s.ownId chunk vals).foldl (fun c p => (c.noteResult (fun _ => false) p).1) c else c
  let s := (s.setCtx c).compareTwins c.job.toNat (b2n c.registrar) c.ctx.toNat chunk resultPair h
  if pAll c.plan then
    ((List.range (pStages c.plan)).reverse.flatMap (fun t => s.lineOthers c (t + 1))).foldl
      (fun s m => s.injectAll (s.resultPackets c m chunk vals)) s
  else s

/-- A complete chunk (R369): its slot is freed, and it is forwarded as a fragment, here to the next stage's own slot by
`again`, or rounded at its final home. -/
def State.finishChunk (s : State) (again : State → Packet → State) (c : Ctx) (stage chunk : Nat) (sums : Sparse Ledger) :
    State :=
  let c := { c with slots := c.slots.filter (fun x => !(x.stage == stage && x.chunk == chunk)),
                    doneChunks := c.doneChunks ++ [(stage, chunk)] }
  let s := s.setCtx c
  if stage < c.stages then
    let dst := s.homeOf c (stage + 1) chunk
    (fragPackets sums).foldl (fun s x =>
      let p := s.newPacket 6 0 c.job.toNat dst 0x1FF 0x1FF (redAddr c chunk stage 0) x.1 x.2
      if dst = s.ownId then again s p else s.inject p) s
  else s.finalChunk c chunk sums

/-- Put a slot into a context, new or changed. -/
def Ctx.setSlot (c : Ctx) (x : Slot) : Ctx :=
  { c with slots := c.slots.filter (fun y => !(y.stage == x.stage && y.chunk == x.chunk)) ++ [x] }

/-- A chunk whose units are all there is finished, unless a block of its slot is uncorrectable: it then never completes (R276, R465). -/
def State.endSlot (s : State) (again : State → Packet → State) (c : Ctx) (x : Slot) : State :=
  let (s, ok) := s.readSlot x
  if ok then s.finishChunk again c x.stage x.chunk x.sums else s.setCtx (c.setSlot { x with dead := true })

/-- Units that complete a chunk at stage 1 (R369). -/
def Ctx.need (c : Ctx) (chunk : Nat) : Nat :=
  let w := if pStages c.plan = 0 then 1 else pWidth c.plan 1
  if c.topk then w * pContrib c.plan else w * pContrib c.plan * c.len chunk

/-- Add the contributions of a unit packet to a slot's ledgers (R356). -/
def addValues (sums : Sparse Ledger) (vs : List (Nat × W32)) : Sparse Ledger :=
  vs.foldl (fun m x => sset {} m x.1 ((sget {} m x.1).add x.2)) sums

/-- Add a fragment's ledgers (R357). -/
def addLedgers (sums : Sparse Ledger) (es : List (Nat × Ledger)) : Sparse Ledger :=
  es.foldl (fun m x => sset {} m x.1 ((sget {} m x.1).join x.2)) sums

/-- Take a unit packet of a context that holds an entry (R353, R364 to R369, R375), received by hub `rh` and landed at `at_` ns: added,
logged, or dropped. The Boolean says that it was added or logged. `retake`: it comes out of the log. What comes for a chunk whose slot
was found bad is taken and changes nothing (log 101). -/
def State.takeUnit : Nat → Bool → Nat → State → Packet → Nat → State × Bool
  | 0, _, _, s, _, _ => (s, false)
  | fuel + 1, retake, rh, s, p, at_ =>
    match s.ctx? p.job.toNat (aReg p) (aCtx p) with
    | none => (s, false)
    | some c =>
      let stage := unitStage p
      let chunk := aChunk p
      if c.st != .open_ then (s.lateDrop (s.dropHub c p rh) (unitsOf p), false)
      else if !s.unitOk c p then (s.malDrop rh, false)
      else
        let h := s.hubFor c stage chunk
        if c.deadline ≤ at_ then (s.lateDrop h (unitsOf p), false)
        else if c.doneChunks.contains (stage, chunk) then (s.failCtx c 6, false)
        else
          let old := c.slots.find? (fun x => x.stage == stage && x.chunk == chunk)
          let behind := !retake && c.log.any (fun u => unitStage u.pkt == stage && aChunk u.pkt == chunk)
          if c.spilled || behind || (old.isNone && !s.slotFor c h) then s.logUnit c p at_ rh h
          else if old.any (fun x => x.dead) then (s, true)
          else
            let (s, slot) := old.elim (s.newSlot h stage chunk) (fun x => (s, x))
            let again := fun (s : State) (q : Packet) => (State.takeUnit fuel false h s q at_).1
            if unitKind p = 6 then
              let src := p.srcPkg.toNat
              match readFragment (slot.group.lookup src) p.aux p.payload with
              | none => ((s.malDrop h).failCtx c 5, false)
              | some r =>
                if r.elems.any (fun e => c.len chunk ≤ e.1) then ((s.malDrop h).failCtx c 5, false)
                else if slot.lasts.contains src then (s.failCtx c 6, false)
                else
                  let slot := { slot with
                    sums := addLedgers slot.sums r.elems
                    lasts := if r.last then slot.lasts ++ [src] else slot.lasts
                    group := match r.group with
                      | none => slot.group
                      | some g => (src, g) :: slot.group.filter (fun x => x.1 != src) }
                  let c := c.setSlot slot
                  let s := s.setCtx c
                  (if slot.lasts.length = pWidth c.plan stage then s.endSlot again c slot else s, true)
            else
              let vs := unitValues p
              let slot := { slot with sums := addValues slot.sums vs
                                      units := slot.units + (if c.topk then 1 else vs.length) }
              if c.need chunk < slot.units then (s.failCtx c 6, false)
              else
                let c := c.setSlot slot
                let s := s.setCtx c
                (if slot.units = c.need chunk then s.endSlot again c slot else s, true)

/-! ## Units of a twin-mode context (R382) -/

/-- A unit packet of a twin-mode context (R382): forwarded to the partner when it came directly, added when it belongs
to the copy whose first unit landed first, and digested. A copy whose source is lost is taken over by the other, from
the unit where it stopped (R476, log 28). -/
def State.twinUnit (s : State) (rh : Nat) (c : Ctx) (p : Packet) (at_ : Nat) : State × Bool :=
  if c.st != .open_ then (s.lateDrop (s.dropHub c p rh) (unitsOf p), false)
  else if !s.unitOk c p then (s.malDrop rh, false)
  else if c.deadline ≤ at_ then (s.lateDrop (s.dropHub c p rh) (unitsOf p), false)
  else
    let job := c.job.toNat
    let relayed := p.kind == 8
    let chunk := aChunk p
    let src := p.srcPkg.toNat
    let pair := s.primary src
    let n := if c.topk then 1 else (unitValues p).length
    let expect := pContrib c.plan * (if c.topk then 1 else c.len chunk)
    let partner := s.partner s.ownId
    let s := if relayed || s.noticed job partner then s
      else s.inject { p with kind := 8, vclass := 0, dstPkg := BitVec.ofNat 13 partner, srcCluster := 0x1FF,
                             dstCluster := 0x1FF, epoch := jEpoch (s.jobEntry job), stamp := s.stamp,
                             addr := BitVec.ofNat 48 (redAddr c chunk 0 (unitKind p)) }
    let t := c.pairOf chunk pair relayed
    let taken := t.tookRelay == relayed
    let lostSrc := s.noticed job (if t.tookRelay then s.partner s.ownId else s.ownId) ||
      s.noticed job (s.partner src)
    let mine := if relayed then t.nRelayed else t.nDirect
    let theirs := if relayed then t.nDirect else t.nRelayed
    let above := !taken && lostSrc && theirs ≤ mine
    let t := (if above then { t with tookRelay := relayed } else t).note relayed p n expect
    let s := s.setCtx (c.setPair chunk pair t)
    let (s, ok) := if taken || above then State.takeUnit 4 false rh s p at_ else (s, true)
    (s.compareTwins job (aReg p) (aCtx p) chunk pair (s.hubFor c 1 chunk), ok)

/-! ## Results received (R369, R382) -/

/-- The stage on whose line the sender of a result stands (R369). -/
def State.lineOf (s : State) (c : Ctx) (src : Nat) : Nat :=
  ((List.range (pStages c.plan)).find? (fun t =>
    let a := pAxis c.plan (t + 1)
    a == 3 || s.plan.coord src a != s.plan.coord s.ownId a)).getD 0 + 1

/-- The flags that the home set when it rounded the values of a RESULT packet (R359): a NaN by one of two, an infinity by an overflow or
by none (log 100). -/
def resultFlags (draw : Nat) (vals : List W32) : Flags :=
  (vals.mapIdx (fun i v => (i, v))).foldl (fun f x =>
    if !nonFinite x.2 then f
    else if fld x.2 0 23 != 0 then f ||| (if Config.roundedBy draw x.1 then fNanIn else fNanProd)
    else if Config.roundedBy draw x.1 then f ||| fOverInf else f) 0

/-- A RESULT packet of a context, received by hub `rh` (R364, R369): written, passed on down the stage lines; in twin mode the second copy
is digested only (R382, R383). A bus error of its write is counted (R318). -/
def State.takeResult (s : State) (rh : Nat) (c : Ctx) (p : Packet) (at_ : Nat) : State :=
  let chunk := aChunk p
  let first := fld p.aux 0 8
  let n := fld p.aux 8 8 + 1
  let src := p.srcPkg.toNat
  let job := c.job.toNat
  let ok := redForm p && fld p.addr 36 6 == 0 && pAll c.plan && pStages c.plan != 0 && chunk < chunksOf c.elements &&
    fld p.aux 16 16 == 0 && n ≤ 128 && first + n ≤ c.len chunk && 4 * n ≤ p.payload.length
  if c.st != .open_ || c.deadline ≤ at_ then s.lateDrop rh
  else if !ok then s.malDrop rh
  else
    let (c, taken) := c.noteResult (s.noticed job) p
    if !taken then (s.setCtx c).compareTwins job (aReg p) (aCtx p) chunk resultPair rh
    else
      let vals := payWords p.payload n
      let count := (c.partial_.find? (fun x => x.1 == chunk)).elim 0 (fun x => x.2.1)
      let c := { c with
        flags := c.flags ||| resultFlags s.fresh vals
        gotResults := if count = c.len chunk && !c.gotResults.contains chunk then c.gotResults ++ [chunk] else c.gotResults }
      let (s, c, written) := s.draw.writeResults c rh chunk first vals
      let s := (if written then s else s.drop rh .land).setCtx c
      let s := if c.twin then s
        else ((List.range (s.lineOf c src - 1)).reverse.flatMap (fun t => s.lineOthers c (t + 1))).foldl
          (fun s m => s.inject (s.newPacket 7 1 job m 0x1FF 0x1FF (redAddr c chunk 0 0) p.aux.toNat (p.payload.take (4 * n)))) s
      s.compareTwins job (aReg p) (aCtx p) chunk resultPair rh

/-! ## Completion of a context (R354) -/

/-- Chunks homed here over all stages. -/
def State.homedCount (s : State) (c : Ctx) : Nat :=
  ((List.range c.stages).map (fun k => (s.homes c (k + 1)).2)).foldl (· + ·) 0

/-- The comparisons of R383 have been made: for every source pair, and with result_all for every chunk's results (R354). One with a copy
whose source twin, or whose forwarding partner, is under notice is not awaited. -/
def State.twinsDone (s : State) (c : Ctx) : Bool :=
  let job := c.job.toNat
  let lost (m : Nat) : Bool := s.noticed job m || s.noticed job (s.partner m)
  !c.twin ||
  ((s.pairsOf job).all (fun m => lost m || s.noticed job (s.partner s.ownId) ||
      (c.pairs.filter (fun x => x.2.1 == m && x.2.2.compared)).length == (s.homes c 1).2) &&
   (!pAll c.plan || (List.range (chunksOf c.elements)).all (fun h => lost (s.homePair c h) ||
      c.pairs.any (fun x => x.1 == h && x.2.1 == resultPair && x.2.2.compared))))

/-- The conditions of COMPLETE (R354). -/
def State.ctxDone (s : State) (c : Ctx) : Bool :=
  c.st == .open_ && c.doneChunks.length == s.homedCount c && !c.stuck &&
  (!pAll c.plan || c.gotResults.length == chunksOf c.elements) && s.twinsDone c

/-- Every context whose conditions hold becomes COMPLETE (R353, R354). -/
def State.completeCtxs (s : State) : State :=
  { s with red := { s.red with ctxs := s.red.ctxs.map (fun c =>
    if s.ctxDone c then { c with st := .complete } else c) } }

/-! ## Packets of the collective engine -/

/-- The hub whose buffer keeps a unit that meets no entry (R370): one of the job's partition; without the plan, nothing says which one
homes its chunk (log 27). -/
def State.preHub (s : State) (p : Packet) : Nat :=
  match (s.jobPart p.job.toNat).elim [0] s.quads with
  | [h] => h
  | qs => qs.getD (Config.preopenHub s.fresh % qs.length) 0

/-- Keep a unit that meets no entry, or drop it at a full buffer (R370). -/
def State.preopenUnit (s : State) (rh : Nat) (p : Packet) (at_ : Nat) : State :=
  let h := s.preHub p
  if 2048 ≤ (s.hub h).preopen.length then s.draw.lateDrop h (unitsOf p)
  else s.draw.onHub h (fun b => { b with preopen := b.preopen ++ [{ pkt := p, at_ := at_, hub := rh }] })

/-- A packet of kinds CONTRIB to TWIN, received by hub `rh` (R353, R364 to R370, R382). The Boolean: it has landed (R206). -/
def State.redPacket (s : State) (rh : Nat) (p : Packet) (at_ : Nat) : State × Bool :=
  match s.ctx? p.job.toNat (aReg p) (aCtx p) with
  | none => (if redForm p then s.preopenUnit rh p at_ else s.malDrop rh, false)
  | some c =>
    if p.kind = 7 then (s.takeResult rh c p at_, true)
    else if c.twin then s.twinUnit rh c p at_
    else if p.kind = 8 then (s.malDrop rh, false)
    else State.takeUnit 4 false rh s p at_

/-- A packet at its home, with the landed count of its stream (R206) and what it completes. -/
def State.redLand (s : State) (rh : Nat) (p : Packet) (at_ : Nat) : State :=
  let (s, ok) := s.redPacket rh p at_
  (if ok then s.landed p else s).completeCtxs

/-- The hubs add the units that waited for a context just opened (R370). -/
def State.drainPreopen (s : State) (c : Ctx) : State :=
  let mine (u : Unit_) : Bool := c.is u.pkt.job.toNat (aReg u.pkt) (aCtx u.pkt)
  let us := (s.quads c.part).flatMap (fun h => (s.hub h).preopen.filter mine)
  let s := (s.quads c.part).foldl (fun s h => s.onHub h (fun b => { b with preopen := b.preopen.filter (fun u => !mine u) })) s
  us.foldl (fun s u => s.redLand u.hub u.pkt u.at_) s

/-- The first logged unit that a slot of hub `h` can take back (R368, R384), in the order in which they were logged. -/
def State.retakable (s : State) (h : Nat) : Option (Ctx × Unit_) :=
  s.red.ctxs.findSome? (fun c =>
    if c.spilled || c.st != .open_ then none
    else match c.log with
      | [] => none
      | u :: _ =>
        let k := unitStage u.pkt
        let here := s.hubFor c k (aChunk u.pkt) == h
        let slot := c.slots.any (fun x => x.stage == k && x.chunk == aChunk u.pkt) || s.slotFor c h
        if here && slot then some (c, u) else none)

/-- A unit whose log bytes cannot be read never reaches its chunk, which never completes (R276, R465): its slot is bad. -/
def State.loseUnit (s : State) (c : Ctx) (h : Nat) (u : Unit_) : State :=
  let old := c.slots.find? (fun x => x.stage == unitStage u.pkt && x.chunk == aChunk u.pkt)
  let (s, x) := old.elim (s.newSlot h (unitStage u.pkt) (aChunk u.pkt)) (fun x => (s, x))
  s.setCtx (c.setSlot { x with dead := true })

/-- Take back one logged unit (R368): it is read from HBM, and added. -/
def State.retake (s : State) (h : Nat) : State :=
  match s.retakable h with
  | none => s
  | some (c, u) =>
    let n := 32 + u.pkt.payload.length
    let size := pLogSize c.plan
    let c := { c with log := c.log.tail, logBytes := c.logBytes - n }
    let (s, ok) := (logPieces c ((c.logAt + size - (c.logBytes + n)) % size) n).foldl (fun (x : State × Bool) w =>
      let (s, r) := x.1.read w.1 w.2
      (s, x.2 && r.isSome)) (s.setCtx c, true)
    if ok then ((State.takeUnit 4 true u.hub s u.pkt u.at_).1).completeCtxs else s.loseUnit c h u

/-- A notice for a member of a job's slice (R378): outside twin mode every open context of the job fails; in twin mode
only when both twins of a pair are under notice. -/
def State.failNoticed (s : State) (job : Nat) : State :=
  let both := (s.pairsOf job).any (fun m => s.noticed job m && s.noticed job (s.partner m))
  if jTwin (s.jobEntry job) && !both then s.completeCtxs
  else (s.red.ctxs.filter (fun c => c.job.toNat == job)).foldl (fun s c => s.failCtx c 2) s

end Sys2Proof.Machine
end

