-- ==== Sys2Proof/Machine/Records.lean ====
section
/-!
DEFINITION. The rings and completion records (R213 to R221, R224), the end of a task (R204, R209, R222, R344), and
the halt of a task (R197).
-/
namespace Sys2Proof.Machine

/-! ## Rings (R213, R214) -/

def ringLog2 (v : W64) : Nat := fld v 0 5
def ringBase (v : W64) : Addr := fld v 12 36 * 4096
def ringEntries (v : W64) : Nat := 2 ^ ringLog2 v

/-- A ring register enables its ring: enable 1 and a size of R213. -/
def ringEnabled (v : W64) : Bool := bit v 5 && 4 ≤ ringLog2 v && ringLog2 v ≤ 16

/-- A ring register in force (R213): a write of enable 0 takes effect at the beat boundary it waits for. -/
def ringNow (v next : W64) (off : Option Nat) (beat : Nat) : W64 := if off.all (fun b => beat < b) then v else next

/-- PART_CQ and PART_SUBQ in force. -/
def State.cqNow (s : State) (p : Nat) : W64 := ringNow (s.prt p).cq (s.prt p).cqNext (s.prt p).cqOff s.beat
def State.subqNow (s : State) (p : Nat) : W64 := ringNow (s.prt p).subq (s.prt p).subqNext (s.prt p).subqOff s.beat

def State.cqOn (s : State) (p : Nat) : Bool := ringEnabled (s.cqNow p)
def State.subqOn (s : State) (p : Nat) : Bool := ringEnabled (s.subqNow p)

/-- [a, a + n) is HBM of the partition or the carve-out (R213, R61). -/
def State.ringRange (s : State) (p a n : Nat) : Bool :=
  s.inHbm p a n || inside a n s.carve.1 s.carveBytes

/-- The Registrar reads a number from a ring; none on ADDR_FAULT or a bus error (R221, R277). -/
def State.ringRead (s : State) (p a n : Nat) : State × Option Nat :=
  if s.ringRange p a n then
    let (s, r) := s.read a n
    (s, r.map leNat)
  else (s, none)

/-- The Registrar writes to a ring; false on ADDR_FAULT or a bus error (R221). -/
def State.ringWrite (s : State) (p a : Nat) (bs : List Byte) : State × Bool :=
  if s.ringRange p a bs.length then s.writeAck ownerReg a bs else (s, false)

/-- A ring fault (R215, R221): both rings of the partition are disabled at once, and ring_error is set. -/
def State.ringFault (s : State) (p : Nat) : State :=
  (s.onPart p (fun t => { t with subq := clearBit t.subq 5, cq := clearBit t.cq 5 })).event (2 ^ (1 + p))

/-- Producer index of the completion ring, and consumer index (R214). -/
def State.cqIndex (s : State) (p : Nat) : State × Option (Nat × Nat) :=
  let base := ringBase (s.cqNow p)
  match s.ringRead p base 16 with
  | (s, none) => (s, none)
  | (s, some v) => (s, some (nfld v 0 64, nfld v 64 64))

/-! ## Records (R220, R221) -/

/-- The fields of a completion record (R220). -/
structure Record where
  task     : W64
  kind     : Nat
  code     : BitVec 16 := 0
  time     : Nat
  cluster  : Nat := 0x1FF
  cmdAddr  : Addr := 0
  flags    : BitVec 16 := 0
  imb      : Nat := 0
  imbAt    : Nat × Nat := (0, 0)
  imbValue : W32 := 0
  step     : W64 := 0
  stale    : Nat := 0

/-- A record as its 64 bytes (R220). -/
def Record.bytes (r : Record) : List Byte :=
  leBytes (r.task.toNat + r.kind * 2 ^ 64 + r.code.toNat * 2 ^ 72 + r.time % 2 ^ 64 * 2 ^ 96 +
    r.cluster % 512 * 2 ^ 160 + r.cmdAddr % 2 ^ 48 * 2 ^ 176 + r.flags.toNat * 2 ^ 224 + sat 16 r.imb * 2 ^ 240 +
    r.imbAt.1 * 2 ^ 256 + r.imbAt.2 * 2 ^ 265 + r.imbValue.toNat * 2 ^ 272 + r.step.toNat * 2 ^ 304 +
    sat 8 r.stale * 2 ^ 368) 64

/-- Write a record, advance the producer index, and send the interrupt if asked (R221); a fault loses the record and
disables the rings. -/
def State.putRecord (s : State) (p : Nat) (r : Record) (msi : Option Nat) : State :=
  match s.cqIndex p with
  | (s, none) => s.ringFault p
  | (s, some (prod, _)) =>
    let v := s.cqNow p
    let base := ringBase v
    match s.ringWrite p (base + 64 + 64 * (prod % ringEntries v)) r.bytes with
    | (s, false) => s.ringFault p
    | (s, true) =>
      match s.ringWrite p base (leBytes ((prod + 1) % 2 ^ 64) 8) with
      | (s, false) => s.ringFault p
      | (s, true) => match msi with
        | some n => s.msi n
        | none => s

/-- A record of a task, if the completion ring is in use; a record that falls due while it is not is lost (R221). -/
def State.record (s : State) (p : Nat) (r : Record) (msi : Option Nat) : State :=
  if s.cqOn p then s.putRecord p r msi else s

/-- A task has been accepted and has not ended (R337, R339, R344). -/
def Task.accepted (t : Task) : Bool := t.st != .read

/-! ## The power reservation (R344) -/

/-- Reservation in W (R344): 600, and for each partition the largest guar_power_w of the programs that have an accepted
guaranteed task. -/
def State.reservation (s : State) : Nat :=
  600 + ((List.range 4).map (fun p => ((s.prt p).tasks.filter (fun t => t.accepted && tdGuar t.desc)).foldl
    (fun m t => max m (t.image.elim 0 (fun i => i.guarPower))) 0)).foldl (· + ·) 0

/-- The cap in force follows the cap asked for and the reservation (R344). -/
def State.settleCap (s : State) : State :=
  let e := max s.power.capW s.reservation
  { s with power := { s.power with capEff := e, capHeld := s.power.capW < e } }

/-! ## The end of a task -/

/-- Put a (cluster, clasp) pair into a list in increasing order. -/
def insertPair (x : Nat × Nat) : List (Nat × Nat) → List (Nat × Nat)
  | [] => [x]
  | y :: t => if x.1 < y.1 || (x.1 == y.1 && x.2 ≤ y.2) then x :: y :: t else y :: insertPair x t

/-- Clasp `i` of cluster `c` as the program of slot `k` holds it: in its spill area while it is suspended (R333). -/
def State.progClasp (s : State) (p k c i : Nat) : W32 :=
  match ((s.prt p).prog k).spilled.find? (fun z => z.cluster == c) with
  | some z => z.ctx.clasp i
  | none => (s.cl c).clasp i

/-- Declared clasps found non-zero, in increasing (cluster, clasp) order (R204). -/
def State.imbalance (s : State) (p k : Nat) (i : Image) : List (Nat × Nat) :=
  (i.clasps.filter (fun x => s.progClasp p k x.1 x.2 != 0)).foldr insertPair []

/-- Write 0 to every declared clasp (R204). -/
def State.zeroClasps (s : State) (i : Image) : State :=
  i.clasps.foldl (fun s x => s.onCl x.1 (fun k => k.setClasp x.2 0)) s

/-- A held signal is for the program of slot `k` of partition `p` (R209, R335). -/
def State.signalFor (s : State) (p k : Nat) (x : HeldSignal) : Bool :=
  let c := x.stream.dstCl.toNat
  s.clPart c == p && s.slotOfJob c x.job.toNat == k

/-- Held signals of a task's streams (R209). -/
def State.staleSignals (s : State) (p k : Nat) : Nat :=
  ((s.quads p).map (fun h => ((s.hub h).heldSignals.filter (s.signalFor p k)).length)).foldl (· + ·) 0

/-- The hubs discard a task's stream entries and held signals (R209). -/
def State.dropStreams (s : State) (p k : Nat) : State :=
  (s.quads p).foldl (fun t h => t.onHub h (fun b => { b with
    outStreams := b.outStreams.filter (fun e => e.prog != k)
    inStreams := b.inStreams.filter (fun e => e.prog != k)
    heldSignals := b.heldSignals.filter (fun x => !s.signalFor p k x) })) s

/-- Contexts of a program slot of a partition. -/
def State.ctxsOf (s : State) (p prog : Nat) : List Ctx := s.red.ctxs.filter (fun c => c.part == p && c.prog == prog)

/-- What is left of a task's clusters when it ends: nothing runs, the accumulators are invalid (R121), forwarded
commands are gone, and the cluster waits for the next task. -/
def Cluster.released (k : Cluster) : Cluster :=
  { k with cur := { k.cur with mode := .idle, prefetch := [], current := none, stack := [] }
           waiters := [], granted := [], halt := none, mxq := [], vxq := [], cxq := []
           acc0 := { k.acc0 with valid := false }, acc1 := { k.acc1 with valid := false } }

/-- Step number of the last step that a task under step control has closed (R220). -/
def Part.lastClosed (p : Part) (t : Task) : W64 :=
  if tdStep t.desc && t.started then (p.prog (tdSlot t.desc)).srec.closed else 0

/-- End a task (R222): clasps read, reported and zeroed (R204), streams and held signals discarded (R209), contexts
freed (R353), bindings dropped, the reservation settled (R344), and the
final record written. What a suspended task has spilled goes with it: its program is activated anew by its next task (R333). -/
def State.endTask (s : State) (p : Nat) (t : Task) (r : Record) : State :=
  let cs := t.clusters
  let prog := tdSlot t.desc
  let bad := t.image.elim [] (s.imbalance p prog)
  let stale := s.staleSignals p prog
  let first := bad.head?.getD (0, 0)
  let value := if bad.isEmpty then 0 else s.progClasp p prog first.1 first.2
  let step := (s.prt p).lastClosed t
  let away := !((s.prt p).prog prog).spilled.isEmpty
  let s := s.dropStreams p prog
  let s := if away then s.onPart p (fun q => q.onProg prog (fun g => { g with spilled := [], active := false }))
    else t.image.elim s s.zeroClasps
  let s := (s.ctxsOf p prog).foldl State.freeCtx s
  let s := { s with red := { s.red with bindings := s.red.bindings.filter (fun b => !(b.part == p && b.prog == prog)) } }
  let s := cs.foldl (fun s c => s.onCl c (fun k =>
    let k := { k with hubq := k.hubq.filter (fun h => h.prog != prog) }
    if k.prog = prog then k.released else k)) s
  let s := s.onPart p (fun q => { q with tasks := q.tasks.filter (fun u => u.index != t.index) })
  let s := s.settleCap
  s.record p { r with imb := bad.length, imbAt := first, imbValue := value, step := step, stale := stale } (tdMsi t.desc)

/-- DONE (R222). -/
def State.taskDone (s : State) (p : Nat) (t : Task) : State :=
  s.endTask p t { task := tdTask t.desc, kind := 2, time := s.now }

/-- HALTED (R197, R220): the first cluster to report and its command. -/
def State.taskHalted (s : State) (p : Nat) (t : Task) (c : Nat) (h : HaltInfo) : State :=
  s.endTask p t { task := tdTask t.desc, kind := 3, code := h.code, time := s.now, cluster := c,
                  cmdAddr := h.cmdAddr, flags := BitVec.ofNat 16 h.flags.toNat }

/-- A cluster of the task runs its folio while its Curator restarts: a halt from the Registrar waits for the restart (R435). -/
def State.haltWaits (s : State) (t : Task) (c : Nat) : Bool :=
  (s.cl c).prog == tdSlot t.desc && (s.cl c).halt.isNone && (sget {} s.stw.curators c).st == .restarting

/-- Every cluster of the task that has not halted halts by R196 (R197, R504), one whose Curator restarts apart (R435). -/
def State.haltAll (s : State) (t : Task) (h : HaltInfo) : State :=
  (t.clusters.filter (fun k => (s.cl k).prog == tdSlot t.desc && !s.haltWaits t k)).foldl
    (fun s k => s.haltCluster k h.code h.cmdAddr h.flags) s

/-- The Registrar runs (R434, R435). -/
def State.regOn (s : State) : Bool := s.stw.registrar.st == .running && !s.dark

/-- A forwarded command of a task is still outstanding (R196), or a halt waits for a Curator (R435). -/
def State.owes (s : State) (t : Task) : Bool :=
  t.clusters.any (fun c => (s.cl c).hubq.any (fun h => h.prog == tdSlot t.desc) || s.haltWaits t c)

/-- A halted task of partition `p` whose forwarded commands have all completed ends (R196, R197). -/
def State.reap (s : State) (p : Nat) : State :=
  match (s.prt p).tasks.find? (fun t => t.st == .reported && !s.owes t) with
  | some t => match t.halt with
    | some (c, h) => if s.regOn then s.taskHalted p t c.toNat h else s
    | none => s
  | none => s

/-- The task and the halt that cluster `c` has to report: of the task whose context it holds, or of a task already
marked halted that names it first (R335, R503). -/
def State.haltOf (s : State) (c : Nat) : Option (Task × HaltInfo) :=
  match (s.cl c).halt, s.taskOf c with
  | some h, some t => some (t, h)
  | _, _ =>
    (s.prt (s.clPart c)).tasks.findSome? (fun t =>
      if t.st == .halted || t.st == .reported then t.halt.bind (fun x => if x.1.toNat = c then some (t, x.2) else none) else none)

/-! ## The frame -/

/-- What a step that can end tasks changes. -/
def State.taskFrame (s t : State) : State :=
  { s with mem := t.mem, clusters := t.clusters, time := t.time, fresh := t.fresh, panel := t.panel,
           parts := t.parts, red := t.red, fabric := t.fabric, host := t.host, power := t.power,
           stw := { s.stw with events := t.stw.events }
           reset_ := { s.reset_ with fcBeyond := t.reset_.fcBeyond, rsAsked := t.reset_.rsAsked } }

end Sys2Proof.Machine
end

