-- ==== Sys2Proof/Machine/Curator.lean ====
section
/-!
DEFINITION. The Curator (R187 to R196, R254 to R256): fetch, dispatch with the header check, the control commands,
and the end of a cluster's part.
-/
namespace Sys2Proof.Machine

/-! ## Fetch (R190, R191) -/

/-- The firmware processor of a cluster runs (R434, R435). -/
def State.curatorOn (s : State) (c : Nat) : Bool := (sget {} s.stw.curators c).st == .running

/-- The Curator of cluster `c` may act: it runs, the cluster is not parked and its quadrant is not in reset. -/
def State.mayRun (s : State) (c : Nat) : Bool :=
  s.curatorOn c && !(s.cl c).parked && !s.inReset (clusterQuad c) && s.slotMapped (clusterSlot c)

/-- A folio command may lie at `a` (R190): HBM of the task's partition outside the carve-out, or the cluster's own
carrel. -/
def State.folioAt (s : State) (c a : Nat) : Bool :=
  (s.inHbm (s.clPart c) a 64 && s.offCarve a 64) || inside a 64 (carrelAt c 0) carrelSize

/-- A command that ends what may be fetched ahead: CALL and END change the address of the next fetch (R190). -/
def turnsFetch (q : QCmd) : Bool := hOpcode q.cmd == 0xC3 || hOpcode q.cmd == 0xC5

/-- The Curator goes on fetching: its folio runs, fewer than 64 commands are ahead, and none of them turns the
fetch. -/
def Curator.fetches (k : Curator) : Bool :=
  (match k.mode with
   | .running => true
   | .stopWait => true
   | .stopFence _ => true
   | .stopTime _ => true
   | _ => false) &&
  k.prefetch.length < 64 && !k.prefetch.any turnsFetch && !k.current.any turnsFetch

/-- FOLIO_FETCH (R190, R191): one 64-byte read. A fetch that meets ADDR_FAULT or a bus error raises FETCH_FAULT once
every command before it has been dispatched (log 29). -/
def folioFetchStep (c : Nat) (s : State) : State :=
  let k := (s.cl c).cur
  if !(s.mayRun c && k.fetches) then s
  else
    let a := k.fetch
    let first := k.prefetch.isEmpty && k.current.isNone
    if !s.folioAt c a then
      if first then s.haltCluster c ffFetch a 0 else s
    else
      let (s', r) := s.read a 64
      match r with
      | some bs =>
        s'.onCl c (fun k => { k with cur := { k.cur with
          prefetch := k.cur.prefetch ++ [{ cmd := BitVec.ofNat 512 (leNat bs), addr := a, stamp := 0 }]
          fetch := a + 64 } })
      | none => if first then s'.haltCluster c ffFetch a 0 else s'

/-! ## The header check (R193, R225, R254) -/

/-- Opcodes of each engine class (R225). -/
def classOps : Nat → List Nat
  | 0 => [0x01]
  | 1 => [0x40, 0x41, 0x42, 0x43, 0x44, 0x45, 0x46, 0x47]
  | 2 => [0x80, 0x81, 0x82, 0x83, 0x84, 0x85]
  | _ => [0xC0, 0xC1, 0xC2, 0xC3, 0xC4, 0xC5, 0xD0, 0xD1, 0xD2, 0xD3, 0xD4, 0xD5, 0xD6, 0xE0, 0xE1]

/-- Words `lo` to 15 of a command are zero. -/
def wordsZero (q : Block) (lo : Nat) : Bool := nfld q.toNat (32 * lo) (512 - 32 * lo) == 0

/-- The reserved operand words of a control command are zero (R228, R254). -/
def controlRsv (q : Block) : Bool :=
  match hOpcode q with
  | 0xC2 => wfld q 5 4 28 == 0 && wordsZero q 6
  | 0xC3 => wfld q 6 10 22 == 0 && wordsZero q 7
  | 0xC4 => wordsZero q 7
  | 0xC0 => wordsZero q 5
  | 0xC1 => wordsZero q 5
  | 0xC5 => wordsZero q 5
  | _ => true

/-- W3 is in use (R193). -/
def w3Used (q : Block) : Bool := hSignal q || sendsData q

/-- The cases of R193 that need only the words. -/
def headerWords (q : Block) : Bool :=
  (classOps (hClass q)).contains (hOpcode q) && wfld q 0 13 19 == 0 && wfld q 1 6 26 == 0 && wfld q 3 29 3 == 0 &&
  wfld q 4 16 16 == 0 && hWaitClasp q ≤ 47 && hTargetClasp q ≤ 47 && !bit (hThreshold q) 31 &&
  (!hTake q || hWait q) && (!hSignal q || hInc q != 0) &&
  (w3Used q || (cmdWord q 3 == 0 && cmdWord q 4 == 0)) && controlRsv q

/-- R193 whole: with the target checks against the partition and the slice. -/
def State.headerGood (s : State) (c : Nat) (q : Block) : Bool :=
  headerWords q &&
  (!w3Used q ||
    (if hRemote q then hPackage q != s.ownId && s.plan.member (s.jobOf (s.cl c).prog c) (hPackage q)
     else s.clusterIn (s.clPart c) (hTarget q)))

/-! ## Dispatch (R187, R188, R345) -/

/-- Commands in an engine's queue, those in execution included (R99, R127, log 30). -/
def Cluster.mxCount (k : Cluster) : Nat :=
  k.mxq.length + b2n k.mxIssued.isSome + b2n k.mxComp.isSome + k.mxEpi.length + k.mxDone.length
def Cluster.vxCount (k : Cluster) : Nat := k.vxq.length + b2n k.vxDone.isSome + b2n k.load.isSome
def Cluster.cxCount (k : Cluster) : Nat := k.cxq.length + b2n k.cxDone.isSome

/-- Best-effort issue is held (R345, R435, R437, R498): fraction 0, temperature, or a Bursar that does not run. -/
def State.bestEffortHeld (s : State) : Bool :=
  s.power.beFraction == 0 || s.power.thermalHold || s.stw.bursar.st != .running

/-- Dispatch of cluster `c` is held because its task is best-effort. -/
def State.issueHeld (s : State) (c : Nat) : Bool :=
  s.bestEffortHeld && (s.taskOf c).any (fun t => !tdGuar t.desc)

/-- Tile cycle of the cluster's next dispatch (R188, R345): 8 cycles behind the last; for a best-effort task at most `k` in any 16
dispatch slots of 8 cycles (log 39). -/
def Cluster.nextSlot (c : Cluster) (bestEffort : Bool) (k : Nat) : Nat :=
  let gap (i n : Nat) : Nat := (c.dispatched[i]?).elim 0 (fun t => t + n)
  max (gap 0 8) (if bestEffort then gap (k - 1) 128 else 0)

/-- The cluster dispatches a command at tile cycle `cyc`. -/
def Cluster.slotUsed (c : Cluster) (cyc : Nat) : Cluster := { c with dispatched := (cyc :: c.dispatched).take 16 }

/-- The clock at which cluster `c` dispatches next. -/
def State.toSlot (s : State) (c : Nat) : State :=
  s.runTo ((s.cl c).nextSlot ((s.taskOf c).any (fun t => !tdGuar t.desc)) s.power.beFraction * cycT)

/-- The command at the front of the prefetched ones goes to its queue, or to the Curator, which begins its wait
(R187, R194). -/
def Cluster.take1 (k : Cluster) (cyc : Nat) (q : QCmd) (rest : List QCmd) : Cluster :=
  let k' := { k with cur := { k.cur with prefetch := rest } }
  match hClass q.cmd with
  | 0 => ({ k' with mxq := k'.mxq ++ [q] }).arm cyc
  | 1 => ({ k' with vxq := k'.vxq ++ [q] }).arm cyc
  | 2 => ({ k' with cxq := k'.cxq ++ [q] }).arm cyc
  | _ =>
    let k2 := { k' with cur := { k'.cur with current := some q, mode := .stopWait } }
    let k3 := k2.beginWait cyc .curator q
    if k3.granted.contains .curator then { k3 with cur := { k3.cur with mode := .running } } else k3

/-- The forwarded commands of the program whose context the cluster holds (R188, R335). -/
def Cluster.forwarded (k : Cluster) : List HubCmd := k.hubq.filter (fun h => h.prog == k.prog)

/-- The queue that a command needs has room (R99, R188). -/
def Cluster.takes (k : Cluster) (q : QCmd) : Bool :=
  match hClass q.cmd with
  | 0 => decide (k.mxCount < 32)
  | 1 => decide (k.vxCount < 32)
  | 2 => decide (k.cxCount < 32)
  | _ => true

/-- Opcodes that a hub executes (R225). -/
def hubOp (q : Block) : Bool := 0xD0 ≤ hOpcode q

/-- The Curator gives up the command it holds. -/
def Cluster.dropCurrent (k : Cluster) : Cluster :=
  { k with granted := k.granted.filter (fun w => w != .curator)
           cur := { k.cur with current := none, mode := .running } }

/-- CURATOR_DISPATCH (R187, R188, R193): the held hub command is forwarded if fewer than four are outstanding; else the
next fetched command is checked and dispatched in the next dispatch slot. -/
def dispatchStep (c : Nat) (s : State) : State :=
  let k := s.cl c
  if !(s.mayRun c) || k.cur.mode != .running || s.issueHeld c then s
  else match k.cur.current with
    | some q =>
      if hubOp q.cmd && k.granted.contains .curator && k.hubq.length < 4 then
        s.setCl c { k.dropCurrent with movedAt := s.time.ticks, hubq := k.hubq ++ [{ q := q, prog := k.prog }] }
      else s
    | none =>
      match k.cur.prefetch with
      | [] => s
      | q :: rest =>
        if !s.headerGood c q.cmd then s.haltCluster c ffHeader q.addr 0
        else if !k.takes q then s
        else
          let s := s.toSlot c
          let k := (s.cl c).take1 s.cycle { q with stamp := s.stamp, ready := s.cycle } rest
          s.setCl c { k.slotUsed s.cycle with movedAt := s.time.ticks }

/-! ## Control commands (R254) -/

/-- The control command of opcode `op` that cluster `c` holds with its wait satisfied. -/
def State.control (s : State) (c op : Nat) : Option QCmd :=
  let k := s.cl c
  match k.cur.current with
  | some q => if s.mayRun c && k.cur.mode == .running && k.granted.contains .curator && hOpcode q.cmd == op then some q
      else none
  | none => none

/-- The command's header signal, if it has one. -/
def State.signalOf (s : State) (prog c : Nat) (q : QCmd) : State :=
  if hSignal q.cmd then s.sendSignal prog c q.cmd else s

/-- The Curator finishes the control command it holds and signals (R254). -/
def State.finishControl (s : State) (c : Nat) (q : QCmd) : State := 
  (s.onCl c (fun k => { k.dropCurrent with movedAt := s.time.ticks })).signalOf (s.cl c).prog c q

/-- WAIT and SIGNAL (R254). -/
def waitStep (c : Nat) (s : State) : State :=
  match s.control c 0xC0 with
  | none => s
  | some q => s.finishControl c q

def signalStep (c : Nat) (s : State) : State :=
  match s.control c 0xC1 with
  | none => s
  | some q => s.finishControl c q

/-- Every earlier command of the masked executors has completed (R254): none stands in a queue, in an engine, or at
the hub. -/
def Cluster.fenced (k : Cluster) (mask : Nat) : Bool :=
  (!mask.testBit 0 || k.mxCount == 0) && (!mask.testBit 1 || k.vxCount == 0) &&
  (!mask.testBit 2 || k.cxCount == 0) && (!mask.testBit 3 || k.forwarded.isEmpty)

/-- FENCE (R254): dispatch stops unless the fence is satisfied already. -/
def fenceStep (c : Nat) (s : State) : State :=
  match s.control c 0xC2 with
  | none => s
  | some q =>
    let m := wfld q.cmd 5 0 4
    if (s.cl c).fenced m then s.finishControl c q
    else s.onCl c (fun k => { k with cur := { k.cur with mode := .stopFence (BitVec.ofNat 4 m) } })

/-- FENCE_SATISFIED (R254). -/
def fenceSatisfiedStep (c : Nat) (s : State) : State :=
  let k := s.cl c
  match k.cur.mode, k.cur.current with
  | .stopFence m, some q => if s.mayRun c && k.fenced m.toNat then s.finishControl c q else s
  | _, _ => s

/-- CALL (R190, R254): at depth 8 a folio fault; else the return point is pushed and fetch goes to the target. -/
def callStep (c : Nat) (s : State) : State :=
  match s.control c 0xC3 with
  | none => s
  | some q =>
    if 8 ≤ (s.cl c).cur.stack.length then s.haltCluster c ffCallDepth q.addr 0
    else
      let target := wfld q.cmd 5 0 32 * 2 ^ 6 + wfld q.cmd 6 0 10 * 2 ^ 38
      (s.onCl c (fun k => { k with cur := { k.cur with
        stack := (q.addr + 64) :: k.cur.stack, fetch := target, prefetch := [] } })).finishControl c q

/-- TIMEAT (R254, R256): a time not after TIME_NOW does not stop dispatch. -/
def timeatStep (c : Nat) (s : State) : State :=
  match s.control c 0xC4 with
  | none => s
  | some q =>
    let t := nfld q.cmd.toNat 160 64
    if t ≤ s.now then s.finishControl c q
    else s.onCl c (fun k => { k with cur := { k.cur with mode := .stopTime t } })

/-- TIMEAT_RESUME (R256): TIME_NOW reaches t, and dispatch resumes. -/
def timeatResumeStep (c : Nat) (s : State) : State :=
  match (s.cl c).cur.mode, (s.cl c).cur.current with
  | .stopTime t, some q => if s.mayRun c then (s.runToNow t).finishControl c q else s
  | _, _ => s

/-- END (R190, R255): at depth above 0 fetch returns; at depth 0 dispatch stops for good. -/
def endStep (c : Nat) (s : State) : State :=
  match s.control c 0xC5 with
  | none => s
  | some q =>
    match (s.cl c).cur.stack with
    | a :: rest =>
      (s.onCl c (fun k => { k with cur := { k.cur with stack := rest, fetch := a, prefetch := [] } })).finishControl c q
    | [] => s.onCl c (fun k => { k with
        granted := k.granted.filter (fun w => w != .curator), movedAt := s.time.ticks
        cur := { k.cur with mode := .ending, prefetch := [] } })

/-- Nothing of the cluster is still queued, in execution or at the hub (R255). -/
def Cluster.drained (k : Cluster) : Bool := k.fenced 15

/-- CLUSTER_PART_END (R255, R222): the part ends and END signals; with the last part, the task ends as DONE, unless the Registrar's own
command for a closing step is still at the hubs (R189). -/
def partEndStep (c : Nat) (s : State) : State :=
  let k := s.cl c
  if k.cur.mode != .ending || !k.drained || k.halt.isSome || !s.regOn then s
  else
    let s := s.setCl c { k with movedAt := s.time.ticks, cur := { k.cur with mode := .idle, current := none } }
    let s := match k.cur.current with
      | some q => s.signalOf k.prog c q
      | none => s
    let p := s.clPart c
    match s.taskOf c with
    | none => s
    | some t =>
      let t := { t with ended := if t.ended.contains c then t.ended else t.ended ++ [c] }
      let all := t.live && t.clusters.all (fun x => t.ended.contains x)
      let closing := tdStep t.desc && ((s.prt p).prog (tdSlot t.desc)).srec.closing
      let t := if all && closing then { t with st := .ending } else t
      if all && !closing then s.taskDone p t
      else s.onPart p (fun q => { q with tasks := q.tasks.map (fun u => if u.index = t.index then t else u) })

/-! ## The meanings -/

/-- What the Curator's steps change: clusters, memories they read or signal through, and what R466 does. -/
def State.curFrame (s t : State) : State :=
  { s with mem := t.mem, clusters := t.clusters, time := t.time, fabric := t.fabric, panel := t.panel,
           parts := t.parts, red := t.red, reset_ := { s.reset_ with fcBeyond := t.reset_.fcBeyond } }

def execFolioFetch (c : ClusterId) (s : State) : Host.Outcome State Fault Refusal :=
  .next (s.curFrame (folioFetchStep c.val s).settle)

def execCuratorDispatch (c : ClusterId) (s : State) : Host.Outcome State Fault Refusal :=
  .next (s.curFrame (dispatchStep c.val s))

def execWait (c : ClusterId) (s : State) : Host.Outcome State Fault Refusal :=
  .next (s.curFrame (waitStep c.val s))

def execSignal (c : ClusterId) (s : State) : Host.Outcome State Fault Refusal :=
  .next (s.curFrame (signalStep c.val s))

def execFence (c : ClusterId) (s : State) : Host.Outcome State Fault Refusal :=
  .next (s.curFrame (fenceStep c.val s))

def execFenceSatisfied (c : ClusterId) (s : State) : Host.Outcome State Fault Refusal :=
  .next (s.curFrame (fenceSatisfiedStep c.val s))

def execCall (c : ClusterId) (s : State) : Host.Outcome State Fault Refusal :=
  .next (s.curFrame (callStep c.val s))

def execTimeat (c : ClusterId) (s : State) : Host.Outcome State Fault Refusal :=
  .next (s.curFrame (timeatStep c.val s))

def execTimeatResume (c : ClusterId) (s : State) : Host.Outcome State Fault Refusal :=
  .next (s.curFrame (timeatResumeStep c.val s))

def execEnd (c : ClusterId) (s : State) : Host.Outcome State Fault Refusal :=
  .next (s.curFrame (endStep c.val s))

def execClusterPartEnd (c : ClusterId) (s : State) : Host.Outcome State Fault Refusal :=
  .next (s.taskFrame (partEndStep c.val s).settle)

end Sys2Proof.Machine
end

