-- ==== Sys2Proof/Machine/Func.lean ====
section
/-!
DEFINITION. The function unit (R138 to R145): the header check of a function image, the evaluation of a slot or of
a built-in library image, and its special inputs.
-/
namespace Sys2Proof.Machine

/-- A function as the unit evaluates it (R139, R140): header fields, and coefficient `i` of the value table
(false) or derivative table (true). -/
structure FuncView where
  kind   : Nat
  lTail  : Nat
  rTail  : Nat
  wscale : Nat
  lo     : W32
  la     : W32
  lb     : W32
  ra     : W32
  rb     : W32
  khi    : W32
  klo    : W32
  coef   : Bool → Nat → W32

/-- The header check of R139, given the package numerics revision. -/
def headerOk (h : Block) (rev : BitVec 8) : Bool :=
  let kind := fld h 8 2
  let id := fld h 0 8
  fld h 256 256 == 0 && fld h 10 3 ≤ 4 && fld h 13 3 ≤ 4 && id != 0 && id != 0xFF &&
  fld h 24 8 == rev.toNat &&
  (if kind == 0 then vFinite (decode fp32 (fld h 32 32)) else fld h 16 8 == 0 && fld h 32 32 == 0)

/-- The view of a function image. -/
def FuncImage.view (i : FuncImage) : FuncView :=
  let f (lo : Nat) : W32 := BitVec.ofNat 32 (fld i.header lo 32)
  { kind := fld i.header 8 2, lTail := fld i.header 10 3, rTail := fld i.header 13 3,
    wscale := fld i.header 16 8, lo := f 32, khi := f 64, la := f 96, lb := f 128, ra := f 160, rb := f 192,
    klo := f 224, coef := fun d j => if d then i.deriv.getD j 0 else i.value.getD j 0 }

/-- A built-in library image: 1 EXP, 3 RSQRT (R142, R145). EXP has k = log2 e, as the nearest FP32 and the nearest FP32 to the rest
(DEDUCED, log 15), and its derivative table is its value table; the coefficients are the library's own (log 15). -/
def libView (id : Nat) : FuncView :=
  { kind := if id = 1 then 1 else 3, lTail := 0, rTail := 0, wscale := 0, lo := 0, la := 0, lb := 0, ra := 0, rb := 0,
    khi := if id = 1 then 0x3FB8AA3B else 0, klo := if id = 1 then 0x32A57060 else 0
    coef := fun d j => Config.libCoef id (if id = 1 then 0 else b2n d) j }

/-- horner of R140: two fused multiply-adds, each rounded once. -/
def horner (v : FuncView) (dv : Bool) (j : Nat) (t : Val) : NumM Val := do
  let c (k : Nat) : Val := v32 (v.coef dv (3 * j + k))
  let p ← fFma (c 2) t (c 1)
  fFma p t (c 0)

/-- A tail of a UNIFORM function (R140). -/
def tailVal (code : Nat) (a b : W32) (dv : Bool) (x : Val) : NumM Val :=
  match code with
  | 0 => pure (.zero false)
  | 1 => pure (if dv then .zero false else v32 a)
  | 2 => pure (if dv then vOne else x)
  | 3 => if dv then pure (v32 a) else fFma (v32 a) x (v32 b)
  | _ => do setF fNanProd; pure .nan

/-- Sign σ of R141: of coefficient c0 of segment 0 of the derivative table, the zeros taken as +. -/
def sigma (v : FuncView) : Bool :=
  match v32 (v.coef true 0) with
  | .zero _ => false
  | x => vSign x

/-- UNIFORM (R140, R141). -/
def evalUniform (v : FuncView) (dv : Bool) (x : Val) : NumM Val := do
  let lo := v32 v.lo
  let w := vPow ((v.wscale : Int) - 127)
  let hi := (vAdd lo (scaleHi w)).1
  if vLt x lo then tailVal v.lTail v.la v.lb dv x
  else if !vLt x hi then tailVal v.rTail v.ra v.rb dv x
  else
    let u := (vAdd x (vNeg lo)).1
    let j := (vFloor (vDiv u w).1).toNat
    let t ← r32 (vAdd u (vNeg (vMul (vInt j) w).1)).1
    horner v dv j t
where
  /-- 512 segments of width `w`. -/
  scaleHi (w : Val) : Val := (vMul (vInt 512) w).1

/-- −j/d: what the offset within segment j of d takes off (R140). -/
def segStart (j d : Nat) : Val := if j = 0 then .zero true else .num true j d 0

/-- POW2 of a finite x (R140). -/
def evalPow2 (v : FuncView) (dv : Bool) (x : Val) : NumM Val := do
  let k ← xAdd (v32 v.khi) (v32 v.klo)
  let y0 ← xMul x k
  if !vFinite y0 then pure .nan
  else
    let n := vFloor y0
    let r ← r32 (vAdd y0 (vInt (-n))).1
    let (n, r) := if vLt r vOne then (n, r) else (n + 1, .zero false)
    let j := (vFloor (vMul r (vInt 512)).1).toNat
    let h ← horner v dv j (vAdd r (segStart j 512)).1
    r32 (match h with
      | .num s a d e => .num s a d (e + n)
      | h => h)

/-- LOG of a positive finite x (R140). -/
def evalLog (v : FuncView) (dv : Bool) (x : Val) : NumM Val := do
  let n := vLog2 x
  let m := (vAdd (match x with
    | .num s a d e => .num s a d (e - n)
    | x => x) (vInt (-1))).1
  let j := (vFloor (vMul m (vInt 512)).1).toNat
  let p ← horner v dv j (vAdd m (segStart j 512)).1
  if dv then r32 (match p with
    | .num s a d e => .num s a d (e - n)
    | p => p)
  else do
    let k ← xAdd (v32 v.khi) (v32 v.klo)
    let nk ← xMul (vInt n) k
    r32 (← xAdd nk p)

/-- ROOT of a positive finite x (R140). -/
def evalRoot (v : FuncView) (dv : Bool) (x : Val) : NumM Val := do
  let l := vLog2 x
  let a := (l % 2).toNat
  let n := (l - a) / 2
  let f := (vAdd (match x with
    | .num s b d e => .num s b d (e - l)
    | x => x) (vInt (-1))).1
  let i := (vFloor (vMul f (vInt 256)).1).toNat
  let p ← horner v dv (256 * a + i) (vAdd f (segStart i 256)).1
  let k := if dv then -3 * n else -n
  r32 (match p with
    | .num s b d e => .num s b d (e + k)
    | p => p)

/-- An infinity given for a zero input: an overflow by tier 1 (R141). -/
def zeroToInf (s : Bool) : NumM Val := do
  setF fOverInf
  pure (.inf s)

/-- f (or f′ with `dv`) of an FP32 value, with the special inputs of R141; each NaN given for an input that is not
NaN sets nan_produced (R138). -/
def evalFunc (v : FuncView) (dv : Bool) (x : Val) : NumM Val := do
  let sg := sigma v
  let invalid : NumM Val := pure .nan
  let y ← (match v.kind, x with
    | _, .nan => pure .nan
    | 0, x => evalUniform v dv x
    | 1, .inf s => if s then pure (.zero (if dv then sg else false)) else pure (.inf (if dv then sg else false))
    | 1, x => evalPow2 v dv x
    | 2, .inf s => if s then invalid else pure (if dv then .zero sg else .inf false)
    | 2, .zero _ => zeroToInf (if dv then sg else true)
    | 2, x => if vSign x then invalid else evalLog v dv x
    | _, .inf s => if s then invalid else pure (.zero (if dv then sg else false))
    | _, .zero s => zeroToInf (if dv then sg != s else s)
    | _, x => if vSign x then invalid else evalRoot v dv x)
  setFIf (vIsNan y && !vIsNan x) fNanProd
  pure y

/-! ## The bound of the library images (R142) -/

/-- ln 2 × 2^160, cut. -/
def ln2Fixed : Nat := 0xb17217f7d1cf79abc9e3b39803f2f6af40f34326

/-- Sum of r^i / i! from i = k on, with `term` its first term; 160 places of a binary fraction, `n` terms. -/
def expSum (r : Nat) : Nat → Nat → Nat → Nat
  | 0, _, _ => 0
  | n + 1, k, term => term + expSum r n (k + 1) (term * r / 2 ^ 160 / (k + 1))

/-- e^x of a finite FP32 value to some 150 bits, exact for 0; none for x of 128 and more, whose e^x is beyond FP32,
and 2^−184 for x of −128 and less, whose e^x lies below it. -/
def expExact : Val → Option Val
  | .zero _ => some vOne
  | .num s n d e =>
    if 7 ≤ log2Frac n d + e then (if s then some (vPow (-184)) else none)
    else
      let m : Nat := shl n (e + 160) / shl d (-(e + 160))
      let t : Int := if s then -(m : Int) else m
      some (.num false (expSum (t % ln2Fixed).toNat 50 0 (2 ^ 160)) 1 (t / ln2Fixed - 160))
  | _ => none

/-- Largest root of which the square is at most `t`, of `b` bits above `r`. -/
def rootBelow (t : Nat) : Nat → Nat → Nat
  | 0, r => r
  | b + 1, r => rootBelow t b (if (r + 2 ^ b) * (r + 2 ^ b) ≤ t then r + 2 ^ b else r)

/-- 1/√x of a positive finite FP32 value to some 60 bits, exact for a power of 4. -/
def rsqrtExact : Val → Option Val
  | .num false n d e =>
    let k : Int := 60 + (log2Frac n d + e) / 2
    some (.num false (rootBelow (shl d (2 * k - e) / n) 64 0) 1 (-k))
  | _ => none

/-- |y − a| ≤ 2·ulp(a) (R142), in the range of FP32. -/
def within2Ulp (y a : Val) : Bool :=
  let two := vPow (max (vLog2 a - 22) (-148))
  128 ≤ vLog2 a || (vFinite y && !vLt two (vAbs (vAdd y (vNeg a)).1))

/-- A library image keeps its bound: where free coefficients would break it, the result is the exact one, rounded (log 15). -/
def keepBound (exact : Option Val) (m : NumM Val) : NumM Val := do
  let f ← get
  let y ← m
  match exact with
  | some a => if within2Ulp y a then pure y else do
      set f
      r32 a
  | none => pure y

/-- EXP and RSQRT as the row commands use them (R142, R145). -/
def fExp (x : Val) : NumM Val := keepBound (expExact x) (evalFunc (libView 1) false x)
def fRsqrt (x : Val) : NumM Val := keepBound (rsqrtExact x) (evalFunc (libView 3) false x)

end Sys2Proof.Machine
end

