-- ==== Sys2Proof/Machine/Operands.lean ====
section
/-!
DEFINITION. Operand forms: tensor descriptors (R229), element rows of every format (R72, R85 to R90), conversion
into every format (R78 to R84, R93 to R95, R119, R163), and scale-table entries (R158 to R163). Everything here
works on bytes already read; the accesses themselves are made by the commands.
-/
namespace Sys2Proof.Machine

/-! ## Tensor descriptors -/

def tBase (d : Block) : Addr := fld d 0 48
def tSpace (d : Block) : Bool := bit d 48
def tFmt (d : Block) : Nat := fld d 49 4
def tOuter (d : Block) : Bool := bit d 53
def tIncl (d : Block) : Bool := bit d 54
def tDelayed (d : Block) : Bool := bit d 55 && (tFmt d == 3 || tFmt d == 4)
def tPitch (d : Block) : Nat := fld d 64 32
def tScale (d : Block) : Nat := fld d 96 32
def tBezBase (d : Block) : Addr := fld d 128 48
def tBezPitch (d : Block) : Nat := fld d 176 32
def tTable (d : Block) : Addr := fld d 208 48
def tColBlocks (d : Block) : Nat := fld d 256 16
def tORow (d : Block) : Nat := fld d 288 32
def tOCol (d : Block) : Nat := fld d 320 32
def tRows (d : Block) : Nat := fld d 352 32
def tCols (d : Block) : Nat := fld d 384 32

/-- Reserved fields of a descriptor are zero (R229, R230). -/
def tRsvOk (d : Block) : Bool := fld d 56 8 == 0 && fld d 272 16 == 0 && fld d 416 96 == 0

/-- A descriptor of an MMA or vector command: reserved fields, space 0, and a base in the carrel (R230). -/
def tOwnOk (d : Block) : Bool := tRsvOk d && !tSpace d && tBase d < carrelSize

/-- Row length padded to whole blocks of 32 (R85). -/
def lp (l : Nat) : Nat := roundUp l 32

/-- Bytes of a row of `l` elements of a format: block-scaled rows are padded to whole blocks (R85, R86). -/
def rowBytes (fmt l : Nat) : Nat :=
  if fmtBlocked fmt then lp l * fmtWidth fmt / 8 else l * fmtWidth fmt / 8

/-- Bytes of a bezel (R86, R88). -/
def bezelBytes (incl : Bool) : Nat := if incl then 8 else 1

/-- Bytes of a row's bezels (R86). -/
def bezelRow (incl : Bool) (l : Nat) : Nat := lp l / 32 * bezelBytes incl

/-- The bytes that `rows` rows of `len` bytes span at a pitch. -/
def spanBytes (rows pitch len : Nat) : Nat := if rows = 0 then 0 else (rows - 1) * pitch + len

/-- A span of the carrel (R110, R135): multiple of 64 in base and pitch, and inside the carrel. -/
def ownSpanOk (base pitch rows len : Nat) : Bool :=
  base % 64 == 0 && pitch % 64 == 0 && base + spanBytes rows pitch len ≤ carrelSize

/-- The layout rules of R86 for a block-scaled array of `rows` rows of `l` elements, without the extent. -/
def blockedOk (d : Block) (l : Nat) : Bool :=
  tBase d % 64 == 0 && tPitch d % 64 == 0 && rowBytes (tFmt d) l ≤ tPitch d &&
  tBezBase d % 64 == 0 && tBezPitch d % 64 == 0 && bezelRow (tIncl d) l ≤ tBezPitch d

/-- An operand or result region of the own carrel, by the format of its descriptor (R86, R110, R132). -/
def ownRegionOk (d : Block) (rows l : Nat) : Bool :=
  tOwnOk d && ownSpanOk (tBase d) (tPitch d) rows (rowBytes (tFmt d) l) &&
  (!fmtBlocked (tFmt d) || (blockedOk d l && tBezBase d < carrelSize &&
    ownSpanOk (tBezBase d) (tBezPitch d) rows (bezelRow (tIncl d) l)))

/-- The row spans (offset, bytes) of an array: the bytes between the rows of a pitch are no part of it (R86, R110, R135). -/
def rowSpans (base pitch rows len : Nat) : List (Nat × Nat) := (List.range rows).map (fun r => (base + r * pitch, len))

/-- Some span of one list meets some span of another. -/
def spansMeet (a b : List (Nat × Nat)) : Bool := a.any (fun x => b.any (fun y => overlap x.1 x.2 y.1 y.2))

/-- A strided array of the carrel: base, pitch, rows and bytes of a row. -/
structure Strided where
  base  : Nat
  pitch : Nat
  rows  : Nat
  len   : Nat
  deriving DecidableEq, Repr

/-- Two arrays share a byte: some row of one meets some row of the other. -/
def Strided.meets (x y : Strided) : Bool :=
  overlap x.base (spanBytes x.rows x.pitch x.len) y.base (spanBytes y.rows y.pitch y.len) &&
  spansMeet (rowSpans x.base x.pitch x.rows x.len) (rowSpans y.base y.pitch y.rows y.len)

/-- The arrays that a region occupies: its elements, and its bezels where it has them. -/
def regionArrays (d : Block) (rows l : Nat) : List Strided :=
  { base := tBase d, pitch := tPitch d, rows := rows, len := rowBytes (tFmt d) l } ::
  (if fmtBlocked (tFmt d) then
    [{ base := tBezBase d, pitch := tBezPitch d, rows := rows, len := bezelRow (tIncl d) l }] else [])

/-- Some array of one list shares a byte with some array of another. -/
def arraysMeet (a b : List Strided) : Bool := a.any (fun x => b.any (fun y => x.meets y))

/-- Two regions coincide in base, pitch and format (R110, R135). -/
def sameRegion (a b : Block) : Bool := tBase a == tBase b && tPitch a == tPitch b && tFmt a == tFmt b

/-- Two regions overlap otherwise than by coinciding (R135): coinciding element arrays may meet each other, and so may coinciding
bezel arrays; nothing else may. -/
def regionsClash (a b : Block) (rowsA lA rowsB lB : Nat) : Bool :=
  let xs := regionArrays a rowsA lA
  let ys := regionArrays b rowsB lB
  let bezSame := tBezBase a == tBezBase b && tBezPitch a == tBezPitch b && tIncl a == tIncl b
  if !(sameRegion a b && rowsA == rowsB && lA == lB) then arraysMeet xs ys
  else arraysMeet (xs.take 1) (ys.drop 1) || arraysMeet (xs.drop 1) (ys.take 1) ||
    (!bezSame && arraysMeet (xs.drop 1) (ys.drop 1))

/-- A tensor scale is in use for the format, and is legal (R91, R118). -/
def tScaleOk (d : Block) : Bool := !(fmtBlocked (tFmt d) || tFmt d == 3 || tFmt d == 4) || scaleOk (tScale d)

/-! ## Reading rows -/

/-- Value of one unscaled code, with nan_input for a NaN (R97): for every NaN read, also by a widening that R84 calls exact (DESIGN CHOICE,
log 96). -/
def readCode (fmt c : Nat) : NumM Val := do
  match fmtOf fmt with
  | some F =>
    let v := decode F c
    setFIf (vIsNan v) fNanIn
    pure v
  | none => decodeT2 c

/-- The `n` codes of `w` bits each of a row held as one little-endian number (R87). -/
def codesOf (row w : Nat) (n : Nat) : List Nat := (List.range n).map (fun i => nfld row (w * i) w)

/-- An inclusion bezel is malformed (R89). -/
def bezelMalformed (z : Nat) : Bool :=
  let cnt := nfld z 8 2
  cnt == 3 || nfld z 11 5 != 0 || nfld z 26 6 != 0 || nfld z 48 16 != 0 ||
  (cnt == 2 && nfld z 21 5 ≤ nfld z 16 5) ||
  (cnt == 0 && (nfld z 16 5 != 0 || nfld z 32 8 != 0)) ||
  (cnt ≤ 1 && (nfld z 21 5 != 0 || nfld z 40 8 != 0)) ||
  (1 ≤ cnt && nfld z 32 8 % 128 == 127) || (cnt == 2 && nfld z 40 8 % 128 == 127)

/-- The value d of element `i` of a block that is not a NaN block (R90). -/
def blockElem (fmt : Nat) (incl : Bool) (bez : Nat) (i c : Nat) : NumM Val := do
  let v ← readCode fmt c
  if incl && 1 ≤ nfld bez 8 2 && i == nfld bez 16 5 then pure (decode e4m3 (nfld bez 32 8))
  else if incl && nfld bez 8 2 == 2 && i == nfld bez 21 5 then pure (decode e4m3 (nfld bez 40 8))
  else pure v

/-- One block as read (R89, R90): the exponent of its scale (none for a NaN block) and the values d of its first
`n` elements. -/
def readBlockVals (fmt : Nat) (incl : Bool) (bez : Nat) (codes : List Nat) : NumM (Option Int × List Val) := do
  let bad := incl && bezelMalformed bez
  setFIf bad fBezel
  if bad || nfld bez 0 8 == 0xFF then
    setF fNanIn
    pure (none, codes.map (fun _ => .nan))
  else
    let vs ← mapF (fun (p : Nat × Nat) => blockElem fmt incl bez p.1 p.2) (codes.mapIdx (fun i c => (i, c)))
    pure (some ((nfld bez 0 8 : Int) - 127), vs)

/-- The blocks of a row of `l` elements: element bytes and bezel bytes as little-endian numbers. -/
def readBlockRow (d : Block) (row bez l : Nat) : NumM (List (Option Int × List Val)) :=
  let w := fmtWidth (tFmt d)
  let b := bezelBytes (tIncl d)
  mapF (fun j => readBlockVals (tFmt d) (tIncl d) (nfld bez (8 * b * j) (8 * b))
    (codesOf (nfld row (32 * w * j) (32 * w)) w (min 32 (l - 32 * j)))) (List.range (lp l / 32))

/-- A value times a power of two. -/
def scaleV (v : Val) (k : Int) : Val :=
  match v with
  | .num s n d e => .num s n d (e + k)
  | _ => v

/-- A finite value times the tensor scale, exactly (R90, R158). -/
def timesScale (t : Nat) (v : Val) : Val := (vMul v (decode fp32 t)).1

/-- Exact values of a row as a reader takes them (R90, R158, R161): `exps` gives the scale-table exponent byte of
each element of a delayed-scaled row. -/
def readRowVals (d : Block) (row bez : Nat) (exps : List Nat) (l : Nat) : NumM (List Val) := do
  let fmt := tFmt d
  if fmtBlocked fmt then
    let bs ← readBlockRow d row bez l
    pure (bs.flatMap (fun p => match p.1 with
      | some k => p.2.map (fun v => timesScale (tScale d) (scaleV v k))
      | none => p.2))
  else
    let vs ← mapF (readCode fmt) (codesOf row (fmtWidth fmt) l)
    if fmt == 3 || fmt == 4 then
      if tDelayed d then
        setFIf (exps.contains 0xFF) fNanIn
        pure (vs.mapIdx (fun i v =>
          let e := exps.getD i 127
          if e == 0xFF then .nan else timesScale (tScale d) (scaleV v ((e : Int) - 127))))
      else pure (vs.map (timesScale (tScale d)))
    else pure vs

/-! ## Converting blocks (R93, R94) -/

/-- emax_val of R93. -/
def emaxVal (fmt : Nat) : Val :=
  match fmt with
  | 5 => vInt 28
  | 6 => .num false 15 2 0
  | 7 => vInt 6
  | _ => vOne

/-- Largest finite magnitude of a narrow element format, with tier 3 told apart. -/
structure ElemCode where
  code : Nat
  val  : Val
  sat  : Bool
  zero : Bool
  deriving DecidableEq, Repr

/-- Element code of a finite value by round_rne and R80, or by R79 for T2. -/
def elemCode (fmt : Nat) (z : Val) : ElemCode :=
  match fmtOf fmt with
  | some F =>
    let (c, f) := (roundTo F false z).run 0
    { code := c, val := decode F c, sat := bit f 3, zero := bit f 0 }
  | none =>
    let a := vAbs z
    let s := vSign z
    if vIsZero z then { code := 0, val := .zero false, sat := false, zero := false }
    else if !vLt (.num false 1 2 0) a then { code := 0, val := .zero false, sat := false, zero := true }
    else { code := if s then 3 else 1, val := .num s 1 1 0, sat := !vLt a (.num false 3 2 0), zero := false }

/-- The three largest magnitudes, counting repeats (R93). -/
def topThree (xs : List Val) : Val × Val × Val :=
  xs.foldl (fun t x =>
    let a := vAbs x
    if vLt t.1 a then (a, t.1, t.2.1)
    else if vLt t.2.1 a then (t.1, a, t.2.1)
    else if vLt t.2.2 a then (t.1, t.2.1, a)
    else t) (.zero false, .zero false, .zero false)

/-- Larger of two optional exponents, none being minus infinity. -/
def maxExp (a b : Option Int) : Option Int :=
  match a, b with
  | none, y => y
  | x, none => x
  | some x, some y => some (max x y)

/-- The index of the largest positive error outside `skip`, the lower index first among equals (R93). -/
def worst (errs : List Val) (skip : Option Nat) : Option Nat :=
  (errs.foldl (fun (st : Nat × Option (Nat × Val)) e =>
    let i := st.1
    let take := !vIsZero e && some i != skip && (match st.2 with
      | none => true
      | some (_, w) => vLt w e)
    (i + 1, if take then some (i, e) else st.2)) (0, none)).2.map (fun p => p.1)

/-- A block as written: 32 element codes and the bezel as a number (R88, R93). -/
structure OutBlock where
  codes : List Nat
  bezel : Nat
  deriving DecidableEq, Repr

/-- convert_block of R93 over exactly 32 values. -/
def convBlock (fmt : Nat) (incl : Bool) (t : Nat) (xs : List Val) : NumM OutBlock := do
  if xs.any (fun x => !vFinite x) then
    setF fBlockNan
    pure { codes := xs.map (fun _ => 0), bezel := 0xFF }
  else
    let tv := decode fp32 t
    let ys := xs.map (fun x => (vDiv x tv).1)
    let (m1, _, m3) := topThree ys
    let top (m q : Val) : Option Int := vClog2 (vDiv m q).1
    let e0 := if incl then maxExp (top m3 (emaxVal fmt)) (top m1 (vInt 448)) else top m1 (emaxVal fmt)
    let e := e0.getD 0
    setFIf (decide (e < -127) || decide (127 < e)) fClamped
    let e := max (-127) (min 127 e)
    let zs := ys.map (fun y => scaleV y (-e))
    let cs := zs.map (elemCode fmt)
    let scale := (e + 127).toNat
    if incl then
      let errs := (zs.zip cs).map (fun p => vAbs (vAdd p.1 (vNeg p.2.val)).1)
      let w1 := worst errs none
      let w2 := if w1.isSome then worst errs w1 else none
      let chosen := match w1, w2 with
        | some a, some b => if a < b then [a, b] else [b, a]
        | some a, none => [a]
        | _, _ => []
      let vals ← mapF (fun i => do
        let r := (roundTo e4m3 true (zs.getD i (.zero false))).run 0
        setF r.2
        pure r) chosen
      let outside := (cs.mapIdx (fun i c => (i, c))).filter (fun p => !chosen.contains p.1)
      let sat := outside.any (fun p => p.2.sat)
      setFIf sat fSaturated
      setFIf (outside.any (fun p => p.2.zero)) fUnderflow
      let held := vals.any (fun r => bit r.2 3)
      let bez := scale + chosen.length * 2 ^ 8 + b2n (sat || held) * 2 ^ 10 +
        chosen.getD 0 0 * 2 ^ 16 + chosen.getD 1 0 * 2 ^ 21 +
        (vals.map (fun r => r.1)).getD 0 0 * 2 ^ 32 + (vals.map (fun r => r.1)).getD 1 0 * 2 ^ 40
      pure { codes := cs.map (fun c => c.code), bezel := bez }
    else
      setFIf (cs.any (fun c => c.sat)) fSaturated
      setFIf (cs.any (fun c => c.zero)) fUnderflow
      pure { codes := cs.map (fun c => c.code), bezel := scale }

/-- Codes of `w` bits packed into one little-endian number (R87). -/
def packCodes (w : Nat) : List Nat → Nat
  | [] => 0
  | c :: t => c + 2 ^ w * packCodes w t

/-- A row converted to a block-scaled format: its element bytes and its bezel bytes (R85, R86, R93). -/
def convBlockRow (fmt : Nat) (incl : Bool) (t : Nat) (xs : List Val) : NumM (List Byte × List Byte) := do
  let n := lp xs.length / 32
  let blocks ← mapF (fun j =>
    let part := (xs.drop (32 * j)).take 32
    convBlock fmt incl t (part ++ List.replicate (32 - part.length) (.zero false))) (List.range n)
  pure (blocks.flatMap (fun b => leBytes (packCodes (fmtWidth fmt) b.codes) (4 * fmtWidth fmt)),
        blocks.flatMap (fun b => leBytes b.bezel (bezelBytes incl)))

/-! ## Scale tables -/

/-- Package address of the entry of the scale block that holds tensor element (r, c) (R158, R159). -/
def entryAddr (d : Block) (r c : Nat) : Addr := tTable d + 4 * (r / 128 * tColBlocks d + c / 128)

/-- Scale blocks (I, J) that a region of `rows` by `l` elements at the descriptor's origin touches. -/
def scaleBlocks (d : Block) (rows l : Nat) : List (Nat × Nat) :=
  if rows = 0 ∨ l = 0 then [] else
  let i0 := tORow d / 128
  let j0 := tOCol d / 128
  (span i0 ((tORow d + rows - 1) / 128 - i0 + 1)).flatMap (fun i =>
    (span j0 ((tOCol d + l - 1) / 128 - j0 + 1)).map (fun j => (i, j)))

/-- Entry address of scale block (I, J) (R159). -/
def blockEntry (d : Block) (ij : Nat × Nat) : Addr := tTable d + 4 * (ij.1 * tColBlocks d + ij.2)

/-- fmax of R163. -/
def fmaxOf (fmt : Nat) : Val := if fmt == 3 then vInt 448 else vInt 57344

/-- What a delayed-scaled write makes of one scale block (R163): the new entry, and the codes of the tile's
values in order. -/
def delayedTile (fmt t w : Nat) (xs : List Val) : NumM (Nat × List Nat) := do
  let tv := decode fp32 t
  let qs := (xs.filter vFinite).map (fun x => vAbs (vDiv x tv).1)
  let amax := qs.foldl (fun a b => if vLt a b then b else a) (.zero false)
  let F := if fmt == 3 then e4m3 else e5m2
  let w ← (match vClog2 (vDiv amax (fmaxOf fmt)).1 with
    | some k =>
      if !w.testBit 8 then do
        let e := k + 1 + 127
        setFIf (decide (e < 0) || decide (254 < e)) fClamped
        pure (setFld w 0 9 ((max 0 (min 254 e)).toNat + 256))
      else pure w
    | none => pure w)
  if nfld w 0 8 == 0xFF then
    setF fNanIn
    pure (w, xs.map (fun _ => nanCode F))
  else
    let sc := (nfld w 0 8 : Int) - 127
    let outs ← mapF (fun x => do
      let r := (roundTo F true (scaleV (vDiv x tv).1 (-sc))).run 0
      setF r.2
      pure r) xs
    let fin := (xs.zip outs).filter (fun p => vFinite p.1)
    let sat := fin.any (fun p => bit p.2.2 3)
    let loud := fin.any (fun p => !vLt (vAbs (decode F p.2.1)) (scaleV (fmaxOf fmt) (-2)))
    let w := if sat then setFld w 9 1 1 else w
    let w := if loud then setFld w 11 5 31 else w
    pure (w, outs.map (fun r => r.1))

/-- Elements of a region's rows that lie in scale block (I, J), in row order. -/
def tileOf (d : Block) (ij : Nat × Nat) (rows : List (List Val)) : List Val :=
  (rows.mapIdx (fun r xs => if (tORow d + r) / 128 = ij.1 then
    ((xs.mapIdx (fun c x => (c, x))).filter (fun p => (tOCol d + p.1) / 128 = ij.2)).map (fun p => p.2)
    else [])).flatten

/-- Deal the codes of each scale block back to their places in the rows. -/
def dealTiles (d : Block) (l : Nat) : Nat → Nat → List ((Nat × Nat) × List Nat) → List (List Nat)
  | 0, _, _ => []
  | n + 1, r, tiles =>
    let row := (List.range l).map (fun c =>
      let ij := ((tORow d + r) / 128, (tOCol d + c) / 128)
      let w := min ((tOCol d + l)) (128 * (ij.2 + 1)) - max (tOCol d) (128 * ij.2)
      let r0 := max (tORow d) (128 * ij.1)
      let k := (tORow d + r - r0) * w + (tOCol d + c - max (tOCol d) (128 * ij.2))
      ((tiles.lookup ij).getD []).getD k 0)
    row :: dealTiles d l n (r + 1) tiles

/-! ## Writing rows -/

/-- Codes of one row of an unscaled, not delayed-scaled result (R119): FP8 takes x / t. -/
def convPlainRow (fmt t : Nat) (xs : List Val) : NumM (List Nat) :=
  match fmtOf fmt with
  | some F =>
    if fmt == 3 || fmt == 4 then mapF (fun x => roundTo F false (vDiv x (decode fp32 t)).1) xs
    else mapF (roundTo F false) xs
  | none => pure []

/-- The bytes of one result row: element bytes, and bezel bytes of a block-scaled row. -/
structure OutRow where
  elems  : List Byte
  bezels : List Byte
  deriving DecidableEq, Repr

/-- Bytes of a row of codes (R87). -/
def codeBytes (fmt : Nat) (cs : List Nat) : List Byte :=
  leBytes (packCodes (fmtWidth fmt) cs) (cs.length * fmtWidth fmt / 8)

/-- Rows converted to a result format that is not delayed-scaled (R119, R137). -/
def convRows (d : Block) (rows : List (List Val)) : NumM (List OutRow) :=
  mapF (fun xs => do
    if fmtBlocked (tFmt d) then
      let (e, b) ← convBlockRow (tFmt d) (tIncl d) (tScale d) xs
      pure { elems := e, bezels := b }
    else
      let cs ← convPlainRow (tFmt d) (tScale d) xs
      pure { elems := codeBytes (tFmt d) cs, bezels := [] }) rows

/-- Rows converted to a delayed-scaled result (R163), given the entries found: the rows, and the entries to write,
by scale block. -/
def convDelayed (d : Block) (rows : List (List Val)) (entries : List ((Nat × Nat) × Nat)) :
    NumM (List OutRow × List ((Nat × Nat) × Nat)) := do
  let l := (rows.head?.getD []).length
  let done ← mapF (fun (p : (Nat × Nat) × Nat) => do
    let (w, cs) ← delayedTile (tFmt d) (tScale d) p.2 (tileOf d p.1 rows)
    pure (p.1, w, cs)) entries
  let codes := dealTiles d l rows.length 0 (done.map (fun p => (p.1, p.2.2)))
  pure (codes.map (fun cs => { elems := codeBytes (tFmt d) cs, bezels := [] }),
        done.map (fun p => (p.1, p.2.1)))

end Sys2Proof.Machine
end

