-- ==== Sys2Proof/Machine/Matrix.lean ====
section
/-!
DEFINITION. The matrix engine (R105 to R128): the checks of an MMA at issue, its accumulation in the order of
R111, and its epilogue.
-/
namespace Sys2Proof.Machine

/-! ## Operand words (R232) -/

def mmM (q : Block) : Nat := wfld q 5 0 7
def mmN (q : Block) : Nat := wfld q 5 7 8
def mmK (q : Block) : Nat := wfld q 5 15 17
def mmSlot (q : Block) : Nat := wfld q 8 16 4
def mmFunc (q : Block) : Bool := wfld q 8 20 1 == 1
def mmSave (q : Block) : Bool := wfld q 8 21 1 == 1
def mmRes (q : Block) : Bool := wfld q 8 22 1 == 1
def mmKeep (q : Block) : Bool := wfld q 8 23 1 == 1
def mmBuf (q : Block) : Nat := wfld q 8 24 1
def mmWrite (q : Block) : Bool := wfld q 8 25 1 == 1
def mmTs (q : Block) : Nat := cmdWord q 9

/-- Reserved bits of W8 and words W10 to W15 are zero (R232). -/
def mmRsvOk (q : Block) : Bool := wfld q 8 26 6 == 0 && nfld q.toNat 320 192 == 0

/-- The five descriptors of an MMA, as read at issue (R230): A, B, C, residual, pre-function region. -/
structure MmaDescs where
  a : Block
  b : Block
  c : Block
  r : Block
  p : Block

/-- Block numbers of the descriptors that a command names by carrel offset / 64 (R229). -/
def tdBlock (c : Nat) (td : Nat) : Nat := carrelAt c (64 * td) / 64

/-- The descriptors that an MMA reads (R232): td_c, td_r and td_p only as write, res_en and save_pre ask. -/
def mmaTds (q : Block) : List Nat :=
  [wfld q 6 0 16, wfld q 6 16 16] ++ (if mmWrite q then [wfld q 7 0 16] else []) ++
  (if mmWrite q && mmRes q then [wfld q 7 16 16] else []) ++
  (if mmWrite q && mmSave q then [wfld q 8 0 16] else [])

/-- A descriptor as it stands in memory. -/
def MemSt.td (m : MemSt) (c td : Nat) : Block := BitVec.ofNat 512 (m.blockNat (tdBlock c td))

def mmaDescs (m : MemSt) (c : Nat) (q : Block) : MmaDescs :=
  { a := m.td c (wfld q 6 0 16), b := m.td c (wfld q 6 16 16), c := m.td c (wfld q 7 0 16),
    r := m.td c (wfld q 7 16 16), p := m.td c (wfld q 8 0 16) }

/-! ## Checks at issue (R124) -/

/-- Stored rows and row length of an operand of `outer` by K elements (R107). -/
def opRows (d : Block) (n k : Nat) : Nat := if tOuter d then k else n
def opCols (d : Block) (n k : Nat) : Nat := if tOuter d then n else k

/-- The scale table of a delayed-scaled region (R159, R230): its base and the entries touched lie in HBM or a
carrel of the partition. -/
def State.tableOk (s : State) (p : Nat) (d : Block) (rows l : Nat) : Bool :=
  !tDelayed d || (tTable d % 64 == 0 && tColBlocks d != 0 &&
    ((tTable d, tTable d) :: (scaleBlocks d rows l).map (fun ij => (blockEntry d ij, tTable d))).all
      (fun x => x.1 < ledgerBase && s.rangeOk p x.1 4))

/-- Operand A or B: layout by R86, R110, R162 and R230. -/
def State.operandOk (s : State) (p : Nat) (d : Block) (n k : Nat) : Bool :=
  ownRegionOk d (opRows d n k) (opCols d n k) && s.tableOk p d (opRows d n k) (opCols d n k) &&
  (!tDelayed d || (if tOuter d then tORow d else tOCol d) % 32 == 0)

/-- The arrays of result C: of a block-scaled C, the tile's own part of each row of the tensor (R109; log 21). -/
def cArrays (d : Block) (m n : Nat) : List Strided :=
  if fmtBlocked (tFmt d) then
    [{ base := tBase d + tOCol d * fmtWidth (tFmt d) / 8, pitch := tPitch d, rows := m, len := rowBytes (tFmt d) n },
     { base := tBezBase d + tOCol d / 32 * bezelBytes (tIncl d), pitch := tBezPitch d, rows := m, len := bezelRow (tIncl d) n }]
  else regionArrays d m n

/-- Result C (R109, R110): a block-scaled C places its tile at origin_col of a tensor whose rows have cols
elements. -/
def State.resultOk (s : State) (p : Nat) (d : Block) (m n : Nat) : Bool :=
  if fmtBlocked (tFmt d) then
    tOCol d % 32 == 0 && tOCol d + n ≤ tCols d && (n % 32 == 0 || tOCol d + n == tCols d) &&
    tOwnOk d && blockedOk d (tCols d) && tBezBase d < carrelSize &&
    (cArrays d m n).all (fun x => x.base + spanBytes x.rows x.pitch x.len ≤ carrelSize)
  else ownRegionOk d m n && s.tableOk p d m n

/-- LAYOUT_BAD of an MMA (R86, R109, R110, R162, R228, R230). -/
def State.mmaLayoutOk (s : State) (part : Nat) (q : Block) (d : MmaDescs) : Bool :=
  let m := mmM q
  let n := mmN q
  let k := mmK q
  let ab := regionArrays d.a (opRows d.a m k) (opCols d.a m k) ++ regionArrays d.b (opRows d.b n k) (opCols d.b n k)
  let cs := cArrays d.c m n
  let ps := regionArrays d.p m n
  let rs := regionArrays d.r m n
  mmRsvOk q && s.operandOk part d.a m k && s.operandOk part d.b n k &&
  (!mmWrite q || (s.resultOk part d.c m n && !arraysMeet cs ab &&
    (!mmSave q || (ownRegionOk d.p m n && !arraysMeet ps ab && !arraysMeet ps cs)) &&
    (!mmRes q || (ownRegionOk d.r m n && (sameRegion d.r d.c || !arraysMeet rs cs)))))

/-- An accumulator buffer of the cluster. -/
def Cluster.acc (k : Cluster) (b : Nat) : AccBuf := if b = 0 then k.acc0 else k.acc1
def Cluster.setAcc (k : Cluster) (b : Nat) (a : AccBuf) : Cluster :=
  if b = 0 then { k with acc0 := a } else { k with acc1 := a }

/-- FORMAT_BAD of an MMA (R71, R105, R233). -/
def mmaFormatOk (q : Block) (d : MmaDescs) : Bool :=
  let op (t : Block) : Bool := 1 ≤ tFmt t && tFmt t ≤ 8
  op d.a && op d.b &&
  (!mmWrite q || (tFmt d.c ≤ 7 && (!mmRes q || tFmt d.r == 0) &&
    (!mmSave q || tFmt d.p == 0 || tFmt d.p == 2)))

/-- The epilogue scale is finite and not zero (R118). -/
def tsOk (w : Nat) : Bool := vFinite (decode fp32 w) && !vIsZero (decode fp32 w)

/-- Shape and validity of a buffer as a command that issues behind it finds them (R121): of the last command under way into the
buffer, which is valid if that ends with OK; else as the buffer stands. -/
def Cluster.accAhead (k : Cluster) (b : Nat) : Nat × Nat × Bool :=
  let busy := k.mxDone.map (fun x => (x.q.cmd, x.status == stOk)) ++
    (k.mxEpi ++ k.mxComp.toList).map (fun j => (j.q.cmd, true))
  match (busy.filter (fun x => mmBuf x.1 == b)).getLast? with
  | some (q, ok) => (mmM q, mmN q, ok)
  | none => let a := k.acc b; (a.m, a.n, a.valid)

/-- The first refusal of R124 that applies, or OK. -/
def State.mmaCheck (s : State) (c : Nat) (q : Block) (d : MmaDescs) : BitVec 16 :=
  let m := mmM q
  let n := mmN q
  let k := mmK q
  let (am, an, valid) := (s.cl c).accAhead (mmBuf q)
  if m < 1 || 64 < m || n < 1 || 128 < n || k < 1 || 65536 < k ||
     (mmKeep q && am != 0 && (am != m || an != n)) then stShape
  else if !mmaFormatOk q d then stFormat
  else if (fmtBlocked (tFmt d.a) && tOuter d.a) || (fmtBlocked (tFmt d.b) && tOuter d.b) then stOrient
  else if !s.mmaLayoutOk (s.clPart c) q d then stLayout
  else if !tScaleOk d.a || !tScaleOk d.b || (mmWrite q && (!tsOk (mmTs q) || !tScaleOk d.c)) then stScale
  else if mmKeep q && !valid then stAcc
  else stOk

/-! ## Cycles (R106, R123) -/

/-- Cycles per K-group: by the wider operand (R106). -/
def groupCycles (fa fb : Nat) : Nat :=
  let w := max (fmtWidth fa) (fmtWidth fb)
  if w = 16 then 64 else if w = 8 then 32 else 16

/-- K-groups of a product (R111). -/
def kGroups (k : Nat) : Nat := ceilDiv k 32

/-- E of R123. -/
def epiCycles (q : Block) (d : MmaDescs) : Nat :=
  let m := mmM q
  let n := mmN q
  let w := m * rowBytes (tFmt d.c) n + (if fmtBlocked (tFmt d.c) then m * bezelRow (tIncl d.c) n else 0) +
    (if mmSave q then m * rowBytes (tFmt d.p) n else 0)
  let r := if mmRes q then 4 * m * n else 0
  max (max (ceilDiv w 1024) (ceilDiv r 2048)) (max (if mmFunc q then ceilDiv (m * n) 256 else 0) 8)

/-! ## Issue (R105, R230) -/

/-- A later MMA into a buffer starts only when the one before it has left it (R123). -/
def Cluster.bufFree (k : Cluster) (b : Nat) : Bool :=
  !(k.mxEpi.any (fun j => mmBuf j.q.cmd == b)) && !(k.mxDone.any (fun x => mmBuf x.q.cmd == b))

/-- A completed MMA joins those that await completion. -/
def Cluster.mxFinish (k : Cluster) (q : QCmd) (st : BitVec 16) (f : Flags) (due : Nat) : Cluster :=
  { k with mxDone := k.mxDone ++ [{ q := q, status := st, flags := f, due := due }] }

/-- Compute cycles of a job: G·c + b (R123). -/
def MxJob.compute (j : MxJob) : Nat := kGroups (mmK j.q.cmd) * groupCycles (tFmt j.da) (tFmt j.db) + j.conf

/-- The issued MMA starts once the product array is free and the commands before it have left its buffer (R123): `start` holds
issue + L until then. The command behind it is at the head of the queue from that cycle. -/
def Cluster.startIssued (k : Cluster) (cyc : Nat) : Cluster :=
  match k.mxIssued with
  | none => k
  | some j =>
    let b := mmBuf j.q.cmd
    if k.mxComp.isSome || !k.bufFree b || k.cur.mode == .switched then k
    else
      let start := max (max k.mxCompFree (sget 0 k.mxBufFree b)) j.start
      let fin := start + j.compute
      (k.rejob cyc (fun k => { k with
        mxIssued := none, mxComp := some { j with start := start, computeEnd := fin }, mxStart := start, mxCompFree := fin })).arm cyc

/-- The head of the matrix queue once its turn has come (R123): the clock is past the start of the compute before it. -/
def State.mxTurn (s : State) (c : Nat) : State := (s.runTo ((s.cl c).mxStart * cycT)).onCl c (fun k => k.arm s.cycle)

/-- MMA (R105, R123, R124, R230, R231): the command at the head of the matrix queue issues: it reads its descriptors, is checked, and
waits for the array and its buffer, or is refused within 48 cycles (R505). Issue is the later of the start of the compute before it
and the cycle that satisfied its wait; L is 48 cycles if the array is idle then. -/
def mmaStep (c : Nat) (s : State) : State :=
  let t := s.mxTurn c
  match (t.cl c).head .mx 0x01 with
  | none => s
  | some q =>
    let k := t.cl c
    let bs := (mmaTds q.cmd).map (tdBlock c)
    let t := t.onMem (fun m => m.touchAll t.mx bs)
    let d := mmaDescs t.mem c q.cmd
    let st := if t.mem.sound bs then t.mmaCheck c q.cmd d else stMem
    let issue := max q.ready k.mxStart
    let t := t.onCl c (fun k => k.pop .mx)
    if st = stOk then
      let j : MxJob :=
        { q := q, da := d.a, db := d.b, dc := d.c, dr := d.r, dp := d.p,
          start := issue + (if k.mxCompFree ≤ issue then 48 else 0), conf := Config.bankConflicts t.fresh }
      t.draw.onCl c (fun k => { k with mxIssued := some j }.startIssued (t.time.ticks / cycT))
    else t.onCl c (fun k => (k.mxFinish q st 0 ((issue + 48) * cycT)).arm t.cycle)

/-! ## Accumulation (R111 to R114) -/

/-- Block numbers that a region's rows meet, elements and bezels, row by row. -/
def regionBlocks (c : Nat) (d : Block) (rows l : Nat) : List Nat :=
  (List.range rows).flatMap (fun r =>
    blocksOf (carrelAt c (tBase d + r * tPitch d)) (rowBytes (tFmt d) l) ++
    (if fmtBlocked (tFmt d) then
      blocksOf (carrelAt c (tBezBase d + r * tBezPitch d)) (bezelRow (tIncl d) l) else []))

/-- Block numbers of the scale-table entries that a region reads. -/
def tableBlocks (d : Block) (rows l : Nat) : List Nat :=
  if tDelayed d then (scaleBlocks d rows l).map (fun ij => blockEntry d ij / 64) else []

/-- The element bytes and bezel bytes of row `r` of a region of the carrel, as numbers. -/
def MemSt.rowNat (m : MemSt) (c : Nat) (d : Block) (l r : Nat) : Nat :=
  m.peekNat (carrelAt c (tBase d + r * tPitch d)) (rowBytes (tFmt d) l)
def MemSt.bezNat (m : MemSt) (c : Nat) (d : Block) (l r : Nat) : Nat :=
  if fmtBlocked (tFmt d) then m.peekNat (carrelAt c (tBezBase d + r * tBezPitch d)) (bezelRow (tIncl d) l) else 0

/-- Scale-table exponent byte for tensor element (r, c) counted from the descriptor's origin (R161). -/
def MemSt.expAt (m : MemSt) (d : Block) (r c : Nat) : Nat :=
  if tDelayed d then m.peekNat (entryAddr d (tORow d + r) (tOCol d + c)) 1 else 127

/-- K-groups of one line (row of A or column of B): the exponent of the group's scale, none for NaN, and 32
values (R111). -/
abbrev Groups := List (Option Int × List Val)

/-- Cut a line of values into groups of 32, padded with +0, with the exponent byte of each group. -/
def cutGroups (vs : List Val) (exps : List Nat) : Groups :=
  exps.mapIdx (fun g (e : Nat) =>
    let part := (vs.drop (32 * g)).take 32
    (if e == 0xFF then none else some ((e : Int) - 127),
     part ++ List.replicate (32 - part.length) (.zero false)))

/-- The lines of operand A (`n` = M) or B (`n` = N) as groups along K (R107, R111). -/
def MemSt.lines (m : MemSt) (c : Nat) (d : Block) (n k : Nat) : NumM (List Groups) := do
  let gs := List.range (kGroups k)
  if fmtBlocked (tFmt d) then
    mapF (fun i => do
      let bs ← readBlockRow d (m.rowNat c d k i) (m.bezNat c d k i) k
      pure (bs.map (fun b => (b.1, b.2 ++ List.replicate (32 - b.2.length) (.zero false))))) (List.range n)
  else if tOuter d then do
    let rows ← mapF (fun j => mapF (readCode (tFmt d)) (codesOf (m.rowNat c d n j) (fmtWidth (tFmt d)) n)) (List.range k)
    mapF (fun i => do
      let exps := gs.map (fun g => m.expAt d (32 * g) i)
      setFIf (exps.contains 0xFF) fNanIn
      pure (cutGroups (rows.map (fun r => r.getD i .nan)) exps)) (List.range n)
  else
    mapF (fun i => do
      let vs ← mapF (readCode (tFmt d)) (codesOf (m.rowNat c d k i) (fmtWidth (tFmt d)) k)
      let exps := gs.map (fun g => m.expAt d i (32 * g))
      setFIf (exps.contains 0xFF) fNanIn
      pure (cutGroups vs exps)) (List.range n)

/-- What a group's products come to so far: their exact sum, and the special products seen (R113). -/
structure GroupSum where
  sum  : Val := .zero false
  nan  : Bool := false
  pinf : Bool := false
  ninf : Bool := false
  bad  : Bool := false

/-- One product of a group, formed exactly (R111). -/
def GroupSum.add (g : GroupSum) (a b : Val) : GroupSum :=
  match vMul a b with
  | (_, true) => { g with nan := true, bad := true }
  | (.nan, _) => { g with nan := true }
  | (.inf true, _) => { g with ninf := true }
  | (.inf false, _) => { g with pinf := true }
  | (v, _) => { g with sum := (vAdd g.sum v).1 }

/-- s(g) of R111 for one group of two lines: the exact sum, times the scale factor, rounded once to FP32. -/
def groupTerm (x y : Option Int × List Val) : NumM Val :=
  match x.1, y.1 with
  | some ea, some eb => do
    let g := (x.2.zip y.2).foldl (fun (g : GroupSum) p => g.add p.1 p.2) {}
    setFIf (g.bad || (g.pinf && g.ninf)) fNanProd
    if g.nan || (g.pinf && g.ninf) then pure .nan
    else if g.pinf then pure (.inf false)
    else if g.ninf then pure (.inf true)
    else r32 (scaleV g.sum (ea + eb))
  | _, _ => pure .nan

/-- One output element: the groups in increasing order, one rounded addition each (R111, R112). -/
def accumulate (start : Val) (a b : Groups) : NumM Val :=
  foldF (fun acc p => do
    let t ← groupTerm p.1 p.2
    fAdd acc t) start (a.zip b)

/-- The accumulators after the first `k` positions of K, row by row (R105, R111). A NaN that the buffer holds is no value that the
command reads from memory: it sets no nan_input (DESIGN CHOICE, log 96). -/
def MemSt.product (m : MemSt) (c : Nat) (j : MxJob) (old : AccBuf) (k : Nat) : NumM (List W32) := do
  let q := j.q.cmd
  let as ← m.lines c j.da (mmM q) k
  let bs ← m.lines c j.db (mmN q) k
  let rows ← mapF (fun (p : Nat × Groups) => mapF (fun (r : Nat × Groups) => do
      let start := if mmKeep q then v32 (old.vals.getD (p.1 * mmN q + r.1) 0) else .zero false
      let v ← accumulate start p.2 r.2
      pure (code32 v)) (bs.mapIdx (fun i g => (i, g)))) (as.mapIdx (fun i g => (i, g)))
  pure rows.flatten

/-- Blocks that K-group `g` of an operand of `n` lines by `k` elements reads (R107, R111): its elements, bezels and table entries. -/
def groupBlocks (c : Nat) (d : Block) (n k g : Nat) : List Nat :=
  let w := fmtWidth (tFmt d)
  let len := min k (32 * g + 32) - 32 * g
  let table (r x : Nat) : List Nat := if tDelayed d then [entryAddr d (tORow d + r) (tOCol d + x) / 64] else []
  if tOuter d then
    (span (32 * g) len).flatMap (fun r => blocksOf (carrelAt c (tBase d + r * tPitch d)) (rowBytes (tFmt d) n)) ++
    (List.range n).flatMap (fun i => table (32 * g) i)
  else
    (List.range n).flatMap (fun i =>
      blocksOf (carrelAt c (tBase d + i * tPitch d + 32 * g * w / 8)) (ceilDiv ((if fmtBlocked (tFmt d) then 32 else len) * w) 8) ++
      (if fmtBlocked (tFmt d) then
        blocksOf (carrelAt c (tBezBase d + i * tBezPitch d + g * bezelBytes (tIncl d))) (bezelBytes (tIncl d)) else []) ++
      table i (32 * g))

/-- Blocks that K-group `g` of an MMA reads. -/
def MxJob.groupReads (c : Nat) (j : MxJob) (g : Nat) : List Nat :=
  let q := j.q.cmd
  (groupBlocks c j.da (mmM q) (mmK q) g ++ groupBlocks c j.db (mmN q) (mmK q) g).eraseDups

/-- Read the operands group by group (R125): the groups from `g` on, up to the first that meets an uncorrectable block; its number,
or `g + n` if there is none. The blocks of that group are all read, and none of the later groups' (DESIGN CHOICE, log 96). -/
def MemSt.readGroups (x : MemX) (c : Nat) (j : MxJob) : Nat → Nat → MemSt → MemSt × Nat
  | 0, g, m => (m, g)
  | n + 1, g, m =>
    let bs := j.groupReads c g
    let m := m.touchAll x bs
    if m.sound bs then m.readGroups x c j n (g + 1) else (m, g)

/-- MMA_COMPUTE_END (R111, R121 to R123, R125): the product array finishes; the tile goes to the epilogue, or with write 0 the command
is done. At an uncorrectable block the computation stops before that K-group, with the flags of the groups done. -/
def computeEndStep (c : Nat) (s : State) : State :=
  match (s.cl c).mxComp with
  | none => s
  | some j =>
    let q := j.q.cmd
    let n := kGroups (mmK q)
    let (m, g) := s.mem.readGroups s.mx c j n 0
    let fin := if g = n then j.computeEnd else j.start + g * groupCycles (tFmt j.da) (tFmt j.db) + j.conf
    let s := ({ s with mem := m }).runTo (fin * cycT)
    let cyc := s.time.ticks / cycT
    let (vals, fl) := (s.mem.product c j ((s.cl c).acc (mmBuf q)) (min (mmK q) (32 * g))).run 0
    let s := s.onCl c (fun k =>
      let k := k.rejob cyc (fun k => { k with mxComp := some { j with computeEnd := fin } })
      { k with mxComp := none, mxCompFree := fin, mxConflicts := k.mxConflicts + BitVec.ofNat 64 j.conf })
    let s := if g = n then
        let s := s.onCl c (fun k => k.setAcc (mmBuf q)
          { k.acc (mmBuf q) with m := mmM q, n := mmN q, vals := vals })
        if mmWrite q then
          let e0 := max fin (s.cl c).mxEpiFree
          let e1 := e0 + epiCycles q { a := j.da, b := j.db, c := j.dc, r := j.dr, p := j.dp }
          s.onCl c (fun k => k.rejob cyc (fun k => { k with
            mxEpi := k.mxEpi ++ [{ j with computeEnd := fin, epiStart := e0, epiEnd := e1, flags := fl }]
            mxEpiFree := e1, mxBufFree := sset 0 k.mxBufFree (mmBuf q) e1 }))
        else s.onCl c (fun k => k.mxFinish j.q stOk fl (fin * cycT))
      else
        s.onCl c (fun k => (k.setAcc (mmBuf q) { k.acc (mmBuf q) with valid := false }).mxFinish j.q stMem fl (fin * cycT))
    s.onCl c (fun k => k.startIssued cyc)

/-! ## Epilogue (R117 to R120) -/

/-- Tensor scale that stage 1 applies for an operand: 1.0 for FP16 and BF16 (R118). -/
def opScale (d : Block) : Val :=
  if fmtBlocked (tFmt d) || tFmt d == 3 || tFmt d == 4 then decode fp32 (tScale d) else vOne

/-- Stage 1 (R117): one rounding of the exact product of four values. -/
def stage1 (j : MxJob) (acc : Val) : NumM Val := do
  let x ← xMul acc (opScale j.da)
  let x ← xMul x (opScale j.db)
  let x ← xMul x (decode fp32 (mmTs j.q.cmd))
  r32 x

/-- Stages 1, 3 and 4 of one element: the value after stage 1, and the value after stage 4 (R117). -/
def epiElem (j : MxJob) (f : Option FuncView) (acc : W32) (res : Option Val) : NumM (Val × Val) := do
  let x ← stage1 j (v32 acc)
  let y ← (match f with
    | some v => evalFunc v false x
    | none => pure x)
  let z ← (match res with
    | some r => fAdd y r
    | none => pure y)
  pure (x, z)

/-- Rows of `n` of a list. -/
def chunkRows {α : Type} (n : Nat) : Nat → List α → List (List α)
  | 0, _ => []
  | m + 1, l => l.take n :: chunkRows n m (l.drop n)

/-- Write converted rows at a region: elements from `eoff` of each row and bezels from `boff` (R86, R119). -/
def MemSt.putRows (m : MemSt) (x : MemX) (owner : Nat) (base pitch eoff bbase bpitch boff : Nat) :
    Nat → List OutRow → MemSt
  | _, [] => m
  | r, o :: t =>
    let m := m.write x owner (base + r * pitch + eoff) o.elems
    let m := if o.bezels.isEmpty then m else m.write x owner (bbase + r * bpitch + boff) o.bezels
    m.putRows x owner base pitch eoff bbase bpitch boff (r + 1) t

/-- Write changed scale-table entries (R163). -/
def MemSt.putEntries (m : MemSt) (x : MemX) (owner : Nat) (d : Block) :
    List ((Nat × Nat) × Nat) → MemSt
  | [] => m
  | (ij, w) :: t =>
    let a := blockEntry d ij
    let m := if m.peekNat a 4 = w then m else m.write x owner a (leBytes w 4)
    m.putEntries x owner d t

/-- Rows converted to the format of a result in the carrel, with the scale-table entries that the write changes
(R119, R137, R163). -/
def MemSt.convertFor (m : MemSt) (d : Block) (rows : List (List Val)) :
    NumM (List OutRow × List ((Nat × Nat) × Nat)) :=
  if tDelayed d then
    convDelayed d rows ((scaleBlocks d rows.length (rows.head?.getD []).length).map
      (fun ij => (ij, m.peekNat (blockEntry d ij) 4)))
  else do
    let out ← convRows d rows
    pure (out, [])

/-- The function that stage 3 calls: none asked for, or absent (R120). -/
def Cluster.epiFunc (k : Cluster) (q : Block) : Option (Option FuncView) :=
  if mmFunc q then (sget none k.funcs (mmSlot q)).map (fun i => some i.view) else some none

/-- MMA_EPILOGUE_END (R117 to R120, R123, R125): the epilogue finishes writing its results. The slot's residency (R120) is judged
as it stands at this row, and the base of a block-scaled C is that of the whole tensor's row, at whose column origin_col the tile
starts (R109; DESIGN CHOICE both, log 96). -/
def epilogueEndStep (c : Nat) (s : State) : State :=
  match (s.cl c).mxEpi with
  | [] => s
  | j :: rest =>
    let q := j.q.cmd
    let m := mmM q
    let n := mmN q
    let s := s.runTo (j.epiEnd * cycT)
    let s := s.onCl c (fun k => { k with mxEpi := rest })
    let invalid (s : State) (st : BitVec 16) : State := s.onCl c (fun k =>
      (k.setAcc (mmBuf q) { k.acc (mmBuf q) with valid := false }).mxFinish j.q st j.flags (j.epiEnd * cycT))
    match (s.cl c).epiFunc q with
    | none => invalid s stFunc
    | some f =>
      let bs := (if mmRes q then regionBlocks c j.dr m n else []) ++ tableBlocks j.dc m n
      let s := s.onMem (fun mm => mm.touchAll s.mx bs)
      if !s.mem.sound bs then invalid s stMem
      else
        let work : NumM (List (List Val) × List OutRow × List ((Nat × Nat) × Nat)) := do
          let res ← (if mmRes q then do
              let rr ← mapF (fun r => mapF (readCode 0) (codesOf (s.mem.rowNat c j.dr n r) 32 n)) (List.range m)
              pure (some rr.flatten)
            else pure none)
          let pairs ← mapF (fun (p : Nat × W32) => epiElem j f p.2 (res.map (fun l => l.getD p.1 (.zero false))))
            (((s.cl c).acc (mmBuf q)).vals.mapIdx (fun i v => (i, v)))
          let out ← s.mem.convertFor j.dc (chunkRows n m (pairs.map (fun p => p.2)))
          pure (chunkRows n m (pairs.map (fun p => p.1)), out)
        let ((pre, outs, entries), fl) := work.run j.flags
        let (preRows, fl) := (if mmSave q then convRows j.dp pre else pure []).run fl
        let w := fmtWidth (tFmt j.dc)
        let blocked := fmtBlocked (tFmt j.dc)
        let s := s.onMem (fun mm =>
          let o := ownerCmd c .mx j.q
          let mm := mm.putRows s.mx o (carrelAt c (tBase j.dp)) (tPitch j.dp) 0 0 0 0 0 preRows
          let mm := mm.putRows s.mx o (carrelAt c (tBase j.dc)) (tPitch j.dc)
            (if blocked then tOCol j.dc * w / 8 else 0)
            (carrelAt c (tBezBase j.dc)) (tBezPitch j.dc)
            (if blocked then tOCol j.dc / 32 * bezelBytes (tIncl j.dc) else 0) 0 outs
          mm.putEntries s.mx o j.dc entries)
        s.onCl c (fun k => k.mxFinish j.q stOk fl (j.epiEnd * cycT))

/-! ## The meanings -/

def execMma (c : ClusterId) (s : State) : Host.Outcome State Fault Refusal :=
  .next (s.coreFrame (mmaStep c.val s).settle)

def execMmaComputeEnd (c : ClusterId) (s : State) : Host.Outcome State Fault Refusal :=
  .next (s.coreFrame (computeEndStep c.val s).settle)

def execMmaEpilogueEnd (c : ClusterId) (s : State) : Host.Outcome State Fault Refusal :=
  .next (s.coreFrame (epilogueEndStep c.val s).settle)

end Sys2Proof.Machine
end

