-- ==== Sys2Proof/Machine/Complete.lean ====
section
/-!
DEFINITION. Completion of commands (R195, R227), adds to clasps (R198 to R203), the release of held signals (R207),
and parking (R210, R212).
-/
namespace Sys2Proof.Machine

/-! ## COMMAND_COMPLETE -/

/-- The completion word (R227). -/
def cplWord (c : Nat) (q : QCmd) (status : BitVec 16) (flags : Flags) : W64 :=
  let own := carrelBase ≤ q.addr
  let block := if own then (q.addr - carrelAt c 0) / 64 else q.addr / 64
  BitVec.ofNat 64 (status.toNat + flags.toNat * 2 ^ 16 + b2n own * 2 ^ 26 + block * 2 ^ 27)

/-- The forwarded command that completes next (R188, R227): of those that have ended, the one due first, in issue order where two are
due together. -/
def Cluster.hubDone (k : Cluster) : Option HubCmd :=
  (least (k.hubq.filterMap (fun h => h.done.map (fun d => d.2.2)))).bind (fun n =>
    k.hubq.find? (fun h => h.done.any (fun d => d.2.2 == n)))

/-- The next command of an executor that has done its work (R195). -/
def Cluster.nextDone (k : Cluster) : Executor → Option DoneCmd
  | .mx => k.mxDone.head?
  | .vx => k.vxDone
  | .cx => k.cxDone
  | .hub => k.hubDone.bind (fun h => h.done.map (fun d => { q := h.q, status := d.1, flags := d.2.1, due := d.2.2 }))

/-- Take it out: its place is free again. -/
def Cluster.dropDone (k : Cluster) : Executor → Cluster
  | .mx => { k with mxDone := k.mxDone.tail }
  | .vx => { k with vxDone := none }
  | .cx => { k with cxDone := none }
  | .hub => { k with hubq := k.hubDone.elim k.hubq k.hubq.erase }

/-- Write the completion register of an executor (R227). -/
def Cluster.setCpl (k : Cluster) (x : Executor) (w : W64) : Cluster :=
  match x with
  | .mx => { k with cplMx := w }
  | .vx => { k with cplVx := w }
  | .cx => { k with cplCx := w }
  | .hub => { k with cplHub := w }

/-- An MMA that ends with OK leaves its buffer valid (R121). -/
def Cluster.validate (k : Cluster) (x : Executor) (q : Block) (st : BitVec 16) : Cluster :=
  if x = .mx ∧ st = stOk then k.setAcc (mmBuf q) { k.acc (mmBuf q) with valid := true } else k

/-- A forwarded command of a suspended program ends without OK (R196, R335): its task halts, and the cluster is the
one that reports. -/
def State.haltAway (s : State) (prog c : Nat) (h : HaltInfo) : State :=
  s.onPart (s.clPart c) (fun p => { p with tasks := p.tasks.map (fun t =>
    if t.live && tdSlot t.desc == prog && t.clusters.contains c then t.firstHalt c h else t) })

/-- COMMAND_COMPLETE (R65, R195, R196, R227, R280): the writes are acknowledged, the completion word is written, and the
command signals, or the folio halts. What an engine finishes for a task that has ended halts nothing. The last forwarded command
of a halted task lets it end. -/
def completeStep (c : Nat) (x : Executor) (s : State) : State :=
  match (s.cl c).nextDone x with
  | none => s
  | some d =>
    let s := s.runTo d.due
    let own := (s.cl c).prog
    let prog := if x = .hub then ((s.cl c).hubDone.map (fun h => h.prog)).getD own else own
    let (s, ok) := s.settleOwner (ownerCmd c x d.q)
    let s := s.onMem (fun m => m.grant (if x = Executor.hub then sourceHub (clusterQuad c) else c))
    let st := if d.status = stOk && !ok then stMem else d.status
    let s := s.onCl c (fun k =>
      ((k.dropDone x).setCpl x (cplWord c d.q st d.flags)).validate x d.q.cmd st)
    let s := if st = stOk then s.signalOf prog c d.q
      else if prog = own then (if (s.cl c).cur.mode = .idle then s else s.haltCluster c st d.q.addr d.flags)
      else s.haltAway prog c { code := st, cmdAddr := d.q.addr, flags := d.flags, due := s.time.ticks + 1000 * nsT }
    let s := s.onCl c (fun k => { (k.startIssued (s.time.ticks / cycT)).arm s.cycle with movedAt := s.time.ticks })
    if x = .hub then s.reap (s.clPart c) else s

/-! ## Adds -/

/-- Take the first signal in flight that meets `f` out of the list, unless an earlier one of its stream is still to be applied
(R207); `seen` are the streams of the signals before. -/
def dropSignal (f : Signal → Bool) (seen : List Stream) : List Signal → Option (List Signal)
  | [] => none
  | x :: t =>
    if f x && !x.stream.any seen.contains then some t
    else (dropSignal f (seen ++ x.stream.toList) t).map (fun r => x :: r)

/-- Signals in flight that name clasp `k` of cluster `c` with increment `n`. -/
def State.inFlight (s : State) (c k : Nat) (n : BitVec 16) : List Signal :=
  s.fabric.signals.filter (fun x => x.cluster == c && x.clasp == k && x.inc == n)

/-- CLASP_ADD (R198 to R200): the add of `n` arrives at clasp `k` of cluster `c`. A signal for a suspended program is
held (R335), and one behind another of its stream waits for it (R207). -/
def claspAddStep (c k : Nat) (n : BitVec 16) (s : State) : State :=
  let rest := dropSignal (fun x => x.cluster == c && x.clasp == k && x.inc == n && x.prog == (s.cl c).prog) [] s.fabric.signals
  if rest.isNone && !(s.inFlight c k n).isEmpty then s
  else
    let s := { s with fabric := { s.fabric with signals := rest.getD s.fabric.signals } }
    whenever (s.slotMapped (clusterSlot c) && !s.inReset (clusterQuad c)) (fun s => s.claspAdd c k n.toNat) s

/-- The host's answer to an access (R440). -/
def State.respond (s : State) (r : HostResp) : State := { s with host := { s.host with resp := r } }

/-- The hardware-backed registers of a quadrant answer: not in reset, and the slot is mapped (R58, R471). -/
def State.tileAnswers (s : State) (c : Nat) : Bool := s.slotMapped (clusterSlot c) && !s.inReset (clusterQuad c)

/-- Package address of TILE_CLASP_ADD_k (R57, R203). -/
def claspAddReg (c k : Nat) : Addr := tileBase + c * 0x100000 + 0x30100 + 4 * k

/-- TILE_CLASP_ADD (R203): a host or steward add. -/
def tileClaspAddStep (c k : Nat) (n : W32) (s : State) : State :=
  if s.tileAnswers c then (s.hostClaspAdd c k n.toNat).respond (.done 0)
  else (s.hostError 0 (claspAddReg c k)).respond .error

/-- SIGNAL_RELEASE (R207): a held signal whose data has landed goes on to its clasp. -/
def signalReleaseStep (h : Nat) (s : State) : State :=
  let hub := s.hub h
  let free := { hub with heldSignals := hub.heldSignals.filter (fun x =>
    !s.suspendedJob x.stream.dstCl.toNat x.job.toNat) }
  match free.nextSignal with
  | none => s
  | some x =>
    let s := s.onHub h (fun b => { b with heldSignals := b.heldSignals.eraseP (fun y => y == x) })
    s.releasedSignal (s.slotOfJob x.stream.dstCl.toNat x.job.toNat) x

/-! ## Parking (R210 to R212) -/

/-- PART_PARK in force: a write waits for its beat boundary (R212). -/
def State.parkReg (s : State) (p : Nat) : BitVec 32 :=
  match (s.prt p).parkNext with
  | some (b, v) => if b ≤ s.beat then v else (s.prt p).park
  | none => (s.prt p).park

/-- park_after in ns: values below 500 are taken as 500 (R212). -/
def State.parkAfter (s : State) (p : Nat) : Nat := max 500 (fld (s.parkReg p) 0 16)

/-- The conditions of R210: every engine has an empty queue or waits on a clasp, and the Curator has ended its folio or
is stopped on a wait (stopped by FENCE or TIMEAT it is not). -/
def Cluster.still (k : Cluster) : Bool :=
  let idle (q : List QCmd) (w : Waiting) : Bool := q.isEmpty || k.waiters.any (fun x => x.who == w)
  k.mxIssued.isNone && k.mxComp.isNone && k.mxEpi.isEmpty && k.mxDone.isEmpty && k.vxDone.isNone && k.cxDone.isNone && k.load.isNone &&
  idle k.mxq .mx && idle k.vxq .vx && idle k.cxq .cx &&
  (match k.cur.mode with
   | .idle => true
   | .ending => true
   | .stopWait => true
   | _ => false)

/-- CLUSTER_PARK (R210, R212): the conditions have held for park_after since the event that brought the cluster to rest. -/
def parkStep (c : Nat) (s : State) : State :=
  let p := s.clPart c
  let k := s.cl c
  if k.still && !k.parked && bit (s.parkReg p) 16 && s.mayRun c then
    let s := s.runTo (k.movedAt + s.parkAfter p * nsT)
    s.onCl c (fun k => { k with parked := true, wake := false })
  else s

/-- CLUSTER_WAKE (R210): an add, a halt or a slot switch has come; the cluster runs again, and every pending wait is
evaluated. -/
def wakeStep (c : Nat) (s : State) : State :=
  let k := s.cl c
  if k.parked && k.wake then
    let k := { k with parked := false, wake := false, movedAt := s.time.ticks }
    s.setCl c ((List.range 48).foldl (fun k i => k.evaluate s.cycle i) k)
  else s

/-! ## The meanings -/

/-- What a completion or an add changes. -/
def State.doneFrame (s t : State) : State :=
  { s with mem := t.mem, clusters := t.clusters, time := t.time, fabric := t.fabric, panel := t.panel,
           parts := t.parts, host := t.host, red := { s.red with hubs := t.red.hubs }
           stw := { s.stw with events := t.stw.events, errlog := t.stw.errlog }
           reset_ := { s.reset_ with fcBeyond := t.reset_.fcBeyond } }

def execCommandComplete (c : ClusterId) (x : Executor) (s : State) : Host.Outcome State Fault Refusal :=
  .next (s.taskFrame (completeStep c.val x s).settle)

def execClaspAdd (c : ClusterId) (k : ClaspId) (n : BitVec 16) (s : State) : Host.Outcome State Fault Refusal :=
  .next (s.doneFrame (claspAddStep c.val k.val n s))

def execTileClaspAdd (c : ClusterId) (k : ClaspId) (n : W32) (s : State) : Host.Outcome State Fault Refusal :=
  .next (s.doneFrame (tileClaspAddStep c.val k.val n s))

def execSignalRelease (h : Quad) (s : State) : Host.Outcome State Fault Refusal :=
  .next (s.doneFrame (signalReleaseStep h.val s))

def execClusterPark (c : ClusterId) (s : State) : Host.Outcome State Fault Refusal :=
  .next (s.coreFrame (parkStep c.val s))

def execClusterWake (c : ClusterId) (s : State) : Host.Outcome State Fault Refusal :=
  .next (s.coreFrame (wakeStep c.val s))

end Sys2Proof.Machine
end

