-- ==== Sys2Proof/Machine/Hub.lean ====
section
/-!
DEFINITION. Forwarded commands at their hub (R188, R253): which one a hub takes next, and how it ends.
-/
namespace Sys2Proof.Machine

/-- Change the first member of a list that `p` accepts. -/
def onFirst {α : Type} (p : α → Bool) (f : α → α) : List α → List α
  | [] => []
  | a :: t => if p a then f a :: t else a :: onFirst p f t

/-- A forwarded command of opcode `op` that the hub has not begun. -/
def HubCmd.fresh (op : Nat) (h : HubCmd) : Bool := !h.started && h.done.isNone && hOpcode h.q.cmd == op

/-- A forwarded command of opcode `op` that the hub has begun and not ended. -/
def HubCmd.under (op : Nat) (h : HubCmd) : Bool := h.started && h.done.isNone && hOpcode h.q.cmd == op

/-- The oldest forwarded command of cluster `c` of opcode `op` that the hub has not begun (R187, R188). -/
def State.hubNext (s : State) (c op : Nat) : Option HubCmd :=
  if s.inReset (clusterQuad c) then none else (s.cl c).hubq.find? (HubCmd.fresh op)

/-- The hub begins it. -/
def State.startHub (s : State) (c op : Nat) : State :=
  s.onCl c (fun k => { k with hubq := onFirst (HubCmd.fresh op) (fun h => { h with started := true }) k.hubq })

/-- The hub begins it and it ends at once, with a status, numeric flags, and the clock of its completion. -/
def State.endHub (s : State) (c op : Nat) (st : BitVec 16) (fl : Flags := 0) : State :=
  let due := s.time.ticks
  let f := fun (h : HubCmd) => { h with started := true, done := some (st, fl, due) }
  s.onCl c (fun k => { k with hubq := onFirst (HubCmd.fresh op) f k.hubq })

/-- A command that sends to another package is under way, its outcome known: it ends when its last packet has left the hub (R245, R248,
R249). -/
def State.sentHub (s : State) (c op : Nat) (st : BitVec 16) (fl : Flags := 0) : State :=
  let f := fun (h : HubCmd) => { h with started := true, sent := some (st, fl) }
  (s.onCl c (fun k => { k with hubq := onFirst (HubCmd.fresh op) f k.hubq })).settleSends

/-- A command under way that `p` names ends. -/
def State.finishHub (s : State) (c : Nat) (p : HubCmd → Bool) (st : BitVec 16) (fl : Flags) (due : Nat) : State :=
  s.onCl c (fun k => { k with hubq := onFirst p (fun h => { h with done := some (st, fl, due) }) k.hubq })

/-- The partition whose hubs execute a command of cluster `c`, and the task that dispatched it. -/
def State.taskOfHub (s : State) (c : Nat) (h : HubCmd) : Option Task := s.progTask h.prog c
def State.jobOfHub (s : State) (c : Nat) (h : HubCmd) : Nat := s.jobOf h.prog c

/-- The task that dispatched a command runs under step control (R218). -/
def State.stepCtl (s : State) (c : Nat) (h : HubCmd) : Bool := (s.taskOfHub c h).any (fun t => tdStep t.desc)

/-- Bit field [lo + len - 1 : lo] of word `k` is zero (R228). -/
def wz (q : Block) (k lo len : Nat) : Bool := wfld q k lo len == 0

/-- Words `lo` to 15 of a command are zero (R228). -/
def wordsFrom (q : Block) (lo : Nat) : Bool := nfld q.toNat (32 * lo) (512 - 32 * lo) == 0

end Sys2Proof.Machine
end

