-- ==== Sys2Proof/Machine/Update.lean ====
section
/-!
DEFINITION. Parameter update in the hubs (R391 to R411) and the storage rules it uses (R175 to R179): update
descriptors, the checks of a binding, the four rules, the apply of an element, the close of a binding, and the
installation of preconditioners.
-/
namespace Sys2Proof.Machine

/-! ## Update descriptors (R391, R392) -/

/-- A configuration of an update descriptor. -/
abbrev UCfg := BitVec 1024

def uRule (c : UCfg) : Nat := fld c 0 2
def uRow (c : UCfg) : Bool := bit c 2
def uFrozen (c : UCfg) : Bool := bit c 3
def uNesterov (c : UCfg) : Bool := bit c 4
def uShadowOn (c : UCfg) : Bool := bit c 5
def uMasterFmt (c : UCfg) : Nat := fld c 8 4
def uShadowFmt (c : UCfg) : Nat := fld c 12 4
def uMomentFmt (c : UCfg) : Nat := fld c 16 4
def uCount (c : UCfg) : Nat := fld c 32 32
def uWidth (c : UCfg) : Nat := fld c 64 16
def uMaster (c : UCfg) : Addr := fld c 96 48
def uShadow (c : UCfg) : Addr := fld c 144 48
def uM1 (c : UCfg) : Addr := fld c 192 48
def uM2 (c : UCfg) : Addr := fld c 240 48
def uAux (c : UCfg) : Addr := fld c 288 48
def uRowState (c : UCfg) : Addr := fld c 336 48
def uLr (c : UCfg) : W32 := BitVec.ofNat 32 (fld c 384 32)
def uBeta1 (c : UCfg) : W32 := BitVec.ofNat 32 (fld c 416 32)
def uBeta2 (c : UCfg) : W32 := BitVec.ofNat 32 (fld c 448 32)
def uEps (c : UCfg) : W32 := BitVec.ofNat 32 (fld c 480 32)
def uWd (c : UCfg) : W32 := BitVec.ofNat 32 (fld c 512 32)
def uGscale (c : UCfg) : W32 := BitVec.ofNat 32 (fld c 544 32)
def uTscale (c : UCfg) : W32 := BitVec.ofNat 32 (fld c 576 32)

/-- Rules by number (R391). -/
def ruMomentum : Nat := 0
def ruAdamw : Nat := 1
def ruSign : Nat := 2
def ruBlockpre : Nat := 3

/-- The state part of a descriptor (R392). -/
abbrev UState := BitVec 512

def ustLast (u : UState) : Nat := fld u 0 64
def ustCount (u : UState) : Nat := fld u 64 64
/-- Shift of array `k` (0: m1, 1: m2), read or write (R177), as a signed number. -/
def ustShift (u : UState) (k : Nat) (write : Bool) : Int :=
  (BitVec.ofNat 8 (fld u (128 + 16 * k + (if write then 8 else 0)) 8)).toInt
def ustSel (u : UState) : Nat := fld u 160 1
def ustPending (u : UState) : Bool := bit u 161
def ustInstalled (u : UState) : Nat := fld u 192 32

/-- Bytes of an element of a format. -/
def fmtBytes (f : Nat) : Nat := fmtWidth f / 8

/-- Parameters that a configuration covers (R391). -/
def uElems (c : UCfg) : Nat := if uRow c then uCount c * uWidth c else uCount c

/-- An FP8 format code. -/
def fp8Code (f : Nat) : Bool := f == 3 || f == 4

/-- Does the rule use the array: m2, aux, rowstate (R391). -/
def usesM2 (c : UCfg) : Bool := uRule c == ruAdamw || uRule c == ruBlockpre
def usesAux (c : UCfg) : Bool := uRule c == ruBlockpre || (uRow c && uMasterFmt c == 2)

/-- The arrays of a region as (base, bytes), of bases that are not 0 (R391, R401). -/
def uSpans (c : UCfg) : List (Addr × Nat) :=
  let n := uElems c
  ([(uMaster c, n * fmtBytes (uMasterFmt c)), (uM1 c, n * fmtBytes (uMomentFmt c)),
    (uShadow c, if uShadowOn c then n * fmtBytes (uShadowFmt c) else 0),
    (uM2 c, if uRule c = ruBlockpre then n / 8 * 256 else if uRule c = ruAdamw then n * fmtBytes (uMomentFmt c) else 0),
    (uAux c, if uRule c = ruBlockpre then n / 8 * 512 else if usesAux c then 2 * n else 0),
    (uRowState c, if uRow c then 4 * uCount c else 0)]).filter (fun x => x.1 != 0 && x.2 != 0)

/-- A base is used or zero, and a multiple of 64 (R391, R393). -/
def baseOk (used : Bool) (a : Addr) : Bool := (a != 0) == used && a % 64 == 0

/-- Finite FP32; in [0, 1); positive and finite (R394). -/
def w32Finite (w : W32) : Bool := vFinite (v32 w)
def w32Unit (w : W32) : Bool := vIsZero (v32 w) || (w32Finite w && !bit w 31 && vLt (v32 w) vOne)
def w32Positive (w : W32) : Bool := w32Finite w && !vIsZero (v32 w) && !bit w 31

/-- R394. -/
def hyperOk (c : UCfg) : Bool :=
  w32Finite (uLr c) && w32Finite (uWd c) && w32Finite (uGscale c) && !vIsZero (v32 (uGscale c)) && w32Unit (uBeta1 c) &&
  (uRule c == ruMomentum || w32Unit (uBeta2 c)) && (uRule c != ruAdamw || w32Positive (uEps c)) &&
  (!(uShadowOn c && fp8Code (uShadowFmt c)) || scaleOk (uTscale c).toNat)

/-- The checks of R393 and R394 on a configuration that do not involve a context. -/
def cfgGood (c : UCfg) : Bool :=
  let row := uRow c
  fld c 6 2 == 0 && fld c 20 12 == 0 && fld c 80 16 == 0 && fld c 608 416 == 0 &&
  (uMasterFmt c == 0 || (row && uMasterFmt c == 2)) && [0, 2, 3, 4].contains (uMomentFmt c) &&
  (if uShadowOn c then [1, 2, 3, 4].contains (uShadowFmt c) else uShadowFmt c == 0) &&
  (uRule c != ruBlockpre || (!row && uCount c % 8 == 0)) && 1 ≤ uCount c && ((1 ≤ uWidth c : Bool) == row) &&
  baseOk true (uMaster c) && baseOk true (uM1 c) && baseOk (uShadowOn c) (uShadow c) && baseOk (usesM2 c) (uM2 c) &&
  baseOk (usesAux c) (uAux c) && baseOk row (uRowState c) &&
  (uRule c != ruMomentum || uBeta2 c == 0) && (uRule c == ruAdamw || uEps c == 0) &&
  ((uShadowOn c && fp8Code (uShadowFmt c)) || uTscale c == 0) && hyperOk c

/-! ## Bindings -/

def State.bindings (s : State) : List Binding := s.red.bindings
def State.setBindings (s : State) (l : List Binding) : State := { s with red := { s.red with bindings := l } }
def State.setBinding (s : State) (b : Binding) : State :=
  s.setBindings (s.bindings.map (fun x => if x.id = b.id then b else x))
def State.dropBinding (s : State) (b : Binding) : State := s.setBindings (s.bindings.filter (fun x => x.id != b.id))

/-- An incomplete binding that other bindings of its descriptor wait for (R393). -/
def Binding.holds (b : Binding) : Bool := !b.skewed && (b.st == .bound || b.st == .closing)

/-- Count an event in every hub of a partition (R415). -/
def State.updCount (s : State) (p : Nat) (f : HubSt → HubSt) : State := (s.quads p).foldl (fun s h => s.onHub h f) s
def HubSt.incDescBad (b : HubSt) : HubSt := { b with descBad := satAdd b.descBad 1 }
def HubSt.incDropped (b : HubSt) : HubSt := { b with dropped := satAdd b.dropped 1 }
def HubSt.incFrozen (b : HubSt) : HubSt := { b with frozenNoop := satAdd b.frozenNoop 1 }

/-- A STEP_SKEW refusal of descriptor `d` with expected step `e` and header step `v` (R407, R415, R416). -/
def HubSt.skew (b : HubSt) (d : Addr) (e : Nat) (v : BitVec 20) : HubSt :=
  let b := { b with stepSkew := satAdd b.stepSkew 1 }
  if bit b.skewLog0 48 then b
  else { b with skewLog0 := BitVec.ofNat 64 (d % 2 ^ 48 + 2 ^ 48)
                skewLog1 := BitVec.ofNat 64 (e % 2 ^ 32 + v.toNat * 2 ^ 32) }

/-- The command of a binding ends, and the binding with it. -/
def State.updEnd (s : State) (b : Binding) (st : BitVec 16) (due : Nat) : State :=
  (s.finishHub b.cluster (fun h => h.under 0xE0 && h.q.addr == b.cmdAddr && h.prog == b.prog) st b.flags due).dropBinding b

/-- A refused binding (R393): the command ends, and the context is free for another. -/
def State.updRefuse (s : State) (b : Binding) (st : BitVec 16) : State :=
  let s := match s.ctx? b.job.toNat 0 b.ctx.toNat with
    | some c => if b.ended.isNone then s.setCtx { c with bound := false } else s
    | none => s
  let s := if st = stDesc then s.updCount b.part HubSt.incDescBad else s
  s.updEnd b st s.time.ticks

/-! ## The checks of a binding (R393) -/

/-- The step record of a program of a partition. -/
def State.srec (s : State) (p prog : Nat) : StepRec := ((s.prt p).prog prog).srec
def State.onSrec (s : State) (p prog : Nat) (f : StepRec → StepRec) : State :=
  s.onPart p (fun t => t.onProg prog (fun g => { g with srec := f g.srec }))

/-- Operands of UPD_APPLY (R251). -/
def uaCtx (q : Block) : Nat := wfld q 5 0 12
def uaDesc (q : Block) : Addr := addrPair q 6
def uaRows (q : Block) : Addr := addrPair q 8
def uaRowCount (q : Block) : Nat := cmdWord q 10

/-- The row list as numbers. -/
def rowsOf (bs : List Byte) (n : Nat) : List Nat := (List.range n).map (fun i => leNat ((bs.drop (4 * i)).take 4))

/-- Strictly increasing. -/
def rising : List Nat → Bool
  | a :: b :: t => a < b && rising (b :: t)
  | _ => true

/-- The cases of DESC_BAD (R393). -/
def State.descBad (s : State) (b : Binding) (c : UCfg) (rows : List Nat) : Bool :=
  let q := b.cmd
  !cfgGood c || b.desc % 64 != 0 || (uRule c == ruBlockpre && !s.feature featBlockpre) ||
  (if uRow c then uaRows q == 0 || rows.isEmpty || !rising rows || rows.any (fun r => uCount c ≤ r) ||
      b.elements != rows.length * uWidth c
   else b.elements != uCount c || uaRows q != 0 || uaRowCount q != 0) ||
  (b.stepCtl && b.result == 0) ||
  s.bindings.any (fun x => x.id != b.id && x.desc == b.desc && x.holds && x.hstep == b.hstep)

/-- What the checks of a binding find: a status, or the binding with what it read. One that a commit found waiting keeps the configuration
that was active before it (R404). -/
def State.bindCheck (s : State) (b : Binding) : State × (BitVec 16 × Binding) :=
  let q := b.cmd
  let n := uaRowCount q
  if !s.rangeOk b.part b.desc 320 || (n != 0 && !s.rangeOk b.part (uaRows q) (4 * n)) then (s, stAddr, b)
  else
    let (s, r) := s.hubRead b.job.toNat b.desc 320
    match r with
    | none => (s, stMem, b)
    | some bs =>
      let c : UCfg := b.kept.getD (BitVec.ofNat 1024 (leNat (bs.take 128)))
      let u : UState := BitVec.ofNat 512 (leNat (bs.drop 256))
      if !(uSpans c).all (fun x => s.rangeOk b.part x.1 x.2) then (s, stAddr, b)
      else
        let (s, r) := if n = 0 then (s, some ([] : List Byte)) else s.hubRead b.job.toNat (uaRows q) (4 * n)
        match r with
        | none => (s, stMem, b)
        | some l =>
          let rows := rowsOf l n
          let e := (ustLast u + 1) % 2 ^ 64
          let b := { b with cfg := c, ust := u, rows := rows, step := BitVec.ofNat 64 e,
                            lexp := (s.srec b.part b.prog).lexp, st := .bound }
          if s.descBad b c rows then (s, stDesc, b)
          else if b.hstep.toNat = e % 2 ^ 20 then (s, stOk, b)
          else (s, stSkew, b)

/-! ## Storage of moments (R175 to R177) -/

/-- The shift in force: 0 for an FP32 array and for a ROW region (R175). -/
def Binding.shift (b : Binding) (k : Nat) (write : Bool) : Int :=
  if uMomentFmt b.cfg = 0 ∨ uRow b.cfg then 0 else ustShift b.ust k write

def momentFmt (c : UCfg) : Fmt := (fmtOf (uMomentFmt c)).getD fp32

/-- A stored moment as the rules read it (R175). -/
def Binding.loadMoment (b : Binding) (k : Nat) (code : Nat) : NumM Val :=
  do fMul (← readVal (decode (momentFmt b.cfg) code)) (vPow (-(b.shift k false)))

/-- A moment as it is stored, and whether it was clamped (R175, R176). -/
def Binding.storeMoment (b : Binding) (k : Nat) (m : Val) : NumM (Nat × Nat) := do
  let f := momentFmt b.cfg
  if uMomentFmt b.cfg = 0 then pure ((code32 m).toNat, 0)
  else if vIsNan m then pure (nanCode f, 0)
  else
    let g := b.shift k true
    let top := decode f f.top
    let (x, _) := vMul m (vPow g)
    if vLt top (vAbs x) then pure (signed f (vSign m) f.top, 1)
    else do
      let c ← roundTo f false x
      pure (c, 0)

/-- Magnitude code of a moment for A (R177): a NaN takes no part. -/
def magCode (m : Val) : W32 := if vIsNan m then 0 else code32 (vAbs m)

def maxCode (a b : W32) : W32 := if a.toNat < b.toNat then b else a

/-! ## The rules (R395, R398) -/

/-- The gradient of a result (R395). -/
def Binding.grad (b : Binding) (r : W32) : NumM Val := do
  let v ← readVal (v32 r)
  let x ← if b.stepCtl then fMul v (vPow (127 - (b.lexp.toNat : Int))) else pure v
  fMul x (v32 (uGscale b.cfg))

/-- Bits of `t` from its most significant set bit down. -/
def bitsDown (t : Nat) : List Bool := if t = 0 then [] else ((List.range (Nat.log2 t + 1)).reverse).map t.testBit

/-- powt of R398. -/
def powt (b : Val) (t : Nat) : NumM Val :=
  foldF (fun r one => do
    let r ← fMul r r
    if one then fMul r b else pure r) vOne (bitsDown t)

/-- What a rule gives: the factor of −lr, the new first moment, and the second where there is one. -/
structure RuleOut where
  dir : Val
  m1  : Val
  m2  : Option Val

/-- round32(1 − x), the constants c1 and c2 (R398). -/
def oneMinus (w : W32) : NumM Val := fSub vOne (v32 w)

/-- MOMENTUM, ADAMW and SIGN (R398) on one element: gradient, master, moments, and ADAMW's t. -/
def rule (c : UCfg) (g w m v : Val) (t : Nat) : NumM RuleOut := do
  let b1 := v32 (uBeta1 c)
  let b2 := v32 (uBeta2 c)
  let wd := v32 (uWd c)
  if uRule c = ruMomentum then do
    let gd ← fFma wd w g
    let m' ← fFma b1 m gd
    let d ← if uNesterov c then fFma b1 m' gd else pure m'
    pure { dir := d, m1 := m', m2 := none }
  else if uRule c = ruAdamw then do
    let c1 ← oneMinus (uBeta1 c)
    let c2 ← oneMinus (uBeta2 c)
    let m' ← fFma b1 m (← fMul c1 g)
    let v' ← fFma b2 v (← fMul c2 (← fMul g g))
    let bc1 ← fSub vOne (← powt b1 t)
    let bc2 ← fSub vOne (← powt b2 t)
    let root ← r32 (← xSqrt (← fDiv v' bc2))
    let u ← fDiv (← fDiv m' bc1) (← fAdd root (v32 (uEps c)))
    let d ← fAdd u (← fMul wd w)
    pure { dir := d, m1 := m', m2 := some v' }
  else do
    let c1 ← oneMinus (uBeta1 c)
    let c2 ← oneMinus (uBeta2 c)
    let x ← fFma b1 m (← fMul c1 g)
    let sg : Val := if vIsNan x then .nan else if vIsZero x then .zero false else if vSign x then vNeg vOne else vOne
    let m' ← fFma b2 m (← fMul c2 g)
    let d ← fAdd sg (← fMul wd w)
    pure { dir := d, m1 := m', m2 := none }

/-- ulp of a BF16 master (R178). -/
def ulpB (w : Val) : Int :=
  match w with
  | .num .. => max (vLog2 w) (-126) - 7
  | _ => -133

/-- A BF16 master and its filing after an update Δ (R179). -/
def filed (w : Val) (f : Int) (delta : Val) : NumM (Nat × Int) := do
  let (x, _) := vMul (vInt f) (vPow (ulpB w - 15))
  let t ← fAdd x delta
  let y ← xAdd w t
  let code ← roundTo bf16 false y
  let w' := decode bf16 code
  if vFinite w' then
    let (d, _) := vAdd y (vNeg w')
    let (z, _) := vMul d (vPow (15 - ulpB w'))
    pure (code, vRne z)
  else pure (code, 0)

/-- The shadow of a master (R400). -/
def shadowOf (c : UCfg) (w : Val) : NumM Nat :=
  match fmtOf (uShadowFmt c) with
  | none => pure 0
  | some f => do
    let x ← if fp8Code (uShadowFmt c) then xDiv w (v32 (uTscale c)) else pure w
    roundTo f false x

/-! ## Applying an element or a group -/

/-- Parameter number of context element `i` (R391, R406), and its row. -/
def Binding.param (b : Binding) (i : Nat) : Nat :=
  if uRow b.cfg then b.rows.getD (i / uWidth b.cfg) 0 * uWidth b.cfg + i % uWidth b.cfg else i
def Binding.rowOf (b : Binding) (i : Nat) : Nat := b.rows.getD (i / uWidth b.cfg) 0

/-- Read numbers of `n` bytes at each address; none at the first that meets a bus error (R277). -/
def State.readNats (s : State) (job n : Nat) : List Addr → State × Option (List Nat)
  | [] => (s, some [])
  | a :: t =>
    match s.hubRead job a n with
    | (s, none) => (s, none)
    | (s, some bs) => match s.readNats job n t with
      | (s, none) => (s, none)
      | (s, some l) => (s, some (leNat bs :: l))

/-- Write numbers of `n` bytes each at their addresses; false if a write was not done (R280). -/
def State.writeNats (s : State) (job o n : Nat) : List (Addr × Nat) → State × Bool
  | [] => (s, true)
  | x :: t =>
    let (s, ok) := s.hubWrite job o x.1 (leBytes x.2 n)
    let (s, ok') := s.writeNats job o n t
    (s, ok && ok')

/-- Writes of several widths in order. -/
def State.writeParts (s : State) (job o : Nat) : List (Nat × List (Addr × Nat)) → State × Bool
  | [] => (s, true)
  | x :: t =>
    let (s, ok) := s.writeNats job o x.1 x.2
    let (s, ok') := s.writeParts job o t
    (s, ok && ok')

/-- The hub that applies context element `i` (R397): the one that rounds its chunk, or, at a member that is not its final home, the one at
position h mod n. -/
def Binding.hubOf (b : Binding) (i : Nat) : Nat := (((b.chunks.zip b.hubs).find? (fun x => x.1 == i / 256)).map (fun x => x.2)).getD b.part

/-- The address of parameter `p` in an array of a format. -/
def elemAt (base : Addr) (fmt p : Nat) : Addr := base + fmtBytes fmt * p

/-- A signed 16-bit filing from its code, and back (R178). -/
def filingOf (n : Nat) : Int := (BitVec.ofNat 16 n).toInt
def filingCode (f : Int) : Nat := (BitVec.ofInt 16 f).toNat

/-- Apply the rule to element `i` with result `r` (R396, R398, R400, R406); none on a bus error (R465). -/
def State.applyElem (s : State) (b : Binding) (i : Nat) (r : W32) : State × Option Binding :=
  let c := b.cfg
  let p := b.param i
  let mf := uMasterFmt c
  let of_ := uMomentFmt c
  let adam := uRule c == ruAdamw
  let bf := uRow c && mf == 2
  let (s, w) := s.readNats b.job.toNat (fmtBytes mf) [elemAt (uMaster c) mf p]
  let (s, m) := s.readNats b.job.toNat (fmtBytes of_) ([elemAt (uM1 c) of_ p] ++ (if adam then [elemAt (uM2 c) of_ p] else []))
  let (s, k) := s.readNats b.job.toNat 4 (if uRow c && adam then [uRowState c + 4 * b.rowOf i] else [])
  let (s, f) := s.readNats b.job.toNat 2 (if bf then [uAux c + 2 * p] else [])
  match w, m, k, f with
  | some w, some m, some k, some f =>
    let t := (if uRow c then k.headD 0 else ustCount b.ust) + 1
    let prog : NumM (Nat × Option Int × Option Nat × RuleOut × (Nat × Nat) × (Nat × Nat)) := do
      let g ← b.grad r
      let wv ← readVal (decode ((fmtOf mf).getD fp32) (w.headD 0))
      let m1 ← b.loadMoment 0 (m.headD 0)
      let m2 ← if adam then b.loadMoment 1 (m.getD 1 0) else pure (.zero false)
      let o ← rule c g wv m1 m2 t
      let nlr := vNeg (v32 (uLr c))
      let (code, fi) ← (if bf then do
          let delta ← fMul nlr o.dir
          let (code, fi) ← filed wv (filingOf (f.headD 0)) delta
          pure (code, some fi)
        else do
          let x ← fFma nlr o.dir wv
          pure ((code32 x).toNat, none))
      let sh ← if uShadowOn c then do
          let x ← shadowOf c (decode ((fmtOf mf).getD fp32) code)
          pure (some x) else pure none
      let a ← b.storeMoment 0 o.m1
      let d ← match o.m2 with
        | some x => b.storeMoment 1 x
        | none => pure (0, 0)
      pure (code, fi, sh, o, a, d)
    let ((code, fi, sh, o, a, d), fl) := prog.run 0
    let (s, ok) := s.writeParts b.job.toNat (ownerHub (b.hubOf i))
      [(fmtBytes mf, [(elemAt (uMaster c) mf p, code)]),
       (2, fi.elim [] (fun x => [(uAux c + 2 * p, filingCode x)])),
       (fmtBytes (uShadowFmt c), sh.elim [] (fun x => [(elemAt (uShadow c) (uShadowFmt c) p, x)])),
       (fmtBytes of_, (elemAt (uM1 c) of_ p, a.1) :: (if adam then [(elemAt (uM2 c) of_ p, d.1)] else []))]
    let b := { b with flags := b.flags ||| fl, clamps := b.clamps + a.2 + d.2, amax1 := maxCode b.amax1 (magCode o.m1),
                      amax2 := maxCode b.amax2 (o.m2.elim 0 magCode) }
    (s, if ok then some b else none)
  | _, _, _, _ => (s, none)

/-- Entry (i, j) of an 8 × 8 matrix of FP32 words, row-major (R401). -/
def mat8 (l : List Nat) (i j : Nat) : Val := v32 (BitVec.ofNat 32 (l.getD (8 * i + j) 0))

/-- Exact sum of a list of values with what it flags (R74, R82): two infinities of opposite sign are invalid whatever else is summed. -/
def exactSum (l : List Val) : NumM Val :=
  match l with
  | [] => pure (.zero false)
  | a :: t => do
    setFIf (l.contains (.inf false) && l.contains (.inf true)) fNanProd
    foldF xAdd a t

/-- Addresses of the 64 words of a matrix. -/
def matAt (base : Addr) : List Addr := (List.range 64).map (fun i => base + 4 * i)

/-- BLOCKPRE on group `k` (R398, R401), with the eight results. -/
def State.applyGroup (s : State) (b : Binding) (k : Nat) (rs : List W32) : State × Option Binding :=
  let c := b.cfg
  let of_ := uMomentFmt c
  let ps := span (8 * k) 8
  let sAt := uM2 c + 256 * k
  let pAt := uAux c + 512 * k + 256 * ustSel b.ust
  let (s, w) := s.readNats b.job.toNat 4 (ps.map (elemAt (uMaster c) 0))
  let (s, m) := s.readNats b.job.toNat (fmtBytes of_) (ps.map (elemAt (uM1 c) of_))
  let (s, st) := s.readNats b.job.toNat 4 (matAt sAt)
  let (s, pm) := s.readNats b.job.toNat 4 (matAt pAt)
  match w, m, st, pm with
  | some w, some m, some st, some pm =>
    let b2 := v32 (uBeta2 c)
    let idx := List.range 8
    let prog : NumM (List Nat × List (Option Nat) × List Val × List (Nat × Nat) × List Nat) := do
      let c1 ← oneMinus (uBeta1 c)
      let c2 ← oneMinus (uBeta2 c)
      let gs ← mapF b.grad rs
      let g (i : Nat) : Val := gs.getD i (.zero false)
      let ms ← mapF (fun i => do
        let x ← b.loadMoment 0 (m.getD i 0)
        fFma (v32 (uBeta1 c)) x (← fMul c1 (g i))) idx
      let ss ← mapF (fun ij => do
        let x ← fMul c2 (← fMul (g (ij / 8)) (g (ij % 8)))
        let y ← fFma b2 (← readVal (mat8 st (ij / 8) (ij % 8))) x
        pure (code32 y).toNat) (List.range 64)
      let ws ← mapF (fun i => do
        let terms ← mapF (fun j => do xMul (← readVal (mat8 pm i j)) (ms.getD j (.zero false))) idx
        let u ← r32 (← exactSum terms)
        let wv ← readVal (v32 (BitVec.ofNat 32 (w.getD i 0)))
        let d ← fAdd u (← fMul (v32 (uWd c)) wv)
        let x ← fFma (vNeg (v32 (uLr c))) d wv
        pure (code32 x).toNat) idx
      let sh ← mapF (fun i => if uShadowOn c then do
          let x ← shadowOf c (v32 (BitVec.ofNat 32 (ws.getD i 0)))
          pure (some x) else pure none) idx
      let a ← mapF (b.storeMoment 0) ms
      pure (ws, sh, ms, a, ss)
    let ((ws, sh, ms, a, ss), fl) := prog.run 0
    let (s, ok) := s.writeParts b.job.toNat (ownerHub (b.hubOf (8 * k)))
      [(4, (ps.map (elemAt (uMaster c) 0)).zip ws),
       (fmtBytes (uShadowFmt c), (ps.zip sh).filterMap (fun x => x.2.map (fun y =>
         (elemAt (uShadow c) (uShadowFmt c) x.1, y)))),
       (fmtBytes of_, (ps.map (elemAt (uM1 c) of_)).zip (a.map (fun x => x.1))),
       (4, (matAt sAt).zip ss)]
    let b := { b with flags := b.flags ||| fl, clamps := b.clamps + (a.map (fun x => x.2)).foldl (· + ·) 0,
                      amax1 := ms.foldl (fun x y => maxCode x (magCode y)) b.amax1 }
    (s, if ok then some b else none)
  | _, _, _, _ => (s, none)

/-- Apply the values at hand, each element or whole group once (R396, R397): the state, the binding with what is left
over, and whether every read and write succeeded. -/
def State.applyAll (s : State) (b : Binding) (vals : Sparse (Option W32)) : State × Binding × Bool :=
  if uFrozen b.cfg then (s, { b with held := [] }, true)
  else if uRule b.cfg = ruBlockpre then
    let full := ((vals.map (fun x => x.1 / 8)).eraseDups).filter (fun k =>
      (span (8 * k) 8).all (fun i => (sget none vals i).isSome))
    full.foldl (fun (x : State × Binding × Bool) k =>
      if !x.2.2 then x
      else match x.1.applyGroup x.2.1 k ((span (8 * k) 8).map (fun i => (sget none vals i).getD 0)) with
        | (s, some b) => (s, b, true)
        | (s, none) => (s, x.2.1, false))
      (s, { b with held := skeep (fun i _ => !full.contains (i / 8)) vals }, true)
  else
    vals.foldl (fun (x : State × Binding × Bool) v =>
      if !x.2.2 then x
      else match v.2 with
        | none => x
        | some r => match x.1.applyElem x.2.1 v.1 r with
          | (s, some b) => (s, b, true)
          | (s, none) => (s, x.2.1, false))
      (s, { b with held := [] }, true)

/-! ## Serving bindings (R396, R408, R411) -/

/-- The binding takes what its context has rounded, and how the context ended (R251, R396). -/
def State.pull (s : State) (b : Binding) : State × Binding :=
  if b.ended.isSome then (s, b)
  else match s.ctx? b.job.toNat 0 b.ctx.toNat with
    | none => (s, b)
    | some c =>
      let held := c.held.foldl (fun h x => sset none h x.1 x.2) b.held
      let b := { b with held := if c.st = .failed then [] else held
                        ended := if c.st = .open_ then none else some c.st }
      (s.setCtx { c with held := [] }, b)

/-- A binding outside step control (R396, R408, R411): it applies what is rounded; it closes when the context is
complete, and ends when the context has failed or an access met a bus error. -/
def State.serve (s : State) (b : Binding) : State :=
  if b.st != .bound || b.stepCtl then s
  else
    let (s, b) := s.pull b
    let (s, b, ok) := s.applyAll b b.held
    let s := s.setBinding b
    if !ok then s.updEnd b stMem s.time.ticks
    else match b.ended with
      | some .failed => (s.updCount b.part HubSt.incDropped).updEnd b stCtxFailed s.time.ticks
      | some _ => s.setBinding { b with st := .closing, due := s.time.ticks }
      | none => s

/-- Serve every binding outside step control. -/
def State.serveAll (s : State) : State := s.bindings.foldl State.serve s

/-- A context is freed while bindings name it: they keep what it held and how it ended (R353, R411). -/
def State.unlink (s : State) (c : Ctx) : State :=
  s.setBindings (s.bindings.map (fun b =>
    if b.ended.isNone && !c.registrar && b.job == c.job && b.ctx == c.ctx then
      { b with ended := some c.st, held := if b.stepCtl then [] else c.held.foldl (fun h x => sset none h x.1 x.2) b.held }
    else b))

/-- The elements of a binding's chunks, rising (R397). -/
def Binding.elems (b : Binding) : List Nat := b.chunks.flatMap (fun h => span (256 * h) (min 256 (b.elements - 256 * h)))

/-- The results held in memory for a binding under step control (R396); none on a bus error. -/
def State.heldResults (s : State) (b : Binding) : State × Option (Sparse (Option W32)) :=
  if uFrozen b.cfg then (s, some [])
  else match s.readNats b.job.toNat 4 (b.elems.map (fun i => b.result + 4 * i)) with
    | (s, none) => (s, none)
    | (s, some l) => (s, some ((b.elems.zip l).map (fun x => (x.1, some (BitVec.ofNat 32 x.2)))))

/-- A binding at the verdict of its step (R251, R396, R408). -/
def State.atVerdict (s : State) (clean : Bool) (b : Binding) : State :=
  if b.skewed then s.updEnd b stOk s.time.ticks
  else if !clean then (s.updCount b.part HubSt.incDropped).updEnd b stOk s.time.ticks
  else match s.heldResults b with
    | (s, none) => s.updEnd b stMem s.time.ticks
    | (s, some vals) =>
      let (s, b, ok) := s.applyAll b vals
      if ok then s.setBinding { b with st := .closing, due := s.time.ticks } else s.updEnd b stMem s.time.ticks

/-- Put a binding into a list by issue stamp, after those of the same stamp (R67, R408). -/
def insertStamp (b : Binding) : List Binding → List Binding
  | [] => [b]
  | x :: t => if stampLt b.stamp x.stamp then b :: x :: t else x :: insertStamp b t

/-- The bindings of a step of a program, by issue stamp (R408). -/
def State.stepBindings (s : State) (p prog : Nat) (step : W64) : List Binding :=
  (s.bindings.filter (fun b => b.part == p && b.prog == prog && b.stepCtl && b.st == .bound &&
    b.hstep.toNat == step.toNat % 2 ^ 20)).foldl (fun l b => insertStamp b l) []

/-- The apply pass of a clean step, or the drop of a skipped or repeated one (R396, R408). -/
def State.applyPass (s : State) (p prog : Nat) (step : W64) (clean : Bool) : State :=
  (s.stepBindings p prog step).foldl (fun s b => s.atVerdict clean b) s

/-! ## UPD_APPLY -/

/-- Run the checks of a binding that stands in the list, and bind it or end it (R393, R407). -/
def State.bindNow (s : State) (b : Binding) : State :=
  let (s, st, b') := s.bindCheck b
  if st = stOk then
    let s := s.setBinding b'
    let failed := (s.ctx? b.job.toNat 0 b.ctx.toNat).any (fun c => c.st == .failed)
    if b'.stepCtl || !(failed || b'.ended == some .failed) then s.serve b'
    else (s.updCount b.part HubSt.incDropped).updEnd b' stCtxFailed s.time.ticks
  else if st = stSkew then
    let s := s.updCount b.part (fun h => h.skew b.desc b'.step.toNat b.hstep)
    let s := (match s.ctx? b.job.toNat 0 b.ctx.toNat with
      | some c => if b.ended.isNone then s.setCtx { c with held := [] } else s
      | none => s)
    if b.stepCtl then
      (s.setBinding { b' with skewed := true, held := [] }).onSrec b.part b.prog (fun r => { r with fSeen := r.fSeen + 1 })
    else s.updEnd b' stSkew s.time.ticks
  else s.updRefuse b st

/-- Chunks whose elements this package applies (R397): every chunk with result_all, else those of its final range. -/
def State.ownChunks (s : State) (c : Ctx) : List Nat :=
  if pAll c.plan then List.range (chunksOf c.elements)
  else
    let (lo, n) := s.homes c c.stages
    span lo n

/-- The hub of this package that applies chunk `h` (R397). -/
def State.chunkHub (s : State) (c : Ctx) (h : Nat) : Nat :=
  let qs := s.quads c.part
  if s.homed c c.stages h then s.hubFor c c.stages h else qs.getD (h % qs.length) c.part

/-- The reserved operands of UPD_APPLY are zero (R228, R251). -/
def updApplyRsv (q : Block) : Bool :=
  wz q 5 12 20 && addrPairOk q 6 && addrPairOk q 8 && wordsFrom q 11

/-- UPD_APPLY arrives at its hub (R251, R393). -/
def updApplyStep (c : Nat) (s : State) : State :=
  match s.hubNext c 0xE0 with
  | none => s
  | some h =>
    let q := h.q.cmd
    let p := s.clPart c
    let job := s.jobOfHub c h
    if !updApplyRsv q then (s.updCount p HubSt.incDescBad).endHub c 0xE0 stDesc
    else match s.ctx? job 0 (uaCtx q) with
      | none => s.endHub c 0xE0 stContext
      | some x =>
        if x.bound then s.endHub c 0xE0 stContext
        else
          let b : Binding := {
            id := s.bindings.foldl (fun m b => max m (b.id + 1)) 0, part := p, cluster := c, cmdAddr := h.q.addr,
            cmd := q, stamp := h.q.stamp, desc := uaDesc q, job := x.job, ctx := x.ctx, prog := h.prog, st := .waiting,
            stepCtl := s.stepCtl c h, hstep := x.step, elements := x.elements, result := x.result,
            chunks := s.ownChunks x, hubs := (s.ownChunks x).map (s.chunkHub x) }
          let s := ((s.startHub c 0xE0).setCtx { x with bound := true })
          let s := s.setBindings (s.bindings ++ [b])
          if s.bindings.any (fun y => y.id != b.id && y.desc == b.desc && (y.holds || y.st == .waiting) &&
              y.hstep != b.hstep) then s
          else s.bindNow b

/-- WAITING_BINDING_CHECK (R393): the binding of another step before it on the descriptor has completed. Of several, the one of the oldest
issue stamp is checked. -/
def waitingCheckStep (desc : Addr) (s : State) : State :=
  match (s.bindings.filter (fun b => b.desc == desc && b.st == .waiting)).foldl (fun l b => insertStamp b l) [] with
  | [] => s
  | b :: _ => if s.bindings.any (fun y => y.desc == desc && y.holds && y.hstep != b.hstep) then s else s.bindNow b

/-! ## The close of a binding (R409) -/

/-- T of R177 for a moment format. -/
def shiftTop (f : Nat) : Int := if f = 3 then 7 else if f = 4 then 14 else 64

/-- The new σ_write of an array (R177, R409). -/
def newShift (fmt : Nat) (old : Int) (amax : W32) : Int :=
  match v32 amax with
  | .inf _ => -126
  | .num s n d e => match vClog2 (.num s n d e) with
    | some l => max (-126) (min 127 (shiftTop fmt - l))
    | none => old
  | _ => old

/-- Replace a field of the state record. -/
def ustSet (u : UState) (lo len v : Nat) : UState := BitVec.ofNat 512 (setFld u.toNat lo len v)

/-- Shifts of array `k` at a clean close (R177): narrow arrays of a JOB region. -/
def Binding.closeShift (b : Binding) (u : UState) (k : Nat) (amax : W32) : UState :=
  if uMomentFmt b.cfg = 0 ∨ uRow b.cfg ∨ (k = 1 ∧ uRule b.cfg ≠ ruAdamw) then u
  else
    let w := ustShift b.ust k true
    let u := ustSet u (128 + 16 * k) 8 (BitVec.ofInt 8 w).toNat
    ustSet u (136 + 16 * k) 8 (BitVec.ofInt 8 (newShift (uMomentFmt b.cfg) w amax)).toNat

/-- The state record after the close (R392, R405, R409): only the fields that the close sets change. -/
def Binding.closedState (b : Binding) (u : UState) : UState :=
  let u := ustSet u 0 64 b.step.toNat
  if uFrozen b.cfg then ustSet u 256 32 (sat 32 (fld u 256 32 + 1))
  else
    let u := b.closeShift (b.closeShift u 0 b.amax1) 1 b.amax2
    let u := ustSet u 224 32 (sat 32 (fld u 224 32 + b.clamps))
    ustSet u 64 64 (ustCount b.ust + 1)

/-- The rows of the binding's list, whose counts its close writes (R406). -/
def Binding.touched (b : Binding) : List Nat := if uRow b.cfg && !uFrozen b.cfg then b.rows else []

/-- BINDING_CLOSE (R409): the oldest closing binding of the partition closes; its command completes within 1 µs, plus a
hub cycle per touched row. The row counts are read before anything is written (R406). -/
def bindingCloseStep (q : Nat) (s : State) : State :=
  match s.bindings.find? (fun b => b.part == s.partOf q && b.st == .closing) with
  | none => s
  | some b =>
    let at_ := b.touched.map (fun r => uRowState b.cfg + 4 * r)
    match s.readNats b.job.toNat 4 at_ with
    | (s, none) => s.updEnd b stMem s.time.ticks
    | (s, some ks) =>
      match s.hubRead b.job.toNat (b.desc + 256) 64 with
      | (s, none) => s.updEnd b stMem s.time.ticks
      | (s, some bs) =>
        let u := b.closedState (BitVec.ofNat 512 (leNat bs))
        let (s, ok) := s.hubWrite b.job.toNat (ownerHub b.part) (b.desc + 256) (leBytes u.toNat 64)
        let (s, ok') := s.writeNats b.job.toNat (ownerHub b.part) 4 (at_.zip (ks.map (fun k => sat 32 (k + 1))))
        let s := if uFrozen b.cfg then s.updCount b.part HubSt.incFrozen else s
        s.updEnd b (if ok && ok' then stOk else stMem) (b.due + 1000 * nsT + hubT * b.touched.length)

/-! ## UPD_INSTALL (R252, R401) -/

/-- The operands of UPD_INSTALL keep to their table (R228, R252). -/
def updInstallOk (q : Block) : Bool :=
  addrPairOk q 5 && addrPairOk q 7 && wordsFrom q 11 && addrPair q 5 % 64 == 0 && addrPair q 7 % 64 == 0 &&
  1 ≤ cmdWord q 10 && cmdWord q 10 ≤ 0x1000000

/-- Copy the matrices of a list of groups to their staging buffers, in order; false at the first bus error. -/
def State.installGroups (s : State) (job o : Nat) (src dst : Addr) : Nat → State × Bool
  | 0 => (s, true)
  | n + 1 =>
    match s.hubRead job src 256 with
    | (s, none) => (s, false)
    | (s, some bs) =>
      let (s, ok) := s.hubWrite job o dst bs
      if ok then s.installGroups job o (src + 256) (dst + 512) n else (s, false)

/-- UPD_INSTALL (R252, R401): each matrix goes to buffer 1 − p_sel of its group, and the groups are added to
installed. -/
def updInstallStep (c : Nat) (s : State) : State :=
  match s.hubNext c 0xE1 with
  | none => s
  | some h =>
    let q := h.q.cmd
    let p := s.clPart c
    let src := addrPair q 5
    let desc := addrPair q 7
    let first := cmdWord q 9
    let n := cmdWord q 10
    if !updInstallOk q then s.endHub c 0xE1 stDesc
    else if !s.rangeOk p desc 320 then s.endHub c 0xE1 stAddr
    else match s.hubRead (s.jobOfHub c h) desc 320 with
      | (s, none) => s.endHub c 0xE1 stMem
      | (s, some bs) =>
        let cf : UCfg := BitVec.ofNat 1024 (leNat (bs.take 128))
        let u : UState := BitVec.ofNat 512 (leNat (bs.drop 256))
        let dst := uAux cf + 512 * first + 256 * (1 - ustSel u)
        if uRule cf != ruBlockpre || !s.feature featBlockpre || uCount cf / 8 < first + n then s.endHub c 0xE1 stDesc
        else if !s.rangeOk p src (256 * n) || !s.rangeOk p (uAux cf + 512 * first) (512 * n) then s.endHub c 0xE1 stAddr
        else
          let (s, ok) := s.installGroups (s.jobOfHub c h) (ownerOf c .hub) src dst n
          if !ok then s.endHub c 0xE1 stMem
          else
            let u := ustSet u 192 32 (ustInstalled u + n)
            let (s, ok) := s.hubWrite (s.jobOfHub c h) (ownerOf c .hub) (desc + 256) (leBytes u.toNat 64)
            s.endHub c 0xE1 (if ok then stOk else stMem)

end Sys2Proof.Machine
end

