-- ==== Sys2Proof/Machine/Collective.lean ====
section
/-!
DEFINITION. The collective commands at their hub (R244 to R250): opening a context, contributing, waiting, ring
passes, sends and receives.
-/
namespace Sys2Proof.Machine

/-! ## RED_OPEN (R244, R352, R361, R362, R368) -/

def roCtx (q : Block) : Nat := wfld q 5 0 12
def roGradient (q : Block) : Bool := wfld q 5 12 1 == 1
def roTopk (q : Block) : Bool := wfld q 5 13 1 == 1
def roKm1 (q : Block) : Nat := wfld q 5 14 6
def roTwin (q : Block) : Bool := wfld q 5 20 1 == 1
def roStep (q : Block) : Nat := wfld q 6 0 20
def roElements (q : Block) : Nat := cmdWord q 7
def roDeadline (q : Block) : Nat := nfld q.toNat 256 64
def roPlan (q : Block) : Addr := addrPair q 10
def roResult (q : Block) : Addr := addrPair q 12

/-- Axes of a slice with extent at least 2 (R362). -/
def State.longAxes (s : State) (job : Nat) : List Nat := [0, 1, 2].filter (fun a => 2 ≤ jExt (s.jobEntry job) a)

/-- The stages (axis, width) of a plan. -/
def planStages (p : Block) : List (Nat × Nat) := (List.range (pStages p)).map (fun k => (pAxis p (k + 1), pWidth p (k + 1)))

/-- The stages agree with the slice (R362). -/
def State.stagesOk (s : State) (job : Nat) (p : Block) : Bool :=
  let st := planStages p
  if st.isEmpty then true
  else if jTwin (s.jobEntry job) then st == [(3, (s.pairsOf job).length)]
  else
    let want := s.longAxes job
    st.length == want.length && want.all (fun a => st.contains (a, jExt (s.jobEntry job) a))

/-- The reserved fields of a plan are zero (R361), and so is a stage entry beyond n_stages (R362). -/
def planRsv (p : Block) : Bool :=
  fld p 3 5 == 0 && fld p 24 8 == 0 && fld p 45 3 == 0 && fld p 224 288 == 0 &&
  (List.range 3).all (fun k => fld p (140 + 32 * k) 20 == 0 && (k < pStages p || fld p (128 + 32 * k) 32 == 0))

/-- The plan's own checks (R361, R362); `result` and `twin` are RED_OPEN's. -/
def State.planOk (s : State) (job : Nat) (p : Block) (result : Addr) (twin : Bool) : Bool :=
  planRsv p && (pStages p ≤ 1 || s.feature featFrag) && pContrib p != 0 && 1 ≤ pWindow p && pWindow p ≤ 6144 && pLogSize p % 4096 == 0 &&
  pLogBase p % 64 == 0 && !(pAll p && result == 0) && (planStages p).all (fun x => 1 ≤ x.2 && x.2 ≤ 512) &&
  s.stagesOk job p && !(pStages p == 0 && twin) &&
  (planStages p).foldl (fun a x => a * x.2) (pContrib p) < 2 ^ 31

/-- An entry and `window` slots are to be had in every hub of a partition (R352, R368): a spilled entry takes no place there, its slots
do (R384). -/
def State.roomFor (s : State) (p window : Nat) : Bool :=
  let mine := s.red.ctxs.filter (fun c => c.part == p)
  (mine.filter (fun c => !c.spilled)).length < 1024 &&
  (s.quads p).all (fun h => (mine.map (fun c => if c.st = .failed then 0 else pWindow c.plan)).foldl (· + ·) 0 + window ≤
    6144 - (s.hub h).scratch)

/-- The result range that this package writes (R244): first element and number. -/
def State.resultRange (s : State) (c : Ctx) : Nat × Nat :=
  if pAll c.plan then (0, c.elements)
  else
    let (lo, n) := s.homes c c.stages
    (256 * lo, min (256 * (lo + n)) c.elements - min (256 * lo) c.elements)

/-- The cases of CONTEXT_BAD that need no plan (R228, R244), a feature that is not enabled among them (R25). -/
def State.openBad (s : State) (c : Nat) (h : HubCmd) : Bool :=
  let q := h.q.cmd
  let job := s.jobOfHub c h
  !(wz q 5 21 11 && wz q 6 20 12 && addrPairOk q 10 && addrPairOk q 12 && wordsFrom q 14) ||
  (roTopk q && !s.feature featTopk) || (roTwin q && !s.feature featTwin) ||
  (s.ctx? job 0 (roCtx q)).isSome || (!roTopk q && roKm1 q != 0) || (roTwin q && !jTwin (s.jobEntry job)) ||
  roElements q == 0 || roPlan q % 64 != 0 || roResult q % 4 != 0 ||
  (s.stepCtl c h && roStep q != (s.srec (s.clPart c) h.prog).step.toNat % 2 ^ 20)

/-- A context enters the tables, and takes the units that waited for it (R353, R370). -/
def State.openCtx (s : State) (x : Ctx) : State :=
  (({ s with red := { s.red with ctxs := s.red.ctxs ++ [x] } }).drainPreopen x).completeCtxs

/-- RED_OPEN (R244). -/
def redOpenStep (c : Nat) (s : State) : State :=
  match s.hubNext c 0xD0 with
  | none => s
  | some h =>
    let q := h.q.cmd
    let p := s.clPart c
    let job := s.jobOfHub c h
    if s.openBad c h then s.endHub c 0xD0 stContext
    else if !s.rangeOk p (roPlan q) 64 then s.endHub c 0xD0 stAddr
    else match s.hubRead job (roPlan q) 64 with
      | (s, none) => s.endHub c 0xD0 stMem
      | (s, some bs) =>
        let plan : Block := BitVec.ofNat 512 (leNat bs)
        let x : Ctx := {
          part := p, prog := h.prog, job := BitVec.ofNat 10 job, registrar := false, ctx := BitVec.ofNat 12 (roCtx q),
          gradient := roGradient q, topk := roTopk q, k := roKm1 q + 1, twin := roTwin q,
          step := BitVec.ofNat 20 (roStep q), elements := roElements q, deadline := roDeadline q, plan := plan,
          result := roResult q }
        if !s.planOk job plan (roResult q) (roTwin q) || !s.roomFor p (pWindow plan) then s.endHub c 0xD0 stContext
        else
          let (lo, n) := s.resultRange x
          if (roResult q != 0 && !s.rangeOk p (roResult q + 4 * lo) (4 * n)) ||
              !(pLogSize plan == 0 || (s.inHbm p (pLogBase plan) (pLogSize plan) && s.offCarve (pLogBase plan) (pLogSize plan)))
          then s.endHub c 0xD0 stAddr
          else (s.endHub c 0xD0 stOk).openCtx x

/-! ## Contributions (R245, R365, R372, R373, R379) -/

def rcCtx (q : Block) : Nat := wfld q 5 0 12
def rcSrc (q : Block) : Addr := addrPair q 6
def rcFirst (q : Block) : Nat := cmdWord q 8
def rcCount (q : Block) : Nat := cmdWord q 9
def rcResidue (q : Block) : Addr := addrPair q 10

/-- Pieces (first, number) of [first, first + n): cut at chunk boundaries and at `m` elements (R365). -/
def pieces (m : Nat) : Nat → Nat → Nat → List (Nat × Nat)
  | 0, _, _ => []
  | fuel + 1, first, n =>
    if n = 0 then []
    else
      let k := min m (min (256 - first % 256) n)
      (first, k) :: pieces m fuel (first + k) (n - k)

/-- The cases of CONTEXT_BAD (R228, R245). -/
def State.contribBad (s : State) (c : Nat) (h : HubCmd) (x : Ctx) (topk : Bool) : Bool :=
  let q := h.q.cmd
  let job := s.jobOfHub c h
  let last := rcFirst q + rcCount q - 1
  let home (e : Nat) : Nat := s.homeOf x 1 (e / 256)
  !(wz q 5 12 20 && addrPairOk q 6 && addrPairOk q 10 && wordsFrom q 12) || x.topk != topk ||
  (!topk && rcResidue q != 0) || rcCount q == 0 || 0x1000000 < rcCount q || x.elements < rcFirst q + rcCount q ||
  (topk && (rcFirst q % 256 != 0 || (rcCount q % 256 != 0 && rcFirst q + rcCount q != x.elements))) ||
  (if hRemote q then
     pStages x.plan == 0 || home (rcFirst q) == s.ownId || home last == s.ownId ||
       home (rcFirst q) != s.named job (hPackage q) || home last != s.named job (hPackage q)
   else home (rcFirst q) != s.ownId || home last != s.ownId)

/-- A packet of contributions (R364, R365, R372). -/
def State.contribPacket (s : State) (x : Ctx) (kind dst srcCl dstCl chunk aux : Nat) (payload : List Byte) : Packet :=
  s.newPacket kind 0 x.job.toNat dst srcCl dstCl (redAddr x chunk 0 0) aux payload

/-- A unit of this package's own, sent by hub `h`, at its home here (R245, R382). -/
def State.takeOwn (s : State) (h : Nat) (p : Packet) : State :=
  match s.ctx? p.job.toNat (aReg p) (aCtx p) with
  | none => s
  | some x => if x.twin then (s.twinUnit h x p s.now).1 else (State.takeUnit 4 false h s p s.now).1

/-- Deliver a contribution packet: to the home on another package by its stream, or into the ledgers here; a context
that has failed, or a member under notice, drops it (R245, R379). -/
def State.contribute (s : State) (h : HubCmd) (c : Nat) (x : Ctx) (remote : Bool) (k : Stream) (p : Packet) : State :=
  let failed := (s.ctx? x.job.toNat (b2n x.registrar) x.ctx.toNat).all (fun y => y.st == .failed)
  if failed || s.noticed x.job.toNat p.dstPkg.toNat then s
  else if remote then s.sendData h c k [p]
  else s.takeOwn (clusterQuad c) p

/-- What a contribution command needs: its context, the destination, its stream. -/
structure ContribJob where
  h      : HubCmd
  c      : Nat
  x      : Ctx
  remote : Bool
  dst    : Nat
  dstCl  : Nat
  k      : Stream

/-- Dense pieces (R245, R253, R365): false when a source block is uncorrectable; the flags of what was read (R97). -/
def State.densePieces (s : State) (j : ContribJob) (src first : Nat) (fl : Flags) : List (Nat × Nat) → State × Bool × Flags
  | [] => (s, true, fl)
  | (e, n) :: t =>
    match s.hubRead j.x.job.toNat (src + 4 * (e - first)) (4 * n) with
    | (s, none) => (s, false, fl)
    | (s, some bs) =>
      let p := s.contribPacket j.x 4 j.dst j.c j.dstCl (e / 256) (e % 256 + (n - 1) * 256) bs
      (s.contribute j.h j.c j.x j.remote j.k p).densePieces j src first (fl ||| flagsIn (payWords bs n)) t

/-- Rank of a value for thinning (R372): NaN, then infinities, then finite values by magnitude. -/
def rank (w : W32) : Nat :=
  let m := w.toNat % 2 ^ 31
  if 0x7F800000 < m then 2 ^ 32 else m

/-- Put an index into a list by falling rank, behind those of equal rank (R372). -/
def insertRank (x : Nat × Nat) : List (Nat × Nat) → List (Nat × Nat)
  | [] => [x]
  | y :: t => if y.2 < x.2 then x :: y :: t else y :: insertRank x t

/-- The indices sent of a block (R372), rising. -/
def topIndices (a : List W32) (k : Nat) : List Nat :=
  let order := ((List.range a.length).zip (a.map rank)).foldl (fun l x => insertRank x l) []
  let best := (order.take k).map (fun x => x.1)
  (List.range a.length).filter (fun i => best.contains i)

/-- Thinned blocks (R372, R373): `rd` and `wr` are the residue halves read and written. -/
def State.topkPieces (s : State) (j : ContribJob) (src first rd wr : Nat) (fl : Flags) :
    List (Nat × Nat) → State × Bool × Flags
  | [] => (s, true, fl)
  | (e, n) :: t =>
    let o := 4 * (e - first)
    match s.hubRead j.x.job.toNat (src + o) (4 * n) with
    | (s, none) => (s, false, fl)
    | (s, some g) => match s.hubRead j.x.job.toNat (rd + o) (4 * n) with
      | (s, none) => (s, false, fl)
      | (s, some r) =>
        let (a, f) := (mapF (fun x : W32 × W32 => do
          let v ← fAdd (← readVal (v32 x.1)) (← readVal (v32 x.2))
          pure (code32 v)) ((payWords g n).zip (payWords r n))).run fl
        let idx := topIndices a (min j.x.k n)
        let vals := idx.map (fun i => a.getD i 0)
        let payload := vals.flatMap (fun v => leBytes v.toNat 4) ++ idx.map (fun i => BitVec.ofNat 8 i)
        let p := s.contribPacket j.x 5 j.dst j.c j.dstCl (e / 256) idx.length payload
        let s := s.contribute j.h j.c j.x j.remote j.k p
        let rest := ((List.range n).zip a).flatMap (fun x => leBytes (if idx.contains x.1 then 0 else x.2.toNat) 4)
        let (s, ok) := s.hubWrite j.x.job.toNat (ownerOf j.c .hub) (wr + o) rest
        if ok then s.topkPieces j src first rd wr f t else (s, false, f)

/-- A contribution ends when its last packet has left the hub, or, with remote 0, when its values are in the ledgers here (R245). -/
def State.contribEnd (s : State) (remote : Bool) (c op : Nat) (st : BitVec 16) (fl : Flags) : State :=
  if remote then s.sentHub c op st fl else s.endHub c op st fl

/-- RED_CONTRIB and RED_CONTRIB_TOPK (R245): opcode 0xD1 or 0xD2. -/
def contribStep (op : Nat) (c : Nat) (s : State) : State :=
  match s.hubNext c op with
  | none => s
  | some h =>
    let q := h.q.cmd
    let p := s.clPart c
    let job := s.jobOfHub c h
    let topk := op == 0xD2
    match s.ctx? job 0 (rcCtx q) with
    | none => s.endHub c op stContext
    | some x =>
      let n := rcCount q
      let dst := if hRemote q then s.named job (hPackage q) else s.ownId
      let k := s.streamTo c dst (hTarget q)
      if s.contribBad c h x topk then s.endHub c op stContext
      else if !s.rangeOk p (rcSrc q) (4 * n) || (topk && !s.rangeOk p (rcResidue q) (8 * n)) then s.endHub c op stAddr
      else if hRemote q && !s.streamOpen h.prog c k then s.endHub c op stStream
      else
        let j : ContribJob := { h := h, c := c, x := x, remote := hRemote q, dst := dst,
                                dstCl := if hRemote q then hTarget q else 0x1FF, k := k }
        let src := rcSrc q
        let first := rcFirst q
        if topk then
          let half (i : Nat) : Addr := rcResidue q + 4 * n * (i % 2)
          let (s, ok, fl) := s.topkPieces j src first (half (x.step.toNat + 1)) (half x.step.toNat) 0
            (pieces 256 (n + 1) first n)
          s.completeCtxs.contribEnd (hRemote q) c op (if ok then stOk else stMem) fl
        else
          let (s, ok, fl) := s.densePieces j src first 0 (pieces 128 (n + 1) first n)
          s.completeCtxs.contribEnd (hRemote q) c op (if ok then stOk else stMem) fl

/-! ## RED_WAIT (R246, R247) -/

/-- RED_WAIT arrives: it waits for its context to settle. -/
def redWaitStep (c : Nat) (s : State) : State :=
  match s.hubNext c 0xD3 with
  | none => s
  | some h =>
    let q := h.q.cmd
    if !(wz q 5 13 19 && wordsFrom q 6) || (s.ctx? (s.jobOfHub c h) 0 (rcCtx q)).isNone then s.endHub c 0xD3 stContext
    else s.startHub c 0xD3

/-- The context of a RED_WAIT under way, once it has settled (R246). -/
def State.settledCtx (s : State) (c : Nat) (h : HubCmd) : Option Ctx :=
  if h.under 0xD3 then (s.ctx? (s.jobOfHub c h) 0 (rcCtx h.q.cmd)).filter (fun x => x.st != .open_) else none

/-- How a RED_WAIT ends on its context (R247, R359). -/
def State.waitEnd (s : State) (c : Nat) (h : HubCmd) : HubCmd :=
  match s.settledCtx c h with
  | some x =>
    let st := if x.st = .failed ∧ !s.stepCtl c h then stCtxFailed else stOk
    { h with done := some (st, x.flags, s.time.ticks) }
  | none => h

/-- Free a context that a RED_WAIT closes (R353): bindings keep what it held, and a step keeps what R168 and R380 count
of it. -/
def State.closeCtx (s : State) (x : Ctx) : State :=
  let s := (s.unlink x).freeCtx x
  s.onSrec x.part x.prog (fun r => { r with
    bSeen := r.bSeen + b2n (x.gradient && x.bad != 0)
    fSeen := r.fSeen + b2n (x.st == .failed)
    dlSeen := max r.dlSeen x.deadline })

/-- RED_WAITs whose contexts have settled end, and then those with close 1 free their contexts (R246, R353). -/
def State.settleWaits (s : State) : State :=
  let waits := s.clusters.flatMap (fun k => k.2.hubq.filterMap (fun h =>
    (s.settledCtx k.1 h).map (fun x => (k.1, h, x))))
  let closed := waits.filter (fun w => wfld w.2.1.q.cmd 5 12 1 == 1)
  let s' := waits.foldl (fun t w => t.onCl w.1 (fun k => { k with hubq := k.hubq.map (s.waitEnd w.1) })) s
  closed.foldl (fun t w => if t.red.ctxs.any (fun y => y.same w.2.2) then t.closeCtx w.2.2 else t) s'

/-- The other package of a RECV, a SEND or a RING_PASS under way (R250). -/
def State.peerOf (s : State) (c : Nat) (h : HubCmd) : Option Nat :=
  if h.under 0xD6 then some (wfld h.q.cmd 10 0 13)
  else if h.under 0xD4 || h.under 0xD5 then some (s.named (s.jobOfHub c h) (hPackage h.q.cmd))
  else none

/-- A SEND, RECV or RING_PASS under way whose other package has come under notice ends with PEER_DOWN (R250). -/
def State.peerDown (s : State) : State :=
  { s with clusters := s.clusters.map (fun k => (k.1, { k.2 with hubq := k.2.hubq.map (fun h =>
      if (s.peerOf k.1 h).any (s.noticed (s.jobOfHub k.1 h)) then
        { h with done := some (stPeer, 0, s.time.ticks) } else h) })) }

/-! ## RING_PASS, SEND and RECV (R248 to R250, R374) -/

/-- Cut bytes bound for `a` at the 512-byte granules of their destination (R291). -/
def granules : Nat → Addr → List Byte → List (Addr × List Byte)
  | 0, _, _ => []
  | fuel + 1, a, bs =>
    if bs.isEmpty then []
    else
      let k := 512 - a % 512
      (a, bs.take k) :: granules fuel (a + k) (bs.drop k)

/-- The WRITE packets of bytes bound for address `a` of a package (R249, R314): aux gives the bytes used. -/
def State.writePackets (s : State) (c job : Nat) (k : Stream) (a : Addr) (bs : List Byte) : List Packet :=
  (granules (bs.length + 1) a bs).map (fun g =>
    s.newPacket 0 0 job k.dstPkg.toNat c k.dstCl.toNat g.1 g.2.length g.2)

def rpBytes (q : Block) : Nat := cmdWord q 7
def rpOff (q : Block) : Nat := wfld q 8 0 22
def rpFirst (q : Block) : Nat := wfld q 9 0 9
def rpCount (q : Block) : Nat := wfld q 9 9 10
def rpFwd (q : Block) : Bool := wfld q 9 19 1 == 1

/-- The operands of RING_PASS keep to their table (R228, R248): rdst is not read with fwd 0, nor coff without local deliveries. -/
def ringPassOk (q : Block) : Bool :=
  addrPairOk q 5 && wz q 8 22 10 && wz q 9 20 12 && wordsFrom q 12 && addrPair q 5 % 64 == 0 &&
  rpBytes q % 64 == 0 && 64 ≤ rpBytes q && rpBytes q ≤ 0x1000000 && (rpCount q == 0 || rpOff q % 64 == 0) && rpCount q ≤ 512 &&
  (!rpFwd q || (hRemote q && addrPairOk q 10))

/-- RING_PASS (R248, R374). -/
def ringPassStep (c : Nat) (s : State) : State :=
  match s.hubNext c 0xD4 with
  | none => s
  | some h =>
    let q := h.q.cmd
    let p := s.clPart c
    let job := s.jobOfHub c h
    let n := rpBytes q
    let cls := span (rpFirst q) (rpCount q)
    let dst := s.named job (hPackage q)
    let k := s.streamTo c dst (hTarget q)
    if !ringPassOk q || !s.feature featRing then s.endHub c 0xD4 stContext
    else if !s.rangeOk p (addrPair q 5) n || (!cls.isEmpty && carrelSize < rpOff q + n) ||
        !cls.all (fun d => s.rangeOk p (carrelAt d (rpOff q)) n) then s.endHub c 0xD4 stAddr
    else if rpFwd q && s.noticed job dst then s.endHub c 0xD4 stPeer
    else if rpFwd q && !s.streamOpen h.prog c k then s.endHub c 0xD4 stStream
    else
      let (s, bs, whole) := s.hubPrefix job (addrPair q 5) n
      let (s, ok) := cls.foldl (fun (x : State × Bool) d =>
        let (s, ok) := x.1.hubWrite job (ownerOf c .hub) (carrelAt d (rpOff q)) bs
        (s, x.2 && ok)) (s, true)
      let st := if whole && ok then stOk else stMem
      if rpFwd q then (s.sendData h c k (s.writePackets c job k (addrPair q 10) bs)).sentHub c 0xD4 st else s.endHub c 0xD4 st

def srBytes (q : Block) : Nat := cmdWord q 9

/-- The byte count and the reserved operands of SEND and RECV (R228, R249). -/
def sendRecvOk (q : Block) : Bool :=
  addrPairOk q 5 && addrPairOk q 7 && wordsFrom q 11 && 1 ≤ srBytes q && srBytes q ≤ 0x1000000

/-- SEND (R249, R250, R253). -/
def sendStep (c : Nat) (s : State) : State :=
  match s.hubNext c 0xD5 with
  | none => s
  | some h =>
    let q := h.q.cmd
    let p := s.clPart c
    let job := s.jobOfHub c h
    let n := srBytes q
    let src := addrPair q 5
    let dst := addrPair q 7
    let pk := s.named job (hPackage q)
    let k := s.streamTo c pk (hTarget q)
    if !(sendRecvOk q && wordsFrom q 10) then s.endHub c 0xD5 stContext
    else if !s.rangeOk p src n || (!hRemote q && !s.rangeOk p dst n) then s.endHub c 0xD5 stAddr
    else if hRemote q then
      if s.noticed job pk then s.endHub c 0xD5 stPeer
      else if !s.streamOpen h.prog c k then s.endHub c 0xD5 stStream
      else
        let (s, bs, whole) := s.hubPrefix job src n
        (s.sendData h c k (s.writePackets c job k dst bs)).sentHub c 0xD5 (if whole then stOk else stMem)
    else
      let (s, bs, whole) := s.hubPrefix job src n
      let (s, ok) := s.hubWrite job (ownerOf c .hub) dst bs
      s.endHub c 0xD5 (if whole && ok then stOk else stMem)

/-- RECV (R249, R250): one READ_REQ names the source, and in its payload the local destination and the length. -/
def recvStep (c : Nat) (s : State) : State :=
  match s.hubNext c 0xD6 with
  | none => s
  | some h =>
    let q := h.q.cmd
    let job := s.jobOfHub c h
    let n := srBytes q
    let pk := wfld q 10 0 13
    if !(sendRecvOk q && wz q 10 13 19) || hRemote q || pk = s.ownId || !s.plan.member job pk then
      s.endHub c 0xD6 stContext
    else if !s.rangeOk (s.clPart c) (addrPair q 7) n then s.endHub c 0xD6 stAddr
    else if s.noticed job pk then s.endHub c 0xD6 stPeer
    else
      let req := s.newPacket 1 0 job pk c 0x1FF (addrPair q 5) 0 (leBytes (addrPair q 7 + n * 2 ^ 64) 16)
      let f := fun (h : HubCmd) => { h with started := true, left := n }
      (s.onCl c (fun k => { k with hubq := onFirst (HubCmd.fresh 0xD6) f k.hubq })).inject req

end Sys2Proof.Machine
end

