-- ==== Sys2Proof/Machine/Notices.lean ====
section
/-!
DEFINITION. SYSTEM messages of the Registrar and the hubs (R314, R351, R472), and the distances that their times rest
on (R348).
-/
namespace Sys2Proof.Machine

/-! ## Distances (R310, R348) -/

/-- Hops on one axis of size `n` between coordinates `c` and `t`, within a job entry's extent (R310). -/
def axisHops (n ext org c t : Nat) : Nat :=
  let d := (t + n - c) % n
  if ext = n then min d (n - d)
  else
    let r (x : Nat) : Nat := (x + n - org % n) % n
    max (r t) (r c) - min (r t) (r c)

/-- Dimension-order hops between two packages of a slice (R310, R348); job 0 is the system job. -/
def State.hops (s : State) (job a b : Nat) : Nat :=
  let pl := s.plan
  let e := s.jobEntry job
  ([0, 1, 2].map (fun x =>
    axisHops (pl.size x) (if job = 0 then pl.size x else jExt e x) (if job = 0 then 0 else jOrg e x)
      (pl.coord a x) (pl.coord b x))).foldl (· + ·) 0

/-- Dg in beats: from a root to the farthest of a list of members (R348). -/
def State.dg (s : State) (job root : Nat) (ms : List Nat) : Nat :=
  ceilDiv ((ms.map (s.hops job root)).foldl max 0 * 400) 1024

/-! ## Member notices (R472) -/

/-- The fields of a member notice. -/
structure Notice where
  sub    : Nat
  member : Nat
  job    : Nat
  qmask  : Nat
  cause  : Nat := 0
  time   : Nat
  beat   : Nat := 0
  step   : W64 := 0
  lexp   : Nat := 0

/-- Its payload (R472). -/
def Notice.bytes (n : Notice) : List Byte :=
  leBytes (n.sub + n.member % 2 ^ 13 * 2 ^ 16 + n.job % 1024 * 2 ^ 32 + n.qmask % 16 * 2 ^ 42 + n.cause % 16 * 2 ^ 46 +
    n.time % 2 ^ 64 * 2 ^ 64 + n.beat % 2 ^ 54 * 2 ^ 128 + n.step.toNat * 2 ^ 192 + n.lexp % 256 * 2 ^ 256) 64

/-- Send a notice to each package of a list (R310, R473). -/
def State.notify (s : State) (dsts : List Nat) (n : Notice) : State :=
  s.injectAll (dsts.map (fun d => s.sysPacket d n.bytes))

/-- The other members of a slice (R306). -/
def State.others (s : State) (job : Nat) : List Nat := (s.plan.members job).filter (fun m => m != s.ownId)

/-- MEMBER_UP of this package with a release beat (R477, R478): the other members' notices for it end. -/
def State.sendMemberUp (s : State) (job beat : Nat) (step : W64) : State :=
  let s := { s with fabric := { s.fabric with downSent := s.fabric.downSent.filter (fun j => j != job) } }
  s.notify (s.others job)
    { sub := 0x12, member := s.ownId, job := job, qmask := jQmask (s.jobEntry job), time := s.now, beat := beat, step := step }

/-- Release beat of a rejoin decided in beat `b` (R477, R478). -/
def State.rejoinBeat (s : State) (job b : Nat) : Nat := b + 4 + s.dg job s.ownId (s.others job)

end Sys2Proof.Machine
end

