-- ==== Sys2Proof/Machine/StepControl.lean ====
section
/-!
DEFINITION. Step control (R165 to R174, R219, R380, R504): the release of a step, the close and its verdict, the
registered tables and the loss scale; and what follows every change of the collective engines.
-/
namespace Sys2Proof.Machine

/-! ## Registrar accesses (R504) -/

/-- What a Registrar access meets: a code and the address accessed. -/
abbrev RegFault := BitVec 16 × Addr

/-- A Registrar read under step control (R58, R277, R504). -/
def State.regRead (s : State) (p job a n : Nat) : State × Except RegFault (List Byte) :=
  if !s.rangeOk p a n then (s, .error (stAddr, a))
  else match s.hubRead job a n with
    | (s, some bs) => (s, .ok bs)
    | (s, none) => (s, .error (stMem, a))

/-- A Registrar write under step control (R58, R277, R504). -/
def State.regPut (s : State) (p job a : Nat) (bs : List Byte) : State × Except RegFault Unit :=
  if !s.rangeOk p a bs.length then (s, .error (stAddr, a))
  else match s.hubWrite job ownerReg a bs with
    | (s, true) => (s, .ok ())
    | (s, false) => (s, .error (stMem, a))

/-! ## Registered tables (R159, R160, R165, R166) -/

/-- A table descriptor (R166). -/
abbrev TableDesc := BitVec 128

def tbBase (t : TableDesc) : Addr := fld t 0 48
def tbRows (t : TableDesc) : Nat := fld t 48 16
def tbCols (t : TableDesc) : Nat := fld t 64 16
def tbScaled (t : TableDesc) : Bool := bit t 81
def tbCount (t : TableDesc) : Nat := tbRows t * tbCols t

/-- Address of the committed copy (R159). -/
def tbCommitted (t : TableDesc) : Addr := tbBase t + 64 * ceilDiv (4 * tbCount t) 64

/-- R165 on one entry: the new entry, and whether its exponent was clamped. An unseeded entry is left alone. -/
def closeEntry (w : Nat) (delta : Int) : Option (Nat × Bool) :=
  if !w.testBit 8 then none
  else
    let q0 := nfld w 11 5
    let q := if 16 ≤ q0 ∧ q0 ≤ 30 then 0 else q0
    let e0 : Int := nfld w 0 8
    let ovf := w.testBit 9
    let (e, q) : Int × Nat :=
      if ovf then (e0 + 1, 0)
      else if q = 31 then (e0, 0)
      else if q + 1 = 16 then (e0 - 1, 0) else (e0, q + 1)
    let e := e + delta
    let e' := max 0 (min 254 e)
    some (e'.toNat + 2 ^ 8 + b2n ovf * 2 ^ 10 + q * 2 ^ 11, e != e')

/-- Close entries `i`, ... of a table (R165): how many were clamped, and the fault that stopped it. -/
def State.closeEntries (s : State) (p job : Nat) (t : TableDesc) (delta : Int) (i : Nat) :
    Nat → State × Nat × Option RegFault
  | 0 => (s, 0, none)
  | n + 1 =>
    match s.regRead p job (tbBase t + 4 * i) 4 with
    | (s, .error f) => (s, 0, some f)
    | (s, .ok bs) => match closeEntry (leNat bs) delta with
      | none => s.closeEntries p job t delta (i + 1) n
      | some (w, c) => match s.regPut p job (tbBase t + 4 * i) (leBytes w 4) with
        | (s, .error f) => (s, 0, some f)
        | (s, .ok _) => match s.regPut p job (tbCommitted t + 4 * i) (leBytes w 4) with
          | (s, .error f) => (s, b2n c, some f)
          | (s, .ok _) =>
            let (s, k, f) := s.closeEntries p job t delta (i + 1) n
            (s, k + b2n c, f)

/-- Write the committed copy over the working copy (R169, repeated). -/
def State.restoreEntries (s : State) (p job : Nat) (t : TableDesc) (i : Nat) : Nat → State × Option RegFault
  | 0 => (s, none)
  | n + 1 =>
    match s.regRead p job (tbCommitted t + 4 * i) 4 with
    | (s, .error f) => (s, some f)
    | (s, .ok bs) => match s.regPut p job (tbBase t + 4 * i) bs with
      | (s, .error f) => (s, some f)
      | (s, .ok _) => s.restoreEntries p job t (i + 1) n

/-- Every table of the list (R166), from entry `i`: closed with Δ, or restored when `delta` is none. -/
def State.closeTables (s : State) (p job : Nat) (list : Addr) (delta : Option Int) (i : Nat) :
    Nat → State × Nat × Option RegFault
  | 0 => (s, 0, none)
  | n + 1 =>
    match s.regRead p job (list + 16 * i) 16 with
    | (s, .error f) => (s, 0, some f)
    | (s, .ok bs) =>
      let t : TableDesc := BitVec.ofNat 128 (leNat bs)
      let (s, k, f) := match delta with
        | some d => s.closeEntries p job t (if tbScaled t then d else 0) 0 (tbCount t)
        | none => match s.restoreEntries p job t 0 (tbCount t) with
          | (s, f) => (s, 0, f)
      match f with
      | some f => (s, k, some f)
      | none =>
        let (s, k', f) := s.closeTables p job list delta (i + 1) n
        (s, k + k', f)

/-! ## Loss scale (R171, R173, R174) -/

def polInit (v : W64) : Nat := fld v 0 8
def polMin (v : W64) : Nat := fld v 8 8
def polMax (v : W64) : Nat := fld v 16 8
def polDynamic (v : W64) : Bool := bit v 24
def polInterval (v : W64) : Nat := fld v 32 16

/-- Reset value of PART_LOSS_POLICY (R173). -/
def polReset : W64 := 0x000003E8019F7F8F#64

/-- PART_LOSS_POLICY of a program slot, in force (R173). -/
def Part.pol (p : Part) (k : Nat) : W64 := sget polReset p.policy k

/-- L and the counters after a close (R171, R174). -/
def StepRec.scaled (r : StepRec) (pol : W64) (o : StepOutcome) : StepRec :=
  let l := r.lexp.toNat
  let r := { r with lastSkipped := o == .skipped }
  match o with
  | .clean =>
    let n := r.clean.toNat + 1
    if !polDynamic pol then { r with clean := satAdd r.clean 1 }
    else if polInterval pol ≤ n then { r with lexp := BitVec.ofNat 8 (min (l + 1) (polMax pol)), clean := 0 }
    else { r with clean := BitVec.ofNat 16 n }
  | .skipped =>
    { r with
      lexp := if polDynamic pol then BitVec.ofNat 8 (max (l - 1) (polMin pol)) else r.lexp
      clean := 0
      floorHit := r.floorHit || l == polMin pol
      skippedTotal := satAdd r.skippedTotal 1 }
  | _ => r

/-- FP32 code of 2^k (R172). -/
def powCode (k : Int) : W32 := code32 (vPow k)

/-- The step word (R172). -/
def stepWord (r : StepRec) : List Byte :=
  let l : Int := r.lexp.toNat
  let o := match r.outcome with
    | .clean => 0
    | .skipped => 1
    | .repeated => 2
    | .first => 3
  leBytes ((powCode (l - 127)).toNat + (powCode (127 - l)).toNat * 2 ^ 32 + r.step.toNat * 2 ^ 64 + o * 2 ^ 128) 64

/-! ## Release (R172, R219, R475, R477, R478) -/

/-- The started task of a program slot (R222, R337). -/
def State.taskInSlot (s : State) (p prog : Nat) : Option Task :=
  (s.prt p).tasks.find? (fun t => t.live && tdSlot t.desc == prog)

def Task.job (t : Task) : Nat := t.image.elim 0 (fun i => i.job.toNat)

/-- STW_RESYNC_CTL and STW_RESYNC_HOLD fields (R479). -/
def rsQuad (v : W64) : Nat := fld v 0 2
def rsSlot (v : W64) : Nat := fld v 2 3
def rsArm (v : W64) : Bool := bit v 5
def rsJob (v : W64) : Nat := fld v 6 10
def rhJob (v : W64) : Nat := fld v 0 10
def rhOn (v : W64) : Bool := bit v 10
def rhPair (v : W64) : Nat := fld v 11 13

/-- The resync hold stands against releasing step `n` of a job (R478). -/
def State.resyncHeld (s : State) (job : Nat) (n : W64) : Bool :=
  s.reset_.rsHolding && rhJob s.reset_.rsHold == job && n == s.reset_.rsStep

/-- This package's own resync of a program is under way (R478): its release waits until the resync is DONE. -/
def State.resyncing (s : State) (p prog : Nat) : Bool :=
  (s.reset_.rsState == 1 || s.reset_.rsState == 2) && s.partOf (rsQuad s.reset_.rsCtl) == p && rsSlot s.reset_.rsCtl == prog

/-- The release of the next step of a program is held (R475, R477, R478). -/
def State.releaseHeld (s : State) (p prog job : Nat) : Bool :=
  let r := s.srec p prog
  (!jTwin (s.jobEntry job) && s.fabric.notices.any (fun x => x.1 == job)) || r.releaseAt.isSome ||
  s.resyncHeld job r.step || s.resyncing p prog

/-- A binding of a task that halts (R411): one whose context has failed drops what it held; one that waits for an earlier binding
or for a verdict ends with it (R196). -/
def State.haltBinding (s : State) (b : Binding) : State :=
  if b.st = .closing ∨ b.st = .done ∨ (b.st = .bound ∧ !b.stepCtl) then s
  else
    let failed := b.ended == some .failed || (s.ctx? b.job.toNat 0 b.ctx.toNat).any (fun c => c.st == .failed)
    (if failed then s.updCount b.part HubSt.incDropped else s).updEnd b stCtxFailed s.time.ticks

/-- A halt ends the RECVs of a program that are under way (R249). -/
def State.endRecvs (s : State) (cs : List Nat) (prog : Nat) : State :=
  cs.foldl (fun s c => s.onCl c (fun k => { k with hubq := k.hubq.filter (fun h => !(h.prog == prog && h.under 0xD6)) })) s

/-- The Registrar halts a task on the report of cluster `c` (R197): the halt it first heard of stands, every cluster halts,
and the task's open contexts fail with HALT (R377). The task ends once its forwarded commands have completed (R196). -/
def State.haltTask (s : State) (p : Nat) (t : Task) (c : Nat) (h : HaltInfo) : State :=
  let t := t.firstHalt c h
  let fh := (t.halt.map (fun x => x.2)).getD h
  let prog := tdSlot t.desc
  let s := (s.haltAll t fh).onPart p (fun q => { q with
    tasks := q.tasks.map (fun u => if u.index = t.index then { t with st := .reported } else u) })
  let s := (s.ctxsOf p prog).foldl (fun s c => s.failCtx c 7) s
  let s := (s.bindings.filter (fun b => b.part == p && b.prog == prog)).foldl State.haltBinding s
  ((s.endRecvs t.clusters prog).serveAll.settleWaits).reap p

/-- HALT_REPORT (R196, R197). -/
def haltReportStep (c : Nat) (s : State) : State :=
  match s.haltOf c with
  | some (t, h) => if s.regOn then s.haltTask (s.clPart c) t c h else s
  | none => s

/-- A Registrar access under step control fails (R504): the task ends as HALTED. -/
def State.stepFault (s : State) (p : Nat) (t : Task) (f : RegFault) : State :=
  s.haltTask p t (tdStepCluster t.desc) { code := f.1, cmdAddr := f.2, flags := 0, due := s.time.ticks }

/-- Release the next step, unless it is held (R172, R219): the step word is written, then the release clasp takes 1. -/
def State.releaseStep (s : State) (p prog : Nat) : State :=
  match s.taskInSlot p prog with
  | none => s
  | some t =>
    let r := s.srec p prog
    if !tdStep t.desc || r.released || r.closing || s.releaseHeld p prog t.job then s
    else
      let r := { r with clean := if r.rejoin then 0 else r.clean, rejoin := false, released := true, raised := false,
                        bSeen := 0, fSeen := 0, dlSeen := 0 }
      match s.regPut p t.job (tdStepWord t.desc) (stepWord r) with
      | (s, .error f) => s.stepFault p t f
      | (s, .ok _) =>
        (s.onSrec p prog (fun _ => r)).localSignal prog (tdRelCluster t.desc) (tdRelClasp t.desc) 1

/-! ## The verdict (R168, R169, R380) -/

/-- The verdict context of the step that closes (R380). -/
def State.verdictCtx (s : State) (p prog : Nat) : Option Ctx :=
  match s.taskInSlot p prog with
  | none => none
  | some t => s.ctx? t.job 1 ((s.srec p prog).step.toNat % 4096)

/-- Outcome of a settled verdict context (R168, R380). -/
def verdict (x : Ctx) : Option StepOutcome :=
  let v (i : Nat) : Val := v32 ((sget none x.held i).getD 0)
  match x.st with
  | .open_ => none
  | .failed => some .repeated
  | .complete => some (if !vIsZero (v 1) then .repeated else if !vIsZero (v 0) then .skipped else .clean)

/-- The close of a step by its outcome (R165, R169, R171, R396, R408), and the release of the next (R172). -/
def State.closeStep (s : State) (p prog : Nat) (t : Task) (x : Ctx) (o : StepOutcome) : State :=
  let r := s.srec p prog
  let s := s.freeCtx x
  let r' := r.scaled ((s.prt p).pol prog) o
  let delta : Int := (r'.lexp.toNat : Int) - r.lexp.toNat
  let (s, k, f) := s.closeTables p t.job (tdTableList t.desc) (if o = .repeated then none else some delta) 0
    (tdTableCount t.desc)
  let r' := { r' with
    tablesClamped := satAdd r'.tablesClamped k, outcome := o, closed := r.step, released := false, closing := false
    step := if o = .clean then r.step + 1 else r.step
    verdicts := sset 0 r.verdicts (r.step.toNat % 4096) x.deadline }
  let s := s.onSrec p prog (fun _ => r')
  match f with
  | some f => s.stepFault p t f
  | none => (s.applyPass p prog r.step (o == .clean)).releaseStep p prog

/-- A task whose clusters have all ended is DONE once its hub commands have completed, the Registrar's own with them (R189, R222). -/
def State.finish (s : State) (p prog : Nat) : State :=
  match s.taskInSlot p prog with
  | some t => if t.clusters.all (fun x => t.ended.contains x) then s.taskDone p t else s
  | none => s

/-- Act on the verdict of a program whose verdict context has settled (R169), while the Registrar runs (R435). -/
def State.verdictReached (s : State) (p prog : Nat) : State :=
  if !(s.srec p prog).closing || !s.regOn then s
  else match s.taskInSlot p prog, s.verdictCtx p prog with
    | some t, some x => match verdict x with
      | some o => (s.closeStep p prog t x o).finish p prog
      | none => s
    | _, _ => s

/-- (partition, program slot) pairs. -/
def programs : List (Nat × Nat) := (List.range 4).flatMap (fun p => (List.range 8).map (fun k => (p, k)))

/-- STEP record of the program of a job, if one runs under step control here: partition, program slot, record. -/
def State.stepOfJob (s : State) (job : Nat) : Option (Nat × Nat × StepRec) :=
  programs.findSome? (fun x => (s.taskInSlot x.1 x.2).bind (fun t =>
    if t.job = job ∧ tdStep t.desc then some (x.1, x.2, s.srec x.1 x.2) else none))

/-- A resync request is answered once this package stands at its hold (R478 step 4): RESYNC_READY, with s and L. -/
def State.answerResync (s : State) : State :=
  match s.reset_.rsAsked with
  | none => s
  | some (j, m) => match s.stepOfJob j.toNat with
    | none => s
    | some (_, _, r) =>
      if s.resyncHeld j.toNat r.step && !r.released && !r.closing then
        State.notify { s with reset_ := { s.reset_ with rsAsked := none } } [m.toNat]
          { sub := 0x14, member := s.ownId, job := j.toNat, qmask := jQmask (s.jobEntry j.toNat), time := s.now, step := r.step
            lexp := r.lexp.toNat }
      else s

/-- What follows every change of the collective engines: contexts complete (R354), bindings are served (R396), waits
end (R246, R250), verdicts are acted on (R169), and a member that reaches its hold says so (R478). -/
def State.afterHub (s : State) : State :=
  (programs.foldl (fun s x => s.verdictReached x.1 x.2) s.completeCtxs.serveAll.settleWaits).answerResync

/-! ## STEP_CLOSE_BEGIN (R167, R168, R380, R407) -/

/-- The contexts that a program opened with a step number and has not freed (R167). -/
def State.stepCtxs (s : State) (p prog : Nat) (step : W64) : List Ctx :=
  (s.ctxsOf p prog).filter (fun c => !c.registrar && c.step.toNat == step.toNat % 2 ^ 20)

/-- Every UPD_APPLY of the program has bound or been refused (R407). -/
def State.updSettled (s : State) (p prog : Nat) : Bool :=
  !s.bindings.any (fun b => b.part == p && b.prog == prog && b.st == .waiting) &&
  !s.clusters.any (fun k => s.clPart k.1 == p && k.2.hubq.any (fun h => h.prog == prog && h.fresh 0xE0))

/-- The close may begin (R167, R407). -/
def State.closeReady (s : State) (p prog : Nat) : Bool :=
  let r := s.srec p prog
  s.regOn && (s.taskInSlot p prog).any (fun t => tdStep t.desc) && r.released && r.raised && !r.closing &&
  (s.stepCtxs p prog r.step).all (fun c => c.st != .open_) && s.updSettled p prog

/-- A plan record of the given stages, with c = 1, window 1 and result_all (R361, R380). -/
def verdictPlan (st : List (Nat × Nat)) : Block :=
  BitVec.ofNat 512 (st.length + 2 ^ 2 + 2 ^ 8 + 2 ^ 32 +
    ((List.range st.length).zip st).foldl (fun a x => a + (x.2.1 + x.2.2 * 4) * 2 ^ (128 + 32 * x.1)) 0)

/-- The stages of a job's verdict context (R380). -/
def State.verdictStages (s : State) (job : Nat) : List (Nat × Nat) :=
  if jTwin (s.jobEntry job) then [(3, (s.pairsOf job).length)]
  else (s.longAxes job).map (fun a => (a, jExt (s.jobEntry job) a))

/-- The Registrar contributes its two values (R168, R380). -/
def State.contributeVerdict (s : State) (x : Ctx) (b f : Nat) : State :=
  let dst := s.homeOf x 1 0
  let payload := leBytes (code32 (vInt b)).toNat 4 ++ leBytes (code32 (vInt f)).toNat 4
  let p := s.contribPacket x 4 dst 0x1FF 0x1FF 0 (1 * 256) payload
  if s.noticed x.job.toNat dst then s else if dst = s.ownId then s.takeOwn x.part p else s.inject p

/-- STEP_CLOSE_BEGIN (R167, R168, R380): B and F are counted and the verdict context opened, no earlier than R370
allows. -/
def stepCloseStep (q prog : Nat) (s : State) : State :=
  let p := s.partOf q
  if !s.closeReady p prog then s
  else match s.taskInSlot p prog with
    | none => s
    | some t =>
      let r := s.srec p prog
      let cs := s.stepCtxs p prog r.step
      let b := r.bSeen + (cs.filter (fun c => c.gradient && c.bad != 0)).length
      let f := r.fSeen + (cs.filter (fun c => c.st == .failed)).length
      let last := cs.foldl (fun m c => max m c.deadline) r.dlSeen
      let n := r.step.toNat % 4096
      let before := sget 0 r.verdicts n
      let s := if before = 0 then s else s.runToNow (before + 100000)
      let x : Ctx := {
        part := p, prog := prog, job := BitVec.ofNat 10 t.job, registrar := true, ctx := BitVec.ofNat 12 n,
        gradient := false, topk := false, k := 1, twin := jTwin (s.jobEntry t.job), step := BitVec.ofNat 20 r.step.toNat,
        elements := 2, deadline := max (if last = 0 then 0 else last + 100000) (s.now + 1000000),
        plan := verdictPlan (s.verdictStages t.job), result := 0 }
      let s := s.onSrec p prog (fun r => { r with closing := true })
      ((s.openCtx x).contributeVerdict x b f).afterHub

end Sys2Proof.Machine
end

