-- ==== Sys2Proof/Machine/HubRows.lean ====
section
/-!
DEFINITION. The meanings of the collective and update commands, of the hubs' own events, and of a halt report (R167, R196, R244 to R252, R368,
R370, R375, R393, R409).
-/
namespace Sys2Proof.Machine

/-- LOGGED_UNIT_RETAKE (R368): the next logged unit that has a slot is taken back. -/
def retakeStep (h : Nat) (s : State) : State := s.retake h

/-- PREOPEN_EXPIRE (R370): the oldest unit of the buffer has been kept for 100 µs. -/
def preopenExpireStep (h : Nat) (s : State) : State :=
  match (s.hub h).preopen with
  | [] => s
  | u :: _ =>
    let s := s.runToNow (u.at_ + 100000)
    (s.onHub h (fun b => { b with preopen := b.preopen.tail })).lateDrop h (unitsOf u.pkt)

/-- A context that its deadline concerns: open, or complete with results held for an UPD_APPLY that has not come (R251,
R375). -/
def Ctx.awaits (c : Ctx) : Bool := c.st == .open_ || (c.st == .complete && !c.registrar && !c.bound && !c.held.isEmpty)

/-- A context at its deadline: it fails with DEADLINE, or its held results are dropped. -/
def State.expireCtx (s : State) (c : Ctx) : State :=
  if c.st = .open_ then s.failCtx c 1 else s.setCtx { c with held := [] }

/-- CONTEXT_DEADLINE (R375, R377): the earliest deadline in the partition of quadrant `q` passes. -/
def contextDeadlineStep (q : Nat) (s : State) : State :=
  let cs := s.red.ctxs.filter (fun c => c.part == s.partOf q && c.awaits)
  match least (cs.map (fun c => c.deadline)) with
  | none => s
  | some d =>
    let s := s.runToNow d
    (cs.filter (fun c => c.deadline ≤ s.now)).foldl State.expireCtx s

/-! ## The meanings -/

/-- A step of the collective engines or update units, with what follows it. -/
def hubRow (f : State → State) (s : State) : Host.Outcome State Fault Refusal :=
  .next (s.taskFrame (f s).afterHub.settle)

def execHaltReport (c : ClusterId) (s : State) : Host.Outcome State Fault Refusal :=
  .next (s.taskFrame (haltReportStep c.val s).settle)

def execRedOpen (c : ClusterId) (s : State) : Host.Outcome State Fault Refusal := hubRow (redOpenStep c.val) s

def execRedContrib (c : ClusterId) (s : State) : Host.Outcome State Fault Refusal := hubRow (contribStep 0xD1 c.val) s

def execRedContribTopk (c : ClusterId) (s : State) : Host.Outcome State Fault Refusal :=
  hubRow (contribStep 0xD2 c.val) s

def execRedWait (c : ClusterId) (s : State) : Host.Outcome State Fault Refusal := hubRow (redWaitStep c.val) s

def execRingPass (c : ClusterId) (s : State) : Host.Outcome State Fault Refusal := hubRow (ringPassStep c.val) s

def execSend (c : ClusterId) (s : State) : Host.Outcome State Fault Refusal := hubRow (sendStep c.val) s

def execRecv (c : ClusterId) (s : State) : Host.Outcome State Fault Refusal := hubRow (recvStep c.val) s

def execUpdApply (c : ClusterId) (s : State) : Host.Outcome State Fault Refusal := hubRow (updApplyStep c.val) s

def execWaitingBindingCheck (desc : Addr) (s : State) : Host.Outcome State Fault Refusal :=
  hubRow (waitingCheckStep desc) s

def execUpdInstall (c : ClusterId) (s : State) : Host.Outcome State Fault Refusal := hubRow (updInstallStep c.val) s

def execStepCloseBegin (q : Quad) (p : ProgSlot) (s : State) : Host.Outcome State Fault Refusal :=
  hubRow (stepCloseStep q.val p.val) s

def execBindingClose (q : Quad) (s : State) : Host.Outcome State Fault Refusal := hubRow (bindingCloseStep q.val) s

def execLoggedUnitRetake (h : Quad) (s : State) : Host.Outcome State Fault Refusal := hubRow (retakeStep h.val) s

def execPreopenExpire (h : Quad) (s : State) : Host.Outcome State Fault Refusal := hubRow (preopenExpireStep h.val) s

def execContextDeadline (q : Quad) (s : State) : Host.Outcome State Fault Refusal :=
  hubRow (contextDeadlineStep q.val) s

end Sys2Proof.Machine
end

