-- ==== Sys2Proof/Machine/Gate.lean ====
section
/-!
DEFINITION. How an access to a host-window page is met (R58, R435, R438 to R440, R448): the page may be unmapped, its
serving processor may restart or have failed, and the access must be of 4 or 8 aligned bytes.
-/
namespace Sys2Proof.Machine

/-- Bases of the negotiation page, the package page, the partition pages (R438) and the reset controller (R467). -/
def negPage : Addr := ctlBase
def pkgPage : Addr := ctlBase + 0x1000
def partPage (q : Nat) : Addr := ctlBase + 0x2000 + 0x1000 * q
def rstPage : Addr := ctlBase + 0x100000

/-- The host and the firmware have agreed (R447, R448). -/
def State.agreedNow (s : State) : Bool := s.stw.neg == 1

/-- Run state of a firmware processor (R434). -/
def State.procSt (s : State) : Proc → RunSt
  | .custodian => s.stw.custodian.st
  | .bursar => s.stw.bursar.st
  | .registrar => s.stw.registrar.st
  | .curator c => (sget {} s.stw.curators c.val).st

/-- The page that holds `a` is mapped (R438, R448). -/
def State.pageMapped (s : State) (a : Addr) : Bool :=
  if a < pkgPage then true
  else if a < partPage 0 then s.agreedNow
  else if a < partPage 4 then s.agreedNow && s.quads ((a - partPage 0) / 0x1000) != []
  else inside a 1 rstPage 0x1000

/-- The size and alignment of an access to a page (R440). -/
def pageAccessOk (r : HostReq) : Bool := (r.size == 4 || r.size == 8) && r.addr % r.size == 0

/-- Accesses to one page are served in arrival order (R440): an earlier one of the page is held. -/
def State.pageBusy (s : State) (a : Addr) : Bool := s.host.held.any (fun h => h.addr / 0x1000 == a / 0x1000)

/-- The access cannot be served now; its answer waits (R440). -/
def State.holdAccess (s : State) (r : HostReq) : State :=
  { s with host := { s.host with held := s.host.held ++ [r], resp := .held } }

/-- Reset value of a partition-page register at an offset (R173, R212; the others reset to 0). -/
def partReset (off : Nat) : W64 :=
  if off = 0x180 then 0x107D0#64
  else if 0x400 ≤ off ∧ off < 0x600 ∧ off % 0x40 = 0 then 0x000003E8019F7F8F#64
  else 0

/-- Half `hi` of an 8-byte value, or all of it. -/
def halfOf (v : W64) (size off : Nat) : W64 := if size = 8 then v else BitVec.ofNat 64 (fld v (8 * (off % 8)) 32)

/-- A partition page whose quadrants are in reset, but for PART_PROMOTE (R471). -/
def State.pageInReset (s : State) (a : Addr) : Bool :=
  partPage 0 ≤ a && a < partPage 4 && s.inReset ((a - partPage 0) / 0x1000) && a % 0x1000 / 8 * 8 != 0x10

/-- An access to a page register (R435, R440, R448, R471): `f` is what it does once its server takes it; `p` is that server,
none for a register backed by hardware. Nobody is there to ask while the package is dark, but for the page that the boot ROM serves
(R452). -/
def State.gated (s : State) (p : Option Proc) (r : HostReq) (f : State → State) : State :=
  let rom := s.stw.romOnly && decide (r.addr < pkgPage)
  if s.dark && !rom then s
  else if !s.pageMapped r.addr then (s.hostError 0 r.addr).respond .error
  else if !pageAccessOk r then (s.hostError 5 r.addr).respond .error
  else if s.pageInReset r.addr then
    s.respond (.done (if r.data.isEmpty then (halfOf (partReset (r.addr % 0x1000 / 8 * 8)) r.size r.addr).toNat else 0))
  else match (if rom then none else p) with
    | none => f s
    | some q => match s.procSt q with
      | .failed => (s.hostError 5 r.addr).respond .error
      | .restarting => s.holdAccess r
      | .running => if s.pageBusy r.addr then s.holdAccess r else f s

/-- An 8-byte or 4-byte write of a page register by the host. -/
def pageWrite (a : Addr) (size : Nat) (v : W64) : HostReq :=
  { agent := .store, addr := a, size := size, data := leBytes v.toNat size }

/-- A row that is the write of a page register: met as R440 says, then done and acknowledged. -/
def State.writeRow (s : State) (p : Option Proc) (a : Addr) (size : Nat) (v : W64) (f : State → State) : State :=
  s.gated p (pageWrite a size v) (fun s => (f s).respond (.done 0))

/-- What a write of a page register changes that acts on nothing but the partitions' and the host's own registers. -/
def State.pageFrame (s t : State) : State :=
  { s with parts := t.parts, host := t.host, stw := { s.stw with events := t.stw.events, errlog := t.stw.errlog } }

/-- What the Registrar's work on rings, tasks and slots changes: everything that the end of a task changes, and the number of
tasks read. -/
def State.admitFrame (s t : State) : State :=
  { s.taskFrame t with
    nextTask := t.nextTask
    reset_ := { s.reset_ with fcBeyond := t.reset_.fcBeyond, rsAsked := t.reset_.rsAsked, rsReady := t.reset_.rsReady } }

end Sys2Proof.Machine
end

