-- ==== Sys2Proof/Machine/Bursar.lean ====
section
/-!
DEFINITION. The power cap and best-effort issue (R343 to R345).
-/
namespace Sys2Proof.Machine

/-- A write of STW_POWER_CAP (R343, R344): cap_w is clamped to 2,500 to 5,000, over_cap is cleared by a 1, and the cap in force is
settled against the reservation. -/
def State.powerCap (s : State) (v : W64) : State :=
  ({ s with power := { s.power with capW := max 2500 (min 5000 (fld v 0 13)), overCap := s.power.overCap && !bit v 30 } }).settleCap

def powerCapWriteStep (v : W64) (s : State) : State :=
  s.writeRow (some .bursar) (pkgPage + 0x40) 8 v (fun s => s.powerCap v)

/-- be_fraction after a measurement of `w` watts (R345, R498): the Bursar's choice (log 18), at most one step above the one before,
below it while power exceeds the cap, and 0 while temperature holds issue. -/
def nextFraction (p : PowerSt) (w : Nat) : Nat :=
  if p.thermalHold then 0
  else
    let k := min (Config.bursarChoice p.beFraction w p.capEff) (min 16 (p.beFraction + 1))
    if p.capEff < w then min k (p.beFraction - 1) else k

/-- BURSAR_POWER_MEASURE (R345): with issue already at 0/16 and power above the cap, over_cap is set. -/
def bursarPowerMeasureStep (w : Nat) (s : State) : State :=
  if s.stw.bursar.st != .running then s
  else { s with power := { s.power with
    beFraction := nextFraction s.power w
    overCap := s.power.overCap || (s.power.beFraction == 0 && decide (s.power.capEff < w)) } }

/-- What the Bursar's registers change. -/
def State.capFrame (s t : State) : State :=
  { s with power := { s.power with capW := t.power.capW, capEff := t.power.capEff, capHeld := t.power.capHeld,
                                   overCap := t.power.overCap, beFraction := t.power.beFraction }
           host := t.host, stw := { s.stw with events := t.stw.events, errlog := t.stw.errlog } }

def execPowerCapWrite (v : W64) (s : State) : Host.Outcome State Fault Refusal := .next (s.capFrame (powerCapWriteStep v s))

def execBursarPowerMeasure (w : Nat) (s : State) : Host.Outcome State Fault Refusal :=
  .next (s.capFrame (bursarPowerMeasureStep w s))

end Sys2Proof.Machine
end

