-- ==== Sys2Proof/Machine/Catalogue.lean ====
section
/-!
DEFINITION. The catalogue (R15 to R22): which copy is valid and current, the role and slot that a site now has, and the
writing of records.
-/
namespace Sys2Proof.Machine

/-! ## Verification (R19 to R22, R51) -/

/-- A record body is of a lawful form for its kind (R21, R22, R51). -/
def bodyOk (kind : Nat) (b : BitVec 256) : Bool :=
  match kind with
  | 1 => decide (fld b 120 8 ≤ 6) && fld b 113 7 == 0 && fld b 128 128 == 0
  | 2 =>
    let site := fld b 96 6
    let quad := fld b 102 2
    decide (fld b 104 3 ≤ 4) && decide (fld b 112 8 ≤ 5) && !bit b 111 && fld b 120 136 == 0 &&
      (if site = 0x3F then fld b 104 3 == 3 && fld b 107 4 == 0xF
       else decide (site < 36) && siteQuad site == quad && (decide (fld b 107 4 ≤ 7) || fld b 107 4 == 0xF))
  | 3 => decide (fld b 114 2 < 3) && fld b 118 138 == 0
  | _ => false

/-- Journal entry number `i` verifies under a panel serial (R20). -/
def JournalEntry.ok (e : JournalEntry) (panel : W64) (i : Nat) : Bool :=
  e.tagOk && e.version == 1 && e.reserved == 0 && e.index.toNat == i && e.panel == panel && bodyOk e.kind.toNat e.body

/-- Entry of die `d` of the factory part is lawful (R18, R19), bits [63:9] of its feature map zero (R26). -/
def entryOk (numerics : BitVec 8) (d : Nat) (e : BitVec 256) : Bool :=
  decide (fld e 8 3 ≤ 4) && fld e 105 55 == 0 && fld e 160 96 == 0 &&
    (if d < 36 then true
     else (fld e 8 3 == 0 || fld e 8 3 == 3) && fld e 12 4 == 0xF && fld e 24 8 == numerics.toNat)

/-- The journal verifies from entry number `i` on. -/
def journalOk (panel : W64) : Nat → List JournalEntry → Bool
  | _, [] => true
  | i, e :: t => e.ok panel i && journalOk panel (i + 1) t

/-- The entries verify from die `d` on. -/
def entriesOk (numerics : BitVec 8) : Nat → List (BitVec 256) → Bool
  | _, [] => true
  | d, e :: t => entryOk numerics d e && entriesOk numerics (d + 1) t

/-- A copy is valid (R15, R19 to R22), bits [63:9] of the package feature map zero (R26). -/
def Catalogue.valid (c : Catalogue) : Bool :=
  c.sigOk && fld c.features 9 55 == 0 && c.entries.length == 40 && entriesOk c.numerics 0 c.entries && journalOk c.panel 0 c.journal

/-- A copy is there and valid. -/
def copyValid : Option Catalogue → Bool
  | none => false
  | some c => c.valid

/-- The boot's choice (R16): use copy B. -/
def PanelSt.pickB (p : PanelSt) : Bool :=
  copyValid p.copyB && (!copyValid p.copyA || decide ((p.copyA.map (fun c => c.seq.toNat)).getD 0 < (p.copyB.map (fun c => c.seq.toNat)).getD 0))

/-- The current catalogue, if it is valid (R16). -/
def PanelSt.catalogue (p : PanelSt) : Option Catalogue :=
  let c := if p.useB then p.copyB else p.copyA
  if copyValid c then c else none

/-! ## Roles and slots (R18) -/

def roleActive : Nat := 0
def roleReserve : Nat := 1
def rolePromoted : Nat := 2
def roleFailed : Nat := 3
def roleIneligible : Nat := 4

/-- The die that a role-change record names (R21). -/
def roleDie (b : BitVec 256) : Nat := if fld b 96 6 = 0x3F then 36 + fld b 102 2 else fld b 96 6

/-- Role and logical slot (15: none) of die `d`: its entry, as changed by the later role-change records in order (R18). -/
def Catalogue.siteNow (c : Catalogue) (d : Nat) : Nat × Nat :=
  let e : BitVec 256 := c.entries.getD d 0
  c.journal.foldl (fun r j => if j.kind = 2 ∧ roleDie j.body = d then (fld j.body 104 3, fld j.body 107 4) else r)
    (fld e 8 3, fld e 12 4)

/-- The site of the last promotion record for a slot of a quadrant (R22): whose die last left it. -/
def Catalogue.lastFailed (c : Catalogue) (q slot : Nat) : Nat :=
  c.journal.foldl (fun r j => if j.kind = 1 ∧ fld j.body 108 2 = q ∧ fld j.body 110 3 = slot then fld j.body 96 6 else r) 0x3F

/-! ## Records (R16, R20 to R22, R51) -/

/-- A field record before it is written. -/
inductive Rec where
  | promotion (failed reserve quad slot outcome : Nat)
  | role (die role slot cause : Nat)
  | lane (r : Repair)
  deriving DecidableEq, Repr

/-- Kind of a record (R20). -/
def Rec.kind : Rec → BitVec 8
  | .promotion _ _ _ _ _ => 1
  | .role _ _ _ _ => 2
  | .lane _ => 3

/-- Body of a record in the copy of sequence number `seq`, committed at `now` (R21, R22, R51). -/
def Rec.body (r : Rec) (seq now : Nat) : BitVec 256 :=
  match r with
  | .promotion f rs q sl o => BitVec.ofNat 256 (seq + now * 2 ^ 32 + f * 2 ^ 96 + rs * 2 ^ 102 + q * 2 ^ 108 + sl * 2 ^ 110 + o * 2 ^ 120)
  | .role d ro sl ca =>
    BitVec.ofNat 256 (seq + now * 2 ^ 32 + (if d < 36 then d else 0x3F) * 2 ^ 96 + (if d < 36 then siteQuad d else d - 36) * 2 ^ 102 +
      ro * 2 ^ 104 + sl * 2 ^ 107 + ca * 2 ^ 112)
  | .lane p =>
    BitVec.ofNat 256 (seq + p.time.toNat * 2 ^ 32 + p.edge * 2 ^ 96 + p.slice * 2 ^ 103 + p.lane * 2 ^ 107 + p.action * 2 ^ 114 +
      p.spare * 2 ^ 116 + b2n p.dir * 2 ^ 117)

/-- A journal with more records at its end (R20); every tag is recomputed and verifies (R15, log 7). -/
def addRecords (panel : W64) (seq now : Nat) (j : List JournalEntry) (rs : List Rec) : List JournalEntry :=
  rs.foldl (fun j r =>
    j ++ [{ kind := r.kind, version := 1, reserved := 0, index := BitVec.ofNat 32 j.length, panel := panel
            body := r.body seq now, tagOk := true }]) j

/-- The site that holds slot `sl` of quadrant `q`. -/
def Catalogue.holder (c : Catalogue) (q sl : Nat) : Option Nat := (quadSites q).find? (fun d => (c.siteNow d).2 == sl)

/-- The die with role FAILED at site `d` has kept slot `sl` of quadrant `q` and no reset has applied R32 to it yet (R24, R29). -/
def Catalogue.unapplied (c : Catalogue) (q sl d : Nat) : Bool := (c.siteNow d).1 == roleFailed && c.lastFailed q sl != d

/-- The next copy of a catalogue: the records appended, the sequence number one higher (R16). -/
def Catalogue.next (c : Catalogue) (now : Nat) (rs : List Rec) : Catalogue :=
  { c with seq := c.seq + 1, journal := addRecords c.panel (c.seq + 1).toNat now c.journal rs }

/-- Write records to the copy that is not current, which then becomes current (R16); without a record or a valid catalogue,
nothing is written. -/
def State.writeRecords (s : State) (rs : List Rec) : State :=
  match s.panel.catalogue with
  | none => s
  | some c =>
    if rs.isEmpty then s
    else
      let n := c.next s.now rs
      { s with panel := { s.panel with
          copyA := if s.panel.useB then some n else s.panel.copyA
          copyB := if s.panel.useB then s.panel.copyB else some n
          useB := !s.panel.useB } }

end Sys2Proof.Machine
end

