-- ==== Sys2Proof/WellFormed.lean ====
section
/-!
DEFINITION. Which commands can come about: the checks on a command's operands that its types do not make. A
command that fails its check names nothing that the part can meet, and changes nothing.
-/
namespace Sys2Proof

/-- The message of a SYSTEM packet is reserved (R351, R472). -/
def Packet.sysReserved (p : Packet) : Bool :=
  !(p.payload.head?.any (fun b => [1, 2, 3, 4, 0x10, 0x11, 0x12, 0x13, 0x14, 0x15].contains b.toNat))

/-- The kinds a frame's row admits: `k` (R314); the row WRITE also carries the reserved kinds, which R318 drops, and the SYSTEM
packets of reserved subkinds, which R351 drops. -/
def Packet.kindOk (k : Nat) (p : Packet) : Bool :=
  p.kind.toNat == k || (k == 0 && (11 ≤ p.kind.toNat || (p.kind == 9 && p.sysReserved)))

/-- A packet of kind `k` whose payload is the `len` 64-byte units its header states (R313; R317 drops one of more than 8); a CREDIT
packet is header only (R314). -/
def Packet.wf (k : Nat) (p : Packet) : Bool :=
  p.kindOk k && p.payload.length == 64 * p.len.toNat && (k != 10 || p.len == 0)

/-- A SYSTEM packet whose first payload byte is the message type `t` (R327, R349, R474 to R478). -/
def Packet.wfSystem (t : Nat) (p : Packet) : Bool :=
  p.wf 9 && (p.payload.head?.map BitVec.toNat == some t)

/-- A slice that edge `e` has (R43). -/
def sliceOk (e : EdgeId) (slice : Fin 16) : Bool := slice.val < Machine.edgeSlices e.val

/-- A request at a memory controller is for a byte of HBM (R60, R69). -/
def reqOk (a : Addr) : Bool := a < Machine.hbmEnd

/-- Banks of a scrubbed SRAM (R98, R281, R385): 32 of a carrel, 512 of a ledger SRAM. -/
def SramStore.bankOk (st : SramStore) (bank : Fin 512) : Bool :=
  match st with
  | .carrel _ => bank.val < 32
  | .ledger _ => true

/-- The check of each command (R43, R313, R500 ...); commands whose types say everything pass. -/
def Instr.wellFormed (i : Instr) : Bool :=
  match i with
  | .flitReceive e sl _ _ => sliceOk e sl
  | .laneFailure e sl _ _ => sliceOk e sl
  | .laneReplaced e sl _ => sliceOk e sl
  | .sliceRetire e sl => sliceOk e sl
  | .mergeCommit b => b % 64 == 0
  | .requestAgeBlock a _ _ => reqOk a
  | .carrelScrubRow st bank => st.bankOk bank
  | .write a => a.pkt.wf 0
  | .readReq a => a.pkt.wf 1
  | .readRsp a => a.pkt.wf 2
  | .remoteSignal a => a.pkt.wf 3
  | .contrib a => a.pkt.wf 4
  | .contribTopk a => a.pkt.wf 5
  | .fragment a => a.pkt.wf 6
  | .result a => a.pkt.wf 7
  | .twin a => a.pkt.wf 8
  | .credit a => a.pkt.wf 10
  | .timeSync a => a.pkt.wfSystem 1
  | .stageReport a => a.pkt.wfSystem 2
  | .stageGo a => a.pkt.wfSystem 3
  | .stageAbandon a => a.pkt.wfSystem 4
  | .memberDown a => a.pkt.wfSystem 0x10
  | .memberDownProxy a => a.pkt.wfSystem 0x11
  | .memberUp a => a.pkt.wfSystem 0x12
  | .resyncReq a => a.pkt.wfSystem 0x13
  | .resyncReady a => a.pkt.wfSystem 0x14
  | .resyncDone a => a.pkt.wfSystem 0x15
  | .thermalSample _ | .registerWrite _ | .hostAccess _ | .powerOn | .vinSample _ _ | .pkgResetPin | .partitionResetRequest _ | .packageResetRequest _ | .partitionResetPhaseEnd _ _
  | .packageResetPhaseEnd _ | .archiveUnitTimeout _ _ _ _ | .reweightDrainEnd _ | .laneRepairRecord 
  | .hbmScrubBlock _ | .folioFetch _ | .curatorDispatch _ | .mma _ | .mmaComputeEnd _ | .mmaEpilogueEnd _ | .vop _ | .vfunc _
  | .funcLoadResident _ | .vrowstat _ | .vnormFwd _ | .vnormBwd _ | .vsoftmaxFwd _ | .vsoftmaxBwd _ | .vconv _ | .copy _ | .copy2d _
  | .copyt _ | .reblock _ | .gather _ | .scatter _ | .wait _ | .signal _ | .fence _ | .fenceSatisfied _ | .call _ | .timeat _
  | .timeatResume _ | .end_ _ | .clusterPartEnd _ | .redOpen _ | .redContrib _ | .redContribTopk _ | .redWait _ | .ringPass _ | .send _
  | .recv _ | .updApply _ | .waitingBindingCheck _ | .updInstall _ | .commandComplete _ _ | .haltReport _ | .claspAdd _ _ _
  | .tileClaspAdd _ _ _ | .signalRelease _ | .clusterPark _ | .clusterWake _ | .ringConfigWrite _ _ _ | .submissionRingRead _
  | .admissionDecision _ | .taskStart _ | .deadlineMiss _ | .programSwitch _ | .switchComplete _ | .stepCloseBegin _ _
  | .bindingClose _ | .powerCapWrite _ | .bursarPowerMeasure _ | .stageCheck _ _ | .stageDecision _ | .stageApply _ | .epochGraceEnd _
  | .timeSyncSend | .ppsEdge _ | .ptpMeasurement _ | .timeSet _ | .syncLossHoldover | .holdoverExpire | .refLossTimeout | .linkDown _ _
  | .linkRejoinDrainEnd _ | .beaconSend _ | .beacon _ _ _ | .trainingTimeout _ | .absentRetrain _ | .loggedUnitRetake _
  | .preopenExpire _ | .contextDeadline _ | .rejoinRelease _ | .resyncArm _ | .resyncCopyDone | .watchdogExpire _ | .restartComplete _
  | .ucieModuleDown _ | .featAcceptWrite _ | .memcfgWrite _ | .svnCommit _ | .svnCommitDone | .report | .extend | .certs
  | .attestOpDone | .lifecycleRequest _ | .archiveRead _ | .archiveCopyDone | .pkgResetNRelease | .referenceLost
  | .restartExceedsBound _ => true

end Sys2Proof
end

