-- ==== Sys2Proof/Machine/Mesh.lean ====
section
/-!
DEFINITION. The Izaux mesh at work (R42 to R56): delivery of flits, lane repair, slice retirement, reweighting and the
repair records.
-/
namespace Sys2Proof.Machine

/-! ## Flits (R45) -/

/-- Deliver the early flits that now follow in order. -/
def FlitDir.drain : Nat → FlitDir → FlitDir
  | 0, d => d
  | n + 1, d =>
    match d.early.find? (fun f => f.1 == d.expect) with
    | none => d
    | some f => FlitDir.drain n { d with expect := d.expect + 1, delivered := f.2 :: d.delivered,
                                         early := d.early.filter (fun g => g.1 != f.1) }

/-- A flit whose CRC holds: delivered once and in order (R45). -/
def FlitDir.take (d : FlitDir) (f : Flit) : FlitDir :=
  if f.seq < d.expect ∨ d.early.any (fun g => g.1 == f.seq) then d
  else
    let d := { d with early := d.early ++ [(f.seq, f.data)] }
    d.drain d.early.length

/-! ## Lanes (R46, R48) -/

/-- The lane that carries data lane `l`: itself, or its spare (R46). -/
def SliceDir.carrier (d : SliceDir) (l : Nat) : Nat :=
  match d.replaced.find? (fun r => r.1 == l) with
  | some r => 64 + r.2
  | none => l

/-- The first data lane whose carrier has failed: it awaits a replacement (R46). -/
def SliceDir.pending (d : SliceDir) : Option Nat := (List.range 64).find? (fun l => d.failed.contains (d.carrier l))

/-- The first spare that is neither failed nor in use (R46). -/
def SliceDir.freeSpare (d : SliceDir) : Option Nat :=
  (List.range 2).find? (fun i => !d.failed.contains (64 + i) && !d.replaced.any (fun r => r.2 == i))

/-- One direction of a slice of an edge. -/
def Edge.dir (e : Edge) (slice : Nat) (dir : Bool) : SliceDir := sget {} e.dirs (2 * slice + b2n dir)
def Edge.onDir (e : Edge) (slice : Nat) (dir : Bool) (f : SliceDir → SliceDir) : Edge :=
  { e with dirs := sset {} e.dirs (2 * slice + b2n dir) (f (e.dir slice dir)) }

/-- The unacknowledged flits of a slice go over the first other slice that carries traffic (R46; which one: log 71). -/
def FlitDir.reroute (d : FlitDir) (slice : Nat) (up : BitVec 16) : FlitDir :=
  match (List.range 16).find? (fun k => k != slice && bit up k) with
  | none => d
  | some k => { d with unacked := d.unacked.map (fun f => if f.slice = slice then { f with slice := k } else f) }

/-- A slice stops: it carries no traffic, and what it had not delivered goes over the others (R46). -/
def Edge.stopSlice (e : Edge) (slice : Nat) : Edge :=
  let up := clearBit e.sliceUp slice
  { e with sliceUp := up, fwd := e.fwd.reroute slice up, back := e.back.reroute slice up }

/-- The slice carries traffic while the edge is up, it is not retired, and no replacement runs in either direction (R46, R52). -/
def Edge.refresh (e : Edge) (slice : Nat) : Edge :=
  if e.up && !bit e.retired slice && (e.dir slice false).pending.isNone && (e.dir slice true).pending.isNone then
    { e with sliceUp := setBit e.sliceUp slice }
  else e.stopSlice slice

/-- Every slice of an edge by `Edge.refresh`. -/
def Edge.refreshAll (n : Nat) (e : Edge) : Edge := (List.range n).foldl Edge.refresh e

/-- An edge that is not trained carries nothing in any slice (R44, R52). -/
def Edge.dark (e : Edge) : Edge := { e with up := false, sliceUp := 0 }

/-- A lane fails (R46): it is counted since training (R52), and its slice stops while a replacement is due. -/
def Edge.failLane (e : Edge) (slice : Nat) (dir : Bool) (lane : Nat) : Edge :=
  if (e.dir slice dir).failed.contains lane then e
  else
    let e := e.onDir slice dir (fun d => { d with failed := d.failed ++ [lane], errors := d.errors.filter (fun x => x.1 != lane) })
    { e with laneEvents := satAdd e.laneEvents 1 }.refresh slice

/-- A flit whose CRC failed with a lane's parity in error: the fourth within 1 ms fails the lane (R46). -/
def Edge.laneError (e : Edge) (slice : Nat) (dir : Bool) (clock lane : Nat) : Edge :=
  let e := e.onDir slice dir (fun d => { d with errors := d.errors.filter (fun x => clock < x.2 + 1000000 * nsT) ++ [(lane, clock)] })
  if 4 ≤ ((e.dir slice dir).errors.filter (fun x => x.1 == lane)).length then e.failLane slice dir lane else e

/-- The edge carries traffic and the slice is not retired. -/
def Edge.live (e : Edge) (slice : Nat) : Bool := e.up && !bit e.retired slice

/-- The sender keeps a flit that has not been acknowledged, with the slice it was sent on (R45). -/
def FlitDir.keep (d : FlitDir) (slice : Nat) (f : Flit) : FlitDir :=
  if f.seq < d.expect ∨ d.early.any (fun g => g.1 == f.seq) ∨ d.unacked.any (fun (g : SentFlit) => g.seq == f.seq) then d
  else { d with unacked := d.unacked ++ [{ seq := f.seq, data := f.data, slice := slice }] }

/-- A flit reaches the receiver (R45): one whose CRC holds is taken and acknowledged, and leaves the replay buffer; one whose CRC
fails stays there and is replayed. A flit that is replayed has the content that was kept. -/
def FlitDir.receive (d : FlitDir) (slice : Nat) (f : Flit) : FlitDir :=
  let f := { f with data := (d.unacked.find? (fun (g : SentFlit) => g.seq == f.seq)).elim f.data (fun (g : SentFlit) => g.data) }
  if f.crcOk then { d with unacked := d.unacked.filter (fun g => g.seq != f.seq) }.take f
  else { d.keep slice f with replays := d.replays + 1 }

/-- The flit can come on this slice: a flit in the replay buffer comes on the slice that it is sent on (R45, R46). -/
def FlitDir.comesOn (d : FlitDir) (slice : Nat) (f : Flit) : Bool := d.unacked.all (fun g => g.seq != f.seq || g.slice == slice)

/-- One direction of an edge, and a change of it. -/
def Edge.flits (e : Edge) (dir : Bool) : FlitDir := if dir then e.back else e.fwd
def Edge.onFlits (e : Edge) (dir : Bool) (f : FlitDir → FlitDir) : Edge :=
  if dir then { e with back := f e.back } else { e with fwd := f e.fwd }

/-- FLIT_RECEIVE (R45, R46). -/
def Edge.receive (e : Edge) (slice : Nat) (dir : Bool) (clock : Nat) (f : Flit) : Edge :=
  let e := e.onFlits dir (fun d => d.receive slice f)
  if f.crcOk then e else f.laneError.foldl (fun e l => e.laneError slice dir clock l.val) e

/-! ## Routes (R53, R56) -/

/-- Bandwidth of an edge in slices that are not retired (R47). -/
def State.edgeBw (s : State) (e : Nat) : Nat := edgeSlices e - popCount (s.edge e).retired.toNat 16

/-- Dies in service and mesh edges up of a partition (R53, R54). -/
def State.partDies (s : State) (p : Nat) : List Nat :=
  s.panel.inService.filter (fun d => (s.quads p).contains (dieQuad d))
def State.partEdges (s : State) (p : Nat) : List Nat :=
  (List.range 72).filter (fun e => (s.edge e).up && (s.quads p).contains (dieQuad (edgeEnds e).1) &&
    (s.quads p).contains (dieQuad (edgeEnds e).2))

/-- The route tables that the Custodian computes for the routers of a partition (R53). -/
def State.partRoutes (s : State) (p : Nat) : List Route := routeTable (s.partDies p) (s.partEdges p) s.edgeBw

/-- The next edge of a route entry that a hash chooses, in proportion to the weights (R53, R56). -/
def pickEdge (next : List (Nat × Nat)) (h : Nat) : Option Nat :=
  match next with
  | [] => none
  | (e, w) :: rest => if h < w ∨ rest = [] then some e else pickEdge rest (h - w)

/-- The route entry in force from die `src` to die `dst` (R53). -/
def MeshSt.route (m : MeshSt) (src dst : Nat) : List (Nat × Nat) :=
  (m.routes.find? (fun r => r.src == src && r.dst == dst)).elim [] (fun r => r.next)

/-- The path of a request from die `at_` to die `dst`, as edges, for the hash of its source die and its granule: every router on the way
chooses by it, so all requests of one die to one granule take one path (R56). -/
def MeshSt.pathFrom (m : MeshSt) (hash dst : Nat) : Nat → Nat → List Nat
  | 0, _ => []
  | n + 1, at_ =>
    if at_ = dst then []
    else
      let next := m.route at_ dst
      match pickEdge next (hash % max 1 (next.map (fun x => x.2)).sum) with
      | none => []
      | some e => e :: (otherEnd e at_).elim [] (fun d => m.pathFrom hash dst n d)
def MeshSt.path (m : MeshSt) (src dst granule : Nat) : List Nat := m.pathFrom (Config.meshHash src granule) dst 40 src

/-- The partitions of the layout, by lowest quadrant. -/
def State.partitions (s : State) : List Nat := (List.range 4).filter (fun p => s.quads p != [])

/-- In-service tile dies of a partition with no path to their quadrant's hub inside it (R55). -/
def State.cutOff (s : State) (p : Nat) : List Nat :=
  let es := s.partEdges p
  (s.partDies p).filter (fun d => decide (d < 36) && !reachable es d (36 + siteQuad d))

/-- Which dies are isolated in a partition (R55). -/
def State.isolate (s : State) (p : Nat) : State :=
  let other := s.panel.isolated.filter (fun d => !(s.quads p).contains (dieQuad d))
  { s with panel := { s.panel with isolated := other ++ s.cutOff p } }

/-- Reweight the routes of a partition (R47, R56): an entry that changes waits for its router's drain. -/
def State.reweight (s : State) (p : Nat) : State :=
  let new := s.partRoutes p
  let changed := new.filter (fun r => !s.mesh.routes.contains r)
  let other := s.mesh.draining.filter (fun r => !(s.quads p).contains (dieQuad r.src))
  { s with mesh := { s.mesh with draining := other ++ changed } }

/-- A route change across edge `e` is draining (R52). -/
def MeshSt.edgeDraining (m : MeshSt) (e : Nat) : Bool :=
  m.draining.any (fun r => r.next.any (fun x => x.1 == e) ||
    m.routes.any (fun o => o.src == r.src && o.dst == r.dst && o.next.any (fun x => x.1 == e)))

/-- The last requests of the engines behind a router are acknowledged by this clock (R56, R65): the commands of its die that have done
their work and await completion. -/
def Cluster.lastAck (k : Cluster) : Nat :=
  (k.mxDone ++ k.vxDone.toList ++ k.cxDone.toList).foldl (fun t d => max t d.due) 0
def State.drainedAt (s : State) (router : Nat) : Nat :=
  (s.clusters.filter (fun p => (sget 0xFF s.panel.slotSite (clusterSlot p.1) : BitVec 8).toNat == router)).foldl
    (fun t p => max t p.2.lastAck) 0

/-- REWEIGHT_DRAIN_END (R56): the router applies its new entries. -/
def MeshSt.apply (m : MeshSt) (router : Nat) : MeshSt :=
  let mine := m.draining.filter (fun r => r.src == router)
  { m with
    routes := m.routes.map (fun o => (mine.find? (fun r => r.dst == o.dst && r.src == o.src)).getD o)
    draining := m.draining.filter (fun r => r.src != router) }

/-! ## Repairs (R46, R47, R50) -/

/-- A repair whose record is owed (R50). -/
def State.owe (s : State) (edge slice lane action spare : Nat) (dir : Bool) : State :=
  { s with mesh := { s.mesh with unrecorded := s.mesh.unrecorded ++
      [{ edge := edge, slice := slice, lane := lane, action := action, spare := spare, dir := dir, time := BitVec.ofNat 64 s.now }] } }

/-- Count in STW_FAULT_COUNT (R486). -/
def State.countLane (s : State) : State := { s with reset_ := { s.reset_ with fcLanes := satAdd s.reset_.fcLanes 1 } }
def State.countSlice (s : State) : State := { s with reset_ := { s.reset_ with fcSlices := satAdd s.reset_.fcSlices 1 } }
def State.countBeyond (s : State) : State := { s with reset_ := { s.reset_ with fcBeyond := satAdd s.reset_.fcBeyond 1 } }

/-- LANE_REPLACED (R46): the lane that awaits a replacement takes a free spare. The record names the lane that failed: the data lane, or
the spare that carried it (R51). -/
def State.replaceLane (s : State) (e slice : Nat) (dir : Bool) : State :=
  let d := (s.edge e).dir slice dir
  match d.pending, d.freeSpare with
  | some l, some i =>
    let s := s.onEdge e (fun k => (k.onDir slice dir (fun d =>
      { d with replaced := d.replaced.filter (fun r => r.1 != l) ++ [(l, i)] })).refresh slice)
    (s.owe e slice (d.carrier l) 0 i dir).countLane
  | _, _ => s

/-- A slice has a failed lane and no spare left in some direction (R47). -/
def Edge.beyondRepair (e : Edge) (slice : Nat) : Bool :=
  [false, true].any (fun d => (e.dir slice d).pending.isSome && (e.dir slice d).freeSpare.isNone)

/-- The partition whose mesh an edge belongs to; none for a ring edge (R54). -/
def State.edgePart (s : State) (e : Nat) : Option Nat := if e < 72 then some (s.partOf (dieQuad (edgeEnds e).1)) else none

/-- A slice is retired in both directions, and an edge whose last slice it was is down (R47, R49, R50). -/
def State.dropSlice (s : State) (e slice : Nat) : State :=
  let s := s.onEdge e (fun k => { k with retired := setBit k.retired slice }.stopSlice slice)
  let s := (s.owe e slice 0x7F 1 0 false).countSlice
  if s.edgeBw e = 0 then ((s.onEdge e Edge.dark).owe e slice 0x7F 2 0 false).countBeyond else s

/-- SLICE_RETIRE (R47, R49, R55, R56): the routes that cross the edge are reweighted. -/
def State.retireSlice (s : State) (e slice : Nat) : State :=
  let s := s.dropSlice e slice
  match s.edgePart e with
  | none => s
  | some p => (s.reweight p).isolate p

/-- A repair that was not recorded when power was lost is not in the edge any more; the lane's failure is (R50). -/
def SliceDir.unmake (d : SliceDir) (r : Repair) : SliceDir :=
  { d with replaced := if r.lane < 64 then d.replaced.filter (fun x => x.1 != r.lane)
      else d.replaced.map (fun x => if x.2 = r.spare then (x.1, r.lane - 64) else x) }
def Edge.unmake (e : Edge) (r : Repair) : Edge :=
  match r.action with
  | 0 => e.onDir r.slice r.dir (fun d => d.unmake r)
  | 1 => { e with retired := clearBit e.retired r.slice }
  | _ => e
def MeshSt.unmade (m : MeshSt) : MeshSt :=
  { m with unrecorded := []
           edges := m.unrecorded.reverse.foldl (fun es r => sset {} es r.edge ((sget {} es r.edge).unmake r)) m.edges }

/-! ## The rows -/

/-- What mesh events change. -/
def State.meshFrame (s t : State) : State :=
  { s with mesh := t.mesh, panel := t.panel, time := t.time, clusters := t.clusters,
           reset_ := { s.reset_ with fcLanes := t.reset_.fcLanes, fcSlices := t.reset_.fcSlices, fcBeyond := t.reset_.fcBeyond } }

/-- FLIT_RECEIVE (R45): a slice that carries traffic. -/
def flitStep (e slice : Nat) (dir : Bool) (f : Flit) (s : State) : State :=
  whenever ((s.edge e).up && bit (s.edge e).sliceUp slice && ((s.edge e).flits dir).comesOn slice f) (fun s => s.onEdge e (fun k => k.receive slice dir s.time.ticks f)) s
def execFlitReceive (e : EdgeId) (slice : Fin 16) (dir : Bool) (f : Flit) (s : State) : Host.Outcome State Fault Refusal :=
  formed (sliceOk e slice) s (s.meshFrame (flitStep e.val slice.val dir f s))

/-- LANE_FAILURE (R46): a lane loses lock. -/
def laneFailureStep (e slice : Nat) (dir : Bool) (lane : Nat) (s : State) : State :=
  whenever ((s.edge e).live slice) (fun s => s.onEdge e (fun k => k.failLane slice dir lane)) s
def execLaneFailure (e : EdgeId) (slice : Fin 16) (dir : Bool) (lane : Fin 66) (s : State) : Host.Outcome State Fault Refusal :=
  formed (sliceOk e slice) s (s.meshFrame (laneFailureStep e.val slice.val dir lane.val s))

def laneReplacedStep (e slice : Nat) (dir : Bool) (s : State) : State :=
  whenever ((s.edge e).live slice) (fun s => s.replaceLane e slice dir) s
def execLaneReplaced (e : EdgeId) (slice : Fin 16) (dir : Bool) (s : State) : Host.Outcome State Fault Refusal :=
  formed (sliceOk e slice) s (s.meshFrame (laneReplacedStep e.val slice.val dir s))

def sliceRetireStep (e slice : Nat) (s : State) : State :=
  whenever ((s.edge e).live slice && (s.edge e).beyondRepair slice) (fun s => s.retireSlice e slice) s
def execSliceRetire (e : EdgeId) (slice : Fin 16) (s : State) : Host.Outcome State Fault Refusal :=
  formed (sliceOk e slice) s (s.meshFrame (sliceRetireStep e.val slice.val s))

/-- REWEIGHT_DRAIN_END (R56): once the outstanding requests of the router's die are acknowledged. -/
def reweightDrainEndStep (router : Nat) (s : State) : State :=
  let s := s.runTo (s.drainedAt router)
  { s with mesh := s.mesh.apply router }
def execReweightDrainEnd (router : DieId) (s : State) : Host.Outcome State Fault Refusal :=
  .next (s.meshFrame (reweightDrainEndStep router.val s))

/-- LANE_REPAIR_RECORD (R50): the running Custodian appends the oldest record owed. -/
def repairRecordStep (s : State) : State :=
  match s.mesh.unrecorded with
  | [] => s
  | r :: rest =>
    whenever (s.stw.custodian.st == .running && !s.dark && s.panel.catalogue.isSome)
      (fun s => { s.writeRecords [.lane r] with mesh := { s.mesh with unrecorded := rest } }) s
def execLaneRepairRecord (s : State) : Host.Outcome State Fault Refusal := .next (s.meshFrame (repairRecordStep s))

end Sys2Proof.Machine
end

