-- ==== Sys2Proof/Machine/Links.lean ====
section
/-!
DEFINITION. Training, discovery and the loss of links (R288 to R293, R299 to R304), and the copy of a wiring plan into
the link layers (R296, R301).
-/
namespace Sys2Proof.Machine

/-! ## Power domains of the link layers (R40, R299) -/

/-- Domain `d` is on (R40). -/
def State.pdOn (s : State) (d : Nat) : Bool := bit s.reset_.pd d

/-- Link `l` can train: its lane group and its hub's link layer are on (R299). -/
def State.linkPowered (s : State) (l : Nat) : Bool := s.pdOn (68 + l) && s.pdOn (64 + l / 5)

/-! ## Beacons (R299 to R303) -/

/-- Package serial: the panel serial of the catalogue (R17, R299). -/
def State.serial (s : State) : W64 := (if s.panel.useB then s.panel.copyB else s.panel.copyA).elim 0 (fun c => c.panel)

/-- Capability map of this package (R303). -/
def State.capability (s : State) : W64 := s.pkgFeatures &&& s.stw.linkFeatures

def bcSerial (b : Block) : W64 := BitVec.ofNat 64 (fld b 0 64)
def bcPkg (b : Block) : Nat := fld b 64 13
def bcCoord (b : Block) (a : Nat) : Nat := fld b (77 + 5 * a) 5
def bcLink (b : Block) : Nat := fld b 92 5
def bcPort (b : Block) : Nat := fld b 97 3
def bcLoaded (b : Block) : Bool := bit b 100
def bcClass (b : Block) : BitVec 3 := BitVec.ofNat 3 (fld b 101 3)
def bcMajor (b : Block) : BitVec 8 := BitVec.ofNat 8 (fld b 120 8)
def bcPlan (b : Block) : W32 := BitVec.ofNat 32 (fld b 128 32)
def bcCap (b : Block) : W64 := BitVec.ofNat 64 (fld b 160 64)
def bcExpect (b : Block) : Nat := fld b 224 13

/-- Interface version of the firmware (R445). -/
def State.ifMinor (s : State) : Nat := fld s.stw.ifVersion 0 8
def State.ifMajor (s : State) : Nat := fld s.stw.ifVersion 8 8

/-- The beacon that this package sends on link `l` (R299). -/
def State.beaconOf (s : State) (l : Nat) : Block :=
  let p := s.plan
  let e := p.link l
  let body := s.serial.toNat + p.ownId * 2 ^ 64 + p.coord p.ownId 0 * 2 ^ 77 + p.coord p.ownId 1 * 2 ^ 82 +
    p.coord p.ownId 2 * 2 ^ 87 + l * 2 ^ 92 + p.portOf l * 2 ^ 97 + b2n p.loaded * 2 ^ 100 +
    (s.link l).cls.toNat * 2 ^ 101 + s.ifMinor * 2 ^ 112 + s.ifMajor * 2 ^ 120 + p.planId.toNat * 2 ^ 128 +
    s.capability.toNat * 2 ^ 160 + (if lUsed e then lNbr e else 0) * 2 ^ 224
  BitVec.ofNat 512 (body + (Config.crc32 (leBytes body 60)).toNat * 2 ^ 480)

/-- Training of a link begins: it carries no traffic and is unclassified until a beacon is heard (R299, R301). -/
def Link.train (k : Link) (clock : Nat) : Link :=
  { k with training := true, trainFrom := clock, beaconAt := clock, up := false, cap := 0, cls := 0, reason := 0,
           heard := false, lost := false, replayAt := [], rejoining := false, retrains := satAdd k.retrains 1 }

def State.trainLink (s : State) (l : Nat) : State := s.onLink l (fun k => k.train s.time.ticks)

/-- BEACON_SEND (R299): once every 1 ms while training runs. A link that is up and has told the neighbour so stops. -/
def beaconSendStep (l : Nat) (s : State) : State :=
  if !((s.link l).training && s.linkPowered l) then s
  else
    let s := s.runTo (s.link l).beaconAt
    let b := s.beaconOf l
    s.onLink l (fun k => { k with beacons := b :: k.beacons, beaconAt := k.beaconAt + 1000000 * nsT,
                                  training := !(k.up && k.cls == 1) })

/-- The first check of R300 that a beacon fails, 0 for none. -/
def State.beaconReason (s : State) (l : Nat) (b : Block) : BitVec 3 :=
  let p := s.plan
  let e := p.link l
  if bcSerial b = s.serial then 1
  else if bcPkg b ≠ lNbr e ∨ p.idAt (bcCoord b 0) (bcCoord b 1) (bcCoord b 2) ≠ bcPkg b then 2
  else if lSerial e ≠ 0 ∧ lSerial e ≠ (bcSerial b).toNat then 3
  else if bcPort b ≠ lNbrPort e then 4
  else if bcExpect b ≠ p.ownId then 5
  else 0

/-- Agreed feature set with the sender of a beacon (R302). -/
def State.agreedWith (s : State) (b : Block) : W64 :=
  let both := s.capability &&& bcCap b
  if bcMajor b = BitVec.ofNat 8 s.ifMajor then both else both &&& 3

/-- What a valid beacon says of its sender (R320, R474). -/
def Link.hear (k : Link) (b : Block) : Link :=
  { k with heard := true, named := true, peerId := BitVec.ofNat 13 (bcPkg b), peerLink := BitVec.ofNat 5 (bcLink b)
           peerMajor := bcMajor b, peerSerial := bcSerial b, peerPlan := bcPlan b, peerClass := bcClass b }

/-- Both ends number anew after training (log 23): what stands unacknowledged in the replay buffer is sent again, in its order. -/
def Link.renumber (k : Link) : Link :=
  let n := k.replay.length
  { k with txSeq := BitVec.ofNat 12 n, rxSeq := 0
           replay := ((List.range n).zip k.replay).map (fun x => sealPacket { x.2 with seq := BitVec.ofNat 12 (x.1 + 1), ack := 0 }) }

/-- Classification by a valid beacon (R300, R301), with the fields of R320. -/
def State.classify (s : State) (l : Nat) (b : Block) : State :=
  let first := !(s.link l).heard
  let r := s.beaconReason l b
  let cls : BitVec 3 := if !lUsed (s.plan.link l) then 4 else if r = 0 then 1 else 2
  let rtt := if first then Config.rttMeasured s.fresh else (s.link l).rtt
  let asym := if first then Config.laneAsym s.fresh else (s.link l).asym
  let s := if first then s.draw else s
  s.onLink l (fun k => { (k.hear b) with
    cls := cls, reason := if cls = 2 then r else 0, rtt := rtt, asym := asym, cap := if k.up then s.agreedWith b else k.cap })

/-- Both ends classify the link MATCH: it carries packets (R301). In a bundle that has other links up it drains first
(R293). -/
def State.bringUp (s : State) (l : Nat) (b : Block) : State :=
  let k := s.link l
  if k.cls = 1 ∧ k.peerClass = 1 ∧ !k.up then
    let others := s.upLinks (s.plan.portOf l)
    (s.onLink l (fun k => { k.renumber with up := true, cap := s.agreedWith b, rejoining := !others.isEmpty })).release
  else s

/-- A link that carries packets stops when its class, or the class that the neighbour reports, is no longer MATCH (R301); it goes on
sending beacons. Its unacknowledged packets wait for what LINK_DOWN learns (R292). -/
def Link.recheck (k : Link) : Link :=
  if k.up && !(k.cls == 1 && k.peerClass == 1) then { k with up := false, cap := 0, training := true, lost := true, rejoining := false } else k

/-- BEACON (R300 to R302): a frame with a bad CRC, or of a sender without a plan, is disregarded; a MISWIRED link keeps its
class until a beacon carries a new plan_id. A link that hears a beacon while it does not train begins to. -/
def beaconStep (l : Nat) (b : Block) (crcOk : Bool) (s : State) : State :=
  if !(s.linkPowered l && crcOk && bcLoaded b) then s
  else
    let k := s.link l
    if k.cls = 2 ∧ bcPlan b = k.peerPlan then s.onLink l (fun k => k.hear b)
    else
      let s := if k.cls = 2 ∨ (!k.training ∧ !k.up) then s.trainLink l else s
      ((s.classify l b).onLink l Link.recheck).bringUp l b

/-- TRAINING_TIMEOUT (R300, R304): 50 ms of training without a valid beacon. -/
def trainingTimeoutStep (l : Nat) (s : State) : State :=
  let k := s.link l
  if k.training && !k.heard && lUsed (s.plan.link l) then
    let s := s.runTo (k.trainFrom + 50000000 * nsT)
    s.onLink l (fun k => { k with training := false, cls := 3 })
  else s

/-- ABSENT_RETRAIN (R301): every 100 ms. -/
def absentRetrainStep (l : Nat) (s : State) : State :=
  let k := s.link l
  if k.cls == 3 && !k.training && s.linkPowered l then (s.runTo (k.trainFrom + 100000000 * nsT)).trainLink l else s

/-! ## Loss and return of a link (R289, R292, R293) -/

/-- A packet of a lost link leaves again, with the credit it holds (R292). -/
def State.resend (s : State) (port : Nat) (p : Packet) : State :=
  match pickLink (s.choice port) p with
  | some l => s.transmit l p
  | none => s

/-- Link `l` goes down (R289): a MATCH link is retrained at once (R301). With another link of the bundle up, the packets after `last`
are sent again ahead of every other (R292); when the port goes down with it, they stay in the replay buffer. -/
def State.loseLink (s : State) (l : Nat) (last : BitVec 12) : State :=
  let port := s.plan.portOf l
  let s := s.acked l last
  let held := (s.link l).replay
  let s := s.onLink l (fun k => { (if k.cls = 1 then k.train s.time.ticks else { k with up := false, lost := false, rejoining := false }) with
    downs := satAdd k.downs 1 })
  if (s.upLinks port).isEmpty then { s with reset_ := { s.reset_ with fcBeyond := satAdd s.reset_.fcBeyond 1 } }
  else
    let s := { s with reset_ := { s.reset_ with fcLinks := satAdd s.reset_.fcLinks 1 } }
    let s := s.onLink l (fun k => { k with replay := [] })
    ((held.filter (fun p => p.kind != 10)).foldl (fun s p => s.resend port p) s).release

/-- A packet waits for its acknowledgement on another link than the one it would take once every link of the port is chosen
among (R293). -/
def State.misplaced (s : State) (port : Nat) : Bool :=
  let all := s.upLinks port
  (s.choice port).any (fun l => (s.link l).replay.any (fun p => p.kind != 10 && pickLink all p != some l))

/-- LINK_REJOIN_DRAIN_END (R293). -/
def linkRejoinDrainEndStep (l : Nat) (s : State) : State :=
  let k := s.link l
  if k.up && k.rejoining && !s.misplaced (s.plan.portOf l) then
    (s.onLink l (fun k => { k with rejoining := false })).release
  else s

/-! ## The wiring plan in force (R296, R301) -/

/-- What a link's classification rests on: its entry, and this package's own id and sizes. -/
def Plan.linkView (p : Plan) (l : Nat) : BitVec 128 × Nat := (p.link l, fld p.header 32 28)

/-- The committed plan goes into every link layer (R296): ports follow it (R320), the lane groups of used links are on (R490), and
each link whose plan_id or entry changed trains again unless it is MATCH under an unchanged entry (R301). -/
def State.loadPlan (s : State) (p : Plan) : State :=
  let old := s.plan
  let s := { s with
    fabric := { s.fabric with plan := p }
    reset_ := { s.reset_ with pd := (List.range 20).foldl (fun d l => if lUsed (p.link l) then setBit d (68 + l) else d) s.reset_.pd } }
  let s := (List.range 20).foldl (fun s l => s.onLink l (fun k => { k with port := BitVec.ofNat 3 (p.portOf l) })) s
  if p.planId = old.planId then s
  else (List.range 20).foldl (fun s l =>
    let k := s.link l
    if k.cls = 1 ∧ old.linkView l = p.linkView l then s
    else if lUsed (p.link l) then s.trainLink l
    else if k.cls = 4 then s
    else s.onLink l (fun k => { k with up := false, cls := 0, reason := 0, cap := 0, training := false })) s

/-! ## The meanings -/

/-- What the link layers change. -/
def State.linkFrame (s t : State) : State :=
  { s with fabric := t.fabric, time := t.time, fresh := t.fresh, clusters := t.clusters
           reset_ := { s.reset_ with fcBeyond := t.reset_.fcBeyond, fcLinks := t.reset_.fcLinks } }

def execBeaconSend (l : LinkId) (s : State) : Host.Outcome State Fault Refusal :=
  .next (s.linkFrame (beaconSendStep l.val s))

def execBeacon (l : LinkId) (b : Block) (crcOk : Bool) (s : State) : Host.Outcome State Fault Refusal :=
  .next (s.linkFrame (beaconStep l.val b crcOk s))

def execTrainingTimeout (l : LinkId) (s : State) : Host.Outcome State Fault Refusal :=
  .next (s.linkFrame (trainingTimeoutStep l.val s))

def execAbsentRetrain (l : LinkId) (s : State) : Host.Outcome State Fault Refusal :=
  .next (s.linkFrame (absentRetrainStep l.val s))

def execLinkRejoinDrainEnd (l : LinkId) (s : State) : Host.Outcome State Fault Refusal :=
  .next (s.linkFrame (linkRejoinDrainEndStep l.val s))

end Sys2Proof.Machine
end

