-- ==== Sys2Proof/Machine/Slots.lean ====
section
/-!
DEFINITION. Slot tables, the usable time of a program slot, and the time of a program switch (R331, R332, R334, R339).
-/
namespace Sys2Proof.Machine

/-! ## The table (R331, R332) -/

/-- A partition's slot table: raw entries by number, and its anchor beat (R331). -/
structure SlotTable where
  raw    : Sparse (BitVec 32)
  anchor : Nat

/-- The table in force and the staged one. -/
def Part.table (p : Part) : SlotTable := { raw := p.slots, anchor := fld p.anchor 0 54 }
def Part.tableStg (p : Part) : SlotTable := { raw := p.slotsStg, anchor := fld p.anchorStg 0 54 }

/-- Entries before the first of length zero, as (beats, program; none when idle) (R331, R332). -/
def rawEntries (raw : Sparse (BitVec 32)) : List Nat → List (Nat × Option Nat)
  | [] => []
  | i :: t =>
    let v : BitVec 32 := sget 0 raw i
    if fld v 0 20 = 0 then []
    else (fld v 0 20, if bit v 23 then none else some (fld v 20 3)) :: rawEntries raw t

def SlotTable.entries (t : SlotTable) : List (Nat × Option Nat) := rawEntries t.raw (List.range 16)

/-- P in beats (R332). -/
def period (es : List (Nat × Option Nat)) : Nat := (es.map (fun e => e.1)).foldl (· + ·) 0

/-- (b − A) mod P, for a positive P. -/
def phaseOf (anchor per b : Nat) : Nat := (b + per - anchor % per) % per

/-- The entry that holds offset `o`: its number, and the beats left in it. -/
def entryAt (o : Nat) : Nat → List (Nat × Option Nat) → Nat × Nat
  | _, [] => (0, 0)
  | i, e :: t => if o < e.1 then (i, e.1 - o) else entryAt (o - e.1) (i + 1) t

/-- The program of the entry at beat `b`; without entries, slot 0 (R332). -/
def SlotTable.prog (t : SlotTable) (b : Nat) : Option Nat :=
  let es := t.entries
  if es.isEmpty then some 0
  else (es.getD (entryAt (phaseOf t.anchor (period es) b) 0 es).1 (0, none)).2

/-- The first of the entries that follow whose program is not `cur`, and the beats before it; none when all have it. -/
def seekChange (cur : Option Nat) : Nat → List (Nat × Option Nat) → Option Nat
  | _, [] => none
  | d, e :: t => if e.2 = cur then seekChange cur (d + e.1) t else some d

/-- The first beat from `b` on whose entry's program is not `cur` (R333). -/
def SlotTable.change (t : SlotTable) (cur : Option Nat) (b : Nat) : Option Nat :=
  let es := t.entries
  if t.prog b ≠ cur then some b
  else if es.isEmpty then none
  else
    let (i, left) := entryAt (phaseOf t.anchor (period es) b) 0 es
    (seekChange cur left (es.drop (i + 1) ++ es.take i)).map (fun d => b + d)

/-! ## Switch time (R334) -/

/-- F of a program: its largest per-quadrant footprint in bytes. -/
def Image.spillBytes (i : Image) : Nat :=
  ((List.range 4).map (fun q =>
    ((i.entries.map (fun e => e.1)).filter (fun c => clusterQuad c == q)).foldl (fun a c =>
      a + 73728 + 12352 * i.slots.length +
        ((i.footprint.filter (fun f => f.1 == c)).map (fun f => f.2.2)).foldl (· + ·) 0) 0)).foldl max 0

/-- t_sw in ns: F counts only where the step runs (R334). -/
def switchNs (out inc : Option Image) (saves loads : Bool) : Nat :=
  2000 + out.elim 0 (fun i => i.cmdMaxOut) +
    ceilDiv ((if saves then out.elim 0 Image.spillBytes else 0) + (if loads then inc.elim 0 Image.spillBytes else 0)) 12288

/-! ## Usable time (R339) -/

/-- Instances of a slot in one period, in ns: (start, loss, end). An instance after an entry of another program loses the time
of the switch; `lossOf` gives it from the program before. -/
def windows (slot : Nat) (lossOf : Option Nat → Nat) (prev : Option Nat) : Nat → List (Nat × Option Nat) → List (Nat × Nat × Nat)
  | _, [] => []
  | o, e :: t =>
    let rest := windows slot lossOf e.2 (o + 1024 * e.1) t
    if e.2 = some slot then (o, if prev = some slot then 0 else lossOf prev, o + 1024 * e.1) :: rest else rest

/-- Usable ns of the windows before offset `x` of a timeline that repeats every `per` ns. -/
def usedBefore (ws : List (Nat × Nat × Nat)) (per x : Nat) : Nat :=
  (ws.map (fun w =>
    let lo := min (w.1 + w.2.1) w.2.2
    x / per * (w.2.2 - lo) + (min (x % per) w.2.2 - lo))).foldl (· + ·) 0

/-- U of a slot in [S, d) (R339): the instance active at S counts from S with no switch. -/
def SlotTable.usable (t : SlotTable) (slot : Nat) (lossOf : Option Nat → Nat) (S d : Nat) : Nat :=
  let es := t.entries
  if d ≤ S then 0
  else if es.isEmpty then (if slot = 0 then d - S else 0)
  else
    let per := 1024 * period es
    let prev := (es.getLast?.map (fun e => e.2)).getD none
    let ws := windows slot lossOf prev 0 es
    let base := t.anchor * 1024 % per
    let s := S + per - base
    let e := d + per - base
    match ws.find? (fun w => decide (w.1 < s % per ∧ s % per < w.2.2)) with
    | none => usedBefore ws per e - usedBefore ws per s
    | some w =>
      let stop := s / per * per + w.2.2
      if e ≤ stop then e - s else stop - s + (usedBefore ws per e - usedBefore ws per stop)

/-- U over a change of tables at instant `C` (R339, R346, R350): `old` before it, `new` from it on. A program that `new` finds running at
`C` in the midst of an instance loses a switch there if `old` ran another. -/
def usableAcross (old new : SlotTable) (C slot : Nat) (lossOf : Option Nat → Nat) (S d : Nat) : Nat :=
  if d ≤ C then old.usable slot lossOf S d
  else if C ≤ S then new.usable slot lossOf S d
  else
    let before := old.prog (C / 1024 - 1)
    let u := new.usable slot lossOf C d
    old.usable slot lossOf S C +
      (if before ≠ some slot ∧ new.prog (C / 1024) = some slot ∧ new.prog (C / 1024 - 1) = some slot then u - lossOf before else u)

/-- Loss at a switch into `inc` from the program of an entry before it, both with tasks (R334, R339). -/
def State.lossInto (s : State) (p : Nat) (inc : Option Image) (out : Option Nat) : Nat :=
  let o := out.bind (fun k => ((s.prt p).prog k).image)
  switchNs o inc true true

/-- C + A of a task (R339). -/
def Task.need (t : Task) : Nat := tdCost t.desc + tdAllowance t.desc

/-- Accepted tasks of a slot (R337, R339). -/
def State.slotTasks (s : State) (p slot : Nat) : List Task :=
  (s.prt p).tasks.filter (fun t => t.accepted && tdSlot t.desc == slot)

end Sys2Proof.Machine
end

