-- ==== Sys2Proof/Machine/Tasks.lean ====
section
/-!
DEFINITION. From the submission ring to acceptance or refusal (R213 to R218, R338 to R340), and deadline misses (R223).
-/
namespace Sys2Proof.Machine

/-! ## RING_CONFIG_WRITE (R213) -/

/-- What PART_SUBQ or PART_CQ holds of a value written to it: a size outside 4 to 16 leaves the ring disabled, and enable then reads 0. -/
def ringValue (v : W64) : W64 := BitVec.ofNat 64 (fld v 0 5 + b2n (ringEnabled v) * 2 ^ 5 + fld v 12 36 * 2 ^ 12)

/-- PART_SUBQ or PART_CQ after a write of `v` at beat `b`, with what waits for the next beat boundary: while enable reads 1, only a
write of enable 0 counts, and it takes effect there. -/
def ringWritten (old next v : W64) (off : Option Nat) (b : Nat) : W64 × W64 × Option Nat :=
  let now := ringNow old next off b
  if !bit now 5 then (ringValue v, next, none)
  else if bit v 5 then (old, next, off)
  else (old, ringValue v, some (b + 1))

/-- What a write of PART_SUBQ or PART_CQ does (R213). -/
def State.ringConfig (s : State) (p : Nat) (cq : Bool) (v : W64) : State :=
  s.onPart p (fun t =>
    if cq then
      let (r, n, o) := ringWritten t.cq t.cqNext v t.cqOff s.beat
      { t with cq := r, cqNext := n, cqOff := o }
    else
      let (r, n, o) := ringWritten t.subq t.subqNext v t.subqOff s.beat
      { t with subq := r, subqNext := n, subqOff := o })

def ringConfigStep (q : Nat) (cq : Bool) (v : W64) (s : State) : State :=
  s.writeRow (some .registrar) (partPage q + (if cq then 0x108 else 0x100)) 8 v (fun s => s.ringConfig q cq v)

/-! ## SUBMISSION_RING_READ (R214, R215, R217) -/

/-- Places of the completion ring that are promised (R217): three for each task awaiting its decision; for each accepted task
one for its final record, and one for its DEADLINE_MISS record unless that is written. -/
def Part.promised (p : Part) : Nat :=
  (p.tasks.map (fun t => if t.accepted then 2 - b2n t.missed else 3)).foldl (· + ·) 0

/-- Read one descriptor (R215, R338): one that cannot be read whole is kept as unreadable, with task_id all ones when its first 8
bytes could not be read (R220). -/
def State.readDesc (s : State) (p a : Nat) : State :=
  let (s, bs) :=
    if s.ringRange p a 256 then
      let r := s.readPrefix a 256
      (r.1, r.2.1)
    else (s, [])
  let whole := bs.length == 256
  let d : BitVec 2048 := BitVec.ofNat 2048 (leNat bs)
  let d := if bs.length < 8 then BitVec.ofNat 2048 (2 ^ 64 - 1) else d
  let t : Task := { index := s.nextTask, desc := d, addr := a, readable := whole, st := .read, beat := s.beat, image := none }
  ({ s with nextTask := s.nextTask + 1 }).onPart p (fun q => { q with tasks := q.tasks ++ [t] })

/-- Read the descriptors from number `i` on, while there is room (R217). -/
def State.readDescs (s : State) (p base n free i : Nat) : Nat → State
  | 0 => s
  | k + 1 =>
    if (s.prt p).promised + 3 ≤ free then
      (s.readDesc p (base + 256 + 256 * (i % n))).readDescs p base n free (i + 1) k
    else s

/-- Distance between two free-running indices (R214). -/
def indexGap (prod cons : Nat) : Nat := (prod + 2 ^ 64 - cons) % 2 ^ 64

/-- The Registrar may serve the rings of partition `p` (R215, R434, R448). -/
def State.ringsServed (s : State) (p : Nat) : Bool :=
  s.regOn && s.agreedNow && s.subqOn p && s.cqOn p && !s.inReset p

/-- SUBMISSION_RING_READ (R215): once a beat. -/
def submissionRingReadStep (q : Nat) (s : State) : State :=
  let p := s.partOf q
  if !s.ringsServed p then s
  else
    let s := if (s.prt p).readBeat = some s.beat then s.runToNow ((s.beat + 1) * 1024) else s
    if !s.ringsServed p then s
    else
      let s := s.onPart p (fun t => { t with readBeat := some s.beat })
      let v := s.subqNow p
      match s.ringRead p (ringBase v) 16 with
      | (s, none) => s.ringFault p
      | (s, some x) =>
        let gap := indexGap (nfld x 0 64) (nfld x 64 64)
        if ringEntries v < gap then (s.onPart p (fun t => { t with subq := clearBit t.subq 5 })).event (2 ^ (1 + p))
        else match s.cqIndex p with
          | (s, none) => s.ringFault p
          | (s, some (cp, cc)) =>
            let waiting := ((s.prt p).tasks.filter (fun t => !t.accepted)).length
            s.readDescs p (ringBase v) (ringEntries v) (ringEntries (s.cqNow p) - indexGap cp cc)
              (nfld x 64 64 + waiting) (gap - waiting)

/-! ## ADMISSION_DECISION (R216, R338) -/

/-- The descriptor breaks R218. -/
def descBroken (d : BitVec 2048) : Bool :=
  !(fld d 304 16 == 0 && fld d 352 32 == 0 && fld d 496 16 == 0 && !bit d 543 && fld d 591 49 == 0 && fld d 688 1360 == 0 &&
    tdBase d % 64 == 0) ||
  (if tdStep d then
     4096 < tdTableCount d || 47 < tdStepClasp d || 47 < tdRelClasp d || tdStepCount d == 0 || 2 ^ 31 ≤ tdStepCount d ||
       tdStepWord d % 64 != 0
   else fld d 384 304 != 0)

/-- The current copy of the catalogue (R16). -/
def State.catalogue (s : State) : Option Catalogue := if s.panel.useB then s.panel.copyB else s.panel.copyA

/-- Package numerics revision (R184). -/
def State.catNumerics (s : State) : BitVec 8 := s.catalogue.elim 0 (fun c => c.numerics)

/-- A table list breaks R166. -/
def tableListBad (bs : List Byte) (n : Nat) : Bool :=
  (List.range n).any (fun i =>
    let t := leNat ((bs.drop (16 * i)).take 16)
    nfld t 48 16 == 0 || nfld t 64 16 == 0 || nfld t 82 46 != 0)

/-- Clusters that a task names (R36, R218). -/
def namedClusters (d : BitVec 2048) (i : Image) : List Nat :=
  i.entries.map (fun e => e.1) ++ (if tdStep d then [tdStepCluster d, tdRelCluster d] else [])

/-- The declared streams of a partition's other resident programs and of this one exceed a hub's entries (R208). -/
def State.streamsOver (s : State) (p slot : Nat) (i : Image) : Bool :=
  let others := (List.range 8).filterMap (fun k => if k = slot then none else ((s.prt p).prog k).image)
  (List.range 4).any (fun q =>
    16384 < ((i :: others).map (fun j => j.streamsOut.getD q 0)).foldl (· + ·) 0 ||
    16384 < ((i :: others).map (fun j => j.streamsIn.getD q 0)).foldl (· + ·) 0)

/-- PROG_SLOT_BUSY (R337, R338). -/
def State.slotBusy (s : State) (p : Nat) (d : BitVec 2048) : Bool :=
  let g := (s.prt p).prog (tdSlot d)
  let ts := s.slotTasks p (tdSlot d)
  (g.base.any (fun b => b != tdBase d) && !ts.isEmpty) || (tdGuar d && ts.any (fun t => !tdGuar t.desc))

/-- The job has a formed slice on this package, run by this partition (R307, R308, R338). -/
def State.sliceFormed (s : State) (p job : Nat) : Bool := s.fabric.formed.contains job && s.jobPart job == some p

/-- Time is kept well enough for guaranteed work (R330). -/
def State.timeKept (s : State) : Bool :=
  match s.time.state with
  | .free => true
  | .locked => true
  | .holdover => true
  | _ => false

/-- A table entry names the slot (R332, R338). -/
def SlotTable.names (t : SlotTable) (slot : Nat) : Bool :=
  if t.entries.isEmpty then slot == 0 else t.entries.any (fun e => e.2 == some slot)

/-- The test of R339 for a descriptor read at beat `b`; while a set of the partition waits for its commit, under the table that it would
bring as well, so that the commit takes no time from the task (R341, log 102). -/
def State.feasible (s : State) (p b : Nat) (d : BitVec 2048) (i : Image) : Bool :=
  let part := s.prt p
  let S := max (tdRelease d) (1024 * (b + 2))
  let need := tdCost d + tdAllowance d + ((s.slotTasks p (tdSlot d)).map Task.need).foldl (· + ·) 0
  let loss := s.lossInto p (some i)
  decide (need ≤ part.table.usable (tdSlot d) loss S (tdDeadline d)) &&
  part.stage.run.all (fun k => k.result != 0 ||
    decide (need ≤ usableAcross part.table part.tableStg (1024 * k.commit) (tdSlot d) loss S (tdDeadline d)))

/-- The reservation of R344 with one more guaranteed program in a partition. -/
def State.reservationWith (s : State) (p : Nat) (w : Nat) : Nat :=
  600 + ((List.range 4).map (fun k =>
    ((s.prt k).tasks.filter (fun t => t.accepted && tdGuar t.desc)).foldl
      (fun m t => max m (t.image.elim 0 (fun i => i.guarPower))) (if k = p then w else 0))).foldl (· + ·) 0

/-- The checks that follow the reads, in the order of R338. -/
def State.refusal (s : State) (p : Nat) (t : Task) (i : Image) (tables : List Byte) : Option Nat :=
  let d := t.desc
  let g := tdGuar d
  if !i.headerOk || 1024 < i.contexts then some 0x0202
  else if i.numerics != s.catNumerics then some 0x0203
  else if i.features &&& ~~~s.stw.agreed != 0 || (tdStep d && !(bit s.stw.agreed 64 && s.feature featStepctl)) then some 0x0204
  else if !(namedClusters d i).all (s.clusterIn p) then some 0x0205
  else if tableListBad tables (tdTableCount d) then some 0x0206
  else if s.streamsOver p (tdSlot d) i then some 0x0207
  else if s.slotBusy p d then some 0x0208
  else if !s.sliceFormed p i.job.toNat then some 0x0209
  else if g && !s.timeKept then some 0x020A
  else if !(s.prt p).table.names (tdSlot d) then some 0x020B
  else if g && !s.feasible p t.beat d i then some 0x020C
  else if g && s.power.capEff < s.reservationWith p i.guarPower then some 0x020D
  else none

/-- Read the image's first block and the table list (R277, R338); none where either cannot be read. -/
def State.readForAdmission (s : State) (p : Nat) (d : BitVec 2048) : State × Option (List Byte) :=
  if !s.rangeOk p (tdBase d) 64 || (tdStep d && !s.rangeOk p (tdTableList d) (16 * tdTableCount d)) then (s, none)
  else match s.read (tdBase d) 64 with
    | (s, none) => (s, none)
    | (s, some _) => if tdStep d then s.read (tdTableList d) (16 * tdTableCount d) else (s, some [])

/-- The decision of R338: the refusal code, or the image. -/
def State.judge (s : State) (p : Nat) (t : Task) : State × Except Nat Image :=
  if !t.readable then (s, .error 0x0201)
  else if descBroken t.desc then (s, .error 0x0200)
  else match s.readForAdmission p t.desc with
    | (s, none) => (s, .error 0x0201)
    | (s, some tables) =>
      match sget none s.images (tdBase t.desc) with
      | none => (s, .error 0x0202)
      | some i => match s.refusal p t i tables with
        | some c => (s, .error c)
        | none => (s, .ok i)

/-- The consumer index of the submission ring passes one descriptor (R216, R221). -/
def State.consume (s : State) (p : Nat) : State :=
  if !s.subqOn p then s
  else
    let base := ringBase (s.subqNow p)
    match s.ringRead p base 16 with
    | (s, none) => s.ringFault p
    | (s, some x) => match s.ringWrite p (base + 8) (leBytes ((nfld x 64 64 + 1) % 2 ^ 64) 8) with
      | (s, true) => s
      | (s, false) => s.ringFault p

/-- The resident programs of a partition declare more than 1,024 open contexts together (R384). -/
def State.sliced (s : State) (p : Nat) : Bool :=
  decide (1024 < ((List.range 8).map (fun k => ((s.prt p).prog k).image.elim 0 (fun i => i.contexts))).foldl (· + ·) 0)

/-- Context entries at a program switch (R384): while the resident programs' declarations exceed 1,024 together, those of the outgoing
program are spilled; those of the incoming one are restored. -/
def State.sliceCtxs (s : State) (p : Nat) (out inc : Option Nat) : State :=
  let spill := s.sliced p
  { s with red := { s.red with ctxs := s.red.ctxs.map (fun c =>
      if c.part != p || c.registrar then c
      else if inc = some c.prog then { c with spilled := false }
      else if out = some c.prog then { c with spilled := spill }
      else c) } }

/-- An accepted task takes its program slot (R337): a new program replaces the one that was resident. -/
def State.accept (s : State) (p : Nat) (t : Task) (i : Image) : State :=
  let t := { t with st := .accepted, image := some i }
  (s.onPart p (fun q =>
    let q := q.onProg (tdSlot t.desc) (fun g =>
      if g.base = some (tdBase t.desc) then { g with image := some i }
      else { base := some (tdBase t.desc), image := some i, active := false, spilled := [], srec := g.srec })
    { q with tasks := q.tasks.map (fun u => if u.index = t.index then t else u) })).settleCap

/-- At the acceptance of a task of a job whose members hold this package under notice, outside twin mode, MEMBER_UP names the
release beat (R477). -/
def State.rejoinAtAcceptance (s : State) (p : Nat) (t : Task) (i : Image) : State :=
  let job := i.job.toNat
  if !(s.fabric.downSent.contains job && !jTwin (s.jobEntry job) && tdStep t.desc) then s
  else
    let b := s.rejoinBeat job s.beat
    (s.onPart p (fun q => { q with tasks := q.tasks.map (fun u => if u.index = t.index then { u with rejoinAt := some b } else u) })).sendMemberUp
      job b (tdFirstStep t.desc)

/-- ADMISSION_DECISION (R216, R338 to R340): the oldest task of the partition that awaits its decision. -/
def admissionDecisionStep (q : Nat) (s : State) : State :=
  let p := s.partOf q
  if !s.regOn || s.inReset p then s
  else match (s.prt p).tasks.find? (fun t => !t.accepted) with
    | none => s
    | some t =>
      match s.judge p t with
      | (s, .ok i) =>
        let s := s.accept p t i
        let s := (s.record p { task := tdTask t.desc, kind := 0, time := s.now } (tdMsi t.desc)).consume p
        s.rejoinAtAcceptance p t i
      | (s, .error c) =>
        let s := s.onPart p (fun k => { k with tasks := k.tasks.filter (fun u => u.index != t.index) })
        (s.record p { task := tdTask t.desc, kind := 1, code := BitVec.ofNat 16 c, time := s.now, cmdAddr := t.addr }
          (tdMsi t.desc)).consume p

/-! ## DEADLINE_MISS (R223, R435) -/

/-- Accepted tasks of a partition that have no DEADLINE_MISS record. -/
def State.unmissed (s : State) (p : Nat) : List Task := (s.prt p).tasks.filter (fun t => t.accepted && !t.missed)

/-- DEADLINE_MISS (R222, R223): the earliest deadline among the partition's accepted tasks passes. -/
def deadlineMissStep (q : Nat) (s : State) : State :=
  let p := s.partOf q
  match least ((s.unmissed p).map (fun t => tdDeadline t.desc)) with
  | none => s
  | some d => match (s.unmissed p).find? (fun t => tdDeadline t.desc == d) with
    | none => s
    | some t =>
      let s := s.runToNow d
      let s := s.onPart p (fun k => { k with tasks := k.tasks.map (fun u => if u.index = t.index then { u with missed := true } else u) })
      s.record p { task := tdTask t.desc, kind := 4, time := d, step := (s.prt p).lastClosed t } (tdMsi t.desc)

/-! ## The meanings -/

def execRingConfigWrite (q : Quad) (cq : Bool) (v : W64) (s : State) : Host.Outcome State Fault Refusal :=
  .next (s.pageFrame (ringConfigStep q.val cq v s))

def execSubmissionRingRead (q : Quad) (s : State) : Host.Outcome State Fault Refusal :=
  .next (s.admitFrame (submissionRingReadStep q.val s).settle)

def execAdmissionDecision (q : Quad) (s : State) : Host.Outcome State Fault Refusal :=
  .next (s.admitFrame (admissionDecisionStep q.val s).settle)

def execDeadlineMiss (q : Quad) (s : State) : Host.Outcome State Fault Refusal :=
  .next (s.admitFrame (deadlineMissStep q.val s).settle)

end Sys2Proof.Machine
end

