-- ==== Sys2Proof/Machine/Switch.lean ====
section
/-!
DEFINITION. Program switches (R333 to R335) and the start of tasks (R219, R222, R333).
-/
namespace Sys2Proof.Machine

/-! ## A cluster's context (R333) -/

/-- A cluster's context as a partition reset leaves it (R333), for program slot `prog`: the function slots `slots` absent, the
others as they stand, counters, outstanding hub commands and the Curator's firmware untouched. -/
def Cluster.fresh (k : Cluster) (prog : Nat) (slots : List Nat) : Cluster :=
  { funcs := slots.foldl (fun f i => sset none f i none) k.funcs
    mxCycles := k.mxCycles, mxConflicts := k.mxConflicts, hubq := k.hubq, prog := prog
    mxCompFree := k.mxCompFree, mxEpiFree := k.mxEpiFree }

/-- A cluster that no program runs on after a switch: nothing queued and nothing waited for. -/
def Cluster.vacated (k : Cluster) (prog : Nat) : Cluster :=
  { k with cur := {}, mxIssued := none, mxq := [], vxq := [], cxq := [], waiters := [], granted := [], parked := false, wake := false,
           prog := prog }

/-- The context that a spilled one leaves when it comes back at tile cycle `cyc`: its declared function slots, and all but what the
cluster keeps. The completion registers are no part of what R333 spills: they stand as they are (R227, R335). An MMA that had issued
and not started starts now at the earliest. -/
def Cluster.restored (k saved : Cluster) (prog : Nat) (slots : List Nat) (cyc : Nat) : Cluster :=
  let cur : Curator :=
    { saved.cur with mode := if saved.cur.mode = .switched then saved.cur.resume else saved.cur.mode, resume := .idle }
  let back : Cluster := { saved with
    funcs := slots.foldl (fun f i => sset none f i (sget none saved.funcs i)) k.funcs
    cplMx := k.cplMx, cplVx := k.cplVx, cplCx := k.cplCx, cplHub := k.cplHub
    mxCycles := k.mxCycles, mxConflicts := k.mxConflicts, hubq := k.hubq, prog := prog
    mxCompFree := k.mxCompFree, mxEpiFree := k.mxEpiFree, cur := cur
    mxIssued := saved.mxIssued.map (fun j => { j with start := max j.start cyc }) }
  { back with parked := false, wake := false, lastEval := none }

/-- Engines have finished what they were executing (R333). -/
def Cluster.quiet (k : Cluster) : Bool :=
  k.mxComp.isNone && k.mxEpi.isEmpty && k.mxDone.isEmpty && k.vxDone.isNone && k.cxDone.isNone && k.load.isNone

/-- The Curator stops dispatch at a switch (R333). -/
def Cluster.stopped (k : Cluster) : Cluster :=
  match k.cur.mode with
  | .idle => { k with wake := k.wake || k.parked }
  | .halted => k
  | .switched => k
  | m => { k with cur := { k.cur with mode := .switched, resume := m }, wake := k.wake || k.parked }

/-! ## Footprints -/

/-- Declared ranges of a cluster's carrel, as (first block of the carrel, blocks). -/
def Image.blocksIn (i : Image) (c : Nat) : List (Nat × Nat) :=
  (i.footprint.filter (fun f => f.1 == c)).map (fun f => (f.2.1 / 64, ceilDiv (f.2.1 + f.2.2) 64 - f.2.1 / 64))

/-- Poisoned blocks of [b, b + n): their code entries. -/
def MemSt.poisonedIn (m : MemSt) (b n : Nat) : List Nat :=
  (m.codes.filter (fun e => b ≤ e.1 && e.1 < b + n && codePoisoned e.2)).map (fun e => e.1)

/-- Every block of [b, b + n) is overwritten with zeros (R273). -/
def MemSt.blank (m : MemSt) (x : MemX) (b n : Nat) : MemSt :=
  let k := (m.poisonedIn b n).length
  let m := m.wipe (64 * b) (64 * n)
  if k = 0 then m
  else m.onProt (storeOf x.lay (64 * b)) (fun p => { p with poisonedNow := BitVec.ofNat 16 (p.poisonedNow.toNat - k) })

/-- The bytes of [b, b + n) become unspecified (R333, log 31). -/
def State.vague (s : State) (b n : Nat) : State :=
  if n = 0 then s
  else
    let m := s.mem.blank s.mx b n
    ({ s with mem := { m with vague := m.vague ++ [(b, n, s.fresh)] } }).draw

/-- Non-zero bytes of [a, a + n) by offset from `org`. -/
def MemSt.cellsIn (m : MemSt) (org a n : Nat) : List Host.Cell :=
  (m.bytes.filter (fun e => a ≤ e.1 && e.1 < a + n)).map (fun e => (e.1 - org, e.2))

/-- Give the blocks [b, b + n) that are still unspecified their bytes. -/
def MemSt.revealAll (m : MemSt) (b n : Nat) : MemSt :=
  let hit := m.vague.filter (fun r => decide (r.1 < b + n ∧ b < r.1 + r.2.1))
  if hit.isEmpty then m else (span b n).foldl MemSt.reveal m

/-- Read one cluster's declared footprint for its spill image (R333): open merge entries commit first (R279). -/
def State.spillCarrel (s : State) (i : Image) (c : Nat) : State × List Host.Cell × List Nat :=
  let org := carrelAt c 0
  (i.blocksIn c).foldl (fun (x : State × List Host.Cell × List Nat) r =>
    let (s, cells, bad) := x
    let b := org / 64 + r.1
    let m := (s.mem.merge.filter (fun e => b ≤ e.block / 64 && e.block / 64 < b + r.2)).foldl (fun m e => m.commitOut s.mx e) s.mem
    let m := m.revealAll b r.2
    ({ s with mem := m }, cells ++ m.cellsIn org (64 * b) (64 * r.2),
     bad ++ (m.poisonedIn b r.2).map (fun k => 64 * k - org))) (s, [], [])

/-- Write a spill image back (R333): every block with fresh codes; a block that was poisoned when it was spilled is poisoned
again (log 31). -/
def State.fillCarrel (s : State) (i : Image) (z : Spilled) : State :=
  let org := carrelAt z.cluster 0
  let s := (i.blocksIn z.cluster).foldl (fun s r => { s with mem := s.mem.blank s.mx (org / 64 + r.1) r.2 }) s
  let m := z.carrel.foldl (fun m e => { m with bytes := sset 0 m.bytes (org + e.1) e.2 }) s.mem
  let touched := (z.carrel.map (fun e => (org + e.1) / 64)).eraseDups
  let m := touched.foldl (fun m b => { m with codes := sset 0 m.codes b (codeFor (m.blockNat b)) }) m
  let m := z.bad.foldl (fun m o =>
    let b := (org + o) / 64
    { m.onProt z.cluster (fun p => { p with poisonedNow := satAdd p.poisonedNow 1 }) with
      codes := sset 0 m.codes b (m.code b ||| BitVec.ofNat 80 (127 * 2 ^ 73)) }) m
  { s with mem := m }

/-- Carrel bytes of cluster `c` outside the ranges `keep` become unspecified (R333). -/
def State.vagueOutside (s : State) (c b : Nat) : List (Nat × Nat) → State
  | [] => s.vague (carrelAt c 0 / 64 + b) (carrelSize / 64 - b)
  | r :: t => (s.vague (carrelAt c 0 / 64 + b) (r.1 - b)).vagueOutside c (max b (r.1 + r.2)) t

/-- Ranges in rising order. -/
def insertRange (r : Nat × Nat) : List (Nat × Nat) → List (Nat × Nat)
  | [] => [r]
  | y :: t => if r.1 ≤ y.1 then r :: y :: t else y :: insertRange r t

/-! ## PROGRAM_SWITCH (R333) -/

/-- The running or ending task of a program slot. -/
def State.runningIn (s : State) (p : Nat) (k : Option Nat) : Option Task :=
  k.bind (fun k => (s.prt p).tasks.find? (fun t => tdSlot t.desc == k && (t.st == .running || t.st == .ending)))

/-- A task of a program slot that is accepted or suspended (R333): a suspended one first. -/
def State.waitingIn (s : State) (p : Nat) (k : Option Nat) : Option Task :=
  k.bind (fun k =>
    let ts := (s.prt p).tasks.filter (fun t => tdSlot t.desc == k)
    match ts.find? (fun t => t.st == .suspended) with
    | some t => some t
    | none => ts.find? (fun t => t.st == .accepted))

/-- Clusters of partition `p` that the map knows (R36). -/
def State.partClusters (s : State) (p : Nat) : List Nat :=
  (s.quads p).flatMap (fun q => (span (128 * q) 128).filter (fun c => s.slotMapped (clusterSlot c)))

/-- The beat of the next switch (R333), if the table has one: none while one is under way. -/
def State.switchBeat (s : State) (p : Nat) : Option Nat :=
  if (s.prt p).switching.isSome then none else (s.prt p).table.change (s.prt p).active s.beat

/-- PROGRAM_SWITCH (R333 step 1, R334): at the boundary, the Curators of the outgoing program stop dispatch. -/
def programSwitchStep (q : Nat) (s : State) : State :=
  let p := s.partOf q
  if !s.regOn || s.inReset p then s
  else match s.switchBeat p with
    | none => s
    | some b =>
      let s := s.runToNow (1024 * b)
      let part := s.prt p
      let inc := part.table.prog s.beat
      let out := part.active
      let tsw := switchNs (out.bind (fun k => (part.prog k).image)) (inc.bind (fun k => (part.prog k).image))
        (s.runningIn p out).isSome (s.waitingIn p inc).isSome
      let s := ((s.runningIn p out).elim [] Task.clusters).foldl (fun s c => s.onCl c Cluster.stopped) s
      s.onPart p (fun t => { t with switching := some (s.time.ticks + tsw * nsT, inc) })

/-! ## SWITCH_COMPLETE (R333 steps 2 and 3, R384) -/

/-- Write the outgoing program's state to its spill area, with 256 bytes for each context entry that is spilled (R384); its task becomes
SUSPENDED (R333). What the area's bytes are is not given (log 31). -/
def State.spillProgram (s : State) (p k : Nat) (t : Task) (i : Image) : State :=
  let (s, zs) := t.clusters.foldl (fun (x : State × List Spilled) c =>
    let (s, cells, bad) := x.1.spillCarrel i c
    (s, x.2 ++ [{ cluster := c, ctx := { s.cl c with hubq := [] }, carrel := cells, bad := bad }])) (s, [])
  let bytes := t.clusters.foldl (fun n c => n + 73728 + 12352 * i.slots.length +
    ((i.footprint.filter (fun f => f.1 == c)).map (fun f => f.2.2)).foldl (· + ·) 0)
    (if s.sliced p then 256 * i.contexts else 0)
  let s := s.vague (i.spill / 64) (ceilDiv bytes 64)
  s.onPart p (fun q => { (q.onProg k (fun g => { g with spilled := zs })) with
    tasks := q.tasks.map (fun u => if u.index = t.index then { u with st := .suspended } else u) })

/-- First activation of a program (R333): zeros in the footprint, and a fresh context in every cluster. -/
def State.firstActivation (s : State) (p k : Nat) (i : Image) : State :=
  let s := i.entries.foldl (fun s e =>
    let s := (i.blocksIn e.1).foldl (fun s r => { s with mem := s.mem.blank s.mx (carrelAt e.1 0 / 64 + r.1) r.2 }) s
    s.onCl e.1 (fun c => c.fresh k i.slots)) s
  s.onPart p (fun q => q.onProg k (fun g => { g with active := true, spilled := [] }))

/-- Restore a program's state; its task runs again (R333, R256): a TIMEAT compares again. -/
def State.restoreProgram (s : State) (p k : Nat) (t : Task) (i : Image) : State :=
  let zs := ((s.prt p).prog k).spilled
  let cyc := s.cycle
  let s := zs.foldl (fun s z => (s.fillCarrel i z).onCl z.cluster (fun c =>
    ((List.range 48).foldl (fun c j => c.evaluate cyc j) (c.restored z.ctx k i.slots cyc)).startIssued cyc)) s
  s.onPart p (fun q => { (q.onProg k (fun g => { g with spilled := [] })) with
    tasks := q.tasks.map (fun u => if u.index = t.index then { u with st := .running } else u) })

/-- The part of a switch that moves programs (R333). -/
def State.swap (s : State) (p : Nat) (out inc : Option Nat) : State :=
  let s := match out, s.runningIn p out with
    | some k, some t => match t.image with
      | some i => s.spillProgram p k t i
      | none => s
    | some k, none => s.onPart p (fun q => q.onProg k (fun g => { g with active := false }))
    | none, _ => s
  let i := inc.bind (fun k => ((s.prt p).prog k).image)
  let wait := s.waitingIn p inc
  let keep (c : Nat) : List (Nat × Nat) := if wait.isSome then (i.elim [] (fun i => i.blocksIn c)).foldr insertRange [] else []
  let s := (s.partClusters p).foldl (fun s c => (s.onCl c (fun k => k.vacated (inc.getD k.prog))).vagueOutside c 0 (keep c)) s
  match inc, i, wait with
  | some k, some i, some t =>
    if t.st = .suspended ∧ ((s.prt p).prog k).spilled ≠ [] then s.restoreProgram p k t i else s.firstActivation p k i
  | _, _, _ => s

/-- SWITCH_COMPLETE (R333, R334): once every engine of the outgoing program has finished its command, and no later than t_sw after
the boundary. -/
def switchCompleteStep (q : Nat) (s : State) : State :=
  let p := s.partOf q
  match (s.prt p).switching with
  | none => s
  | some (due, inc) =>
    let out := (s.prt p).active
    let cs := (s.runningIn p out).elim [] Task.clusters
    if !s.regOn || s.inReset p || !cs.all (fun c => (s.cl c).quiet && (s.cl c).halt.isNone) then s
    else
      let s := (s.runTo due).swap p out inc
      (s.onPart p (fun t => { t with active := inc, switching := none })).sliceCtxs p out inc

/-! ## TASK_START (R219, R222) -/

/-- The task of the active program slot that starts next: none while one of the slot runs (R337). -/
def State.nextStart (s : State) (p : Nat) : Option (Nat × Task) :=
  match (s.prt p).active with
  | none => none
  | some k =>
    let ts := s.slotTasks p k
    if ts.any (fun t => t.st != .accepted) then none else ts.head?.map (fun t => (k, t))

/-- The beat boundary at which a task of the active slot starts: the first at or after now and its release (R222). -/
def State.startBeat (s : State) (t : Task) : Nat := ceilDiv (max s.now (tdRelease t.desc)) 1024

/-- L at the start of a task under step control, and the rest of its step record (R171 to R174, R477): floor_hit is cleared by a
written 1 alone, and of the counts only skipped_total begins with the task (R174). -/
def Task.firstRec (t : Task) (old : StepRec) (pol : W64) : StepRec :=
  { step := tdFirstStep t.desc, lexp := BitVec.ofNat 8 (polInit pol), verdicts := old.verdicts, releaseAt := t.rejoinAt,
    rejoin := t.rejoinAt.isSome, lastSkipped := old.lastSkipped, floorHit := old.floorHit, tablesClamped := old.tablesClamped }

/-- A program whose resync was DONE before its task started takes the partner's L (R478 step 6). -/
def State.resynced (s : State) (p k : Nat) : State :=
  match s.reset_.rsReady with
  | some (_, l) =>
    if s.reset_.rsState = 3 ∧ s.partOf (rsQuad s.reset_.rsCtl) = p ∧ rsSlot s.reset_.rsCtl = k then
      let s := s.onSrec p k (fun r => { r with lexp := l })
      { s with reset_ := { s.reset_ with rsReady := none } }
    else s
  | none => s

/-- Every cluster of the program starts at its entry folio (R222). -/
def State.launch (s : State) (i : Image) : State :=
  i.entries.foldl (fun s e => s.onCl e.1 (fun k =>
    { k with cur := { mode := .running, fetch := e.2 }, halt := none, movedAt := s.time.ticks, wake := k.wake || k.parked })) s

/-- The engines of a cluster have finished what they were executing (R196). -/
def Cluster.rested (k : Cluster) : Bool :=
  k.mxComp.isNone && k.mxEpi.isEmpty && k.mxDone.isEmpty && k.vxDone.isNone && k.cxDone.isNone && k.load.isNone

/-- TASK_START (R219, R222, R333, R337). A cluster whose engines still finish a command of an ended task starts no other
first (R196; DESIGN CHOICE, log 38). -/
def taskStartStep (q : Nat) (s : State) : State :=
  let p := s.partOf q
  if !s.regOn || s.inReset p || (s.prt p).switching.isSome then s
  else match s.nextStart p with
    | none => s
    | some (k, t) =>
      let b := s.startBeat t
      match t.image with
      | none => s
      | some i =>
        if (s.switchBeat p).any (fun c => decide (c ≤ b)) || !(i.entries.all (fun e => (s.cl e.1).rested)) then s
        else
          let s := s.runToNow (1024 * b)
          let s := if ((s.prt p).prog k).active then s else s.firstActivation p k i
          let s := (s.onPart p (fun q => { q with
            tasks := q.tasks.map (fun u => if u.index = t.index then { u with st := .running } else u) })).launch i
          if tdStep t.desc then
            (((s.onPart p (fun q => q.onProg k (fun g => { g with srec := t.firstRec g.srec (q.pol k) }))).resynced p k).releaseStep p k).answerResync
          else s

/-! ## The meanings -/

def execProgramSwitch (q : Quad) (s : State) : Host.Outcome State Fault Refusal :=
  .next (s.admitFrame (programSwitchStep q.val s).settle)

def execSwitchComplete (q : Quad) (s : State) : Host.Outcome State Fault Refusal :=
  .next (s.admitFrame (switchCompleteStep q.val s).settle)

def execTaskStart (q : Quad) (s : State) : Host.Outcome State Fault Refusal :=
  .next (s.admitFrame (taskStartStep q.val s).settle)

end Sys2Proof.Machine
end

