-- ==== Sys2Proof/Machine/Stage.lean ====
section
/-!
DEFINITION. Staged check and commit (R346 to R351), with the checks that each staged item's chapter gives (R173, R297,
R298, R307, R331, R350, R402, R403, R478), the formation of slices (R308, R309), and the grace of an old epoch (R316).
-/
namespace Sys2Proof.Machine

/-! ## Registers and sets (R347, R348) -/

def State.stageOf (s : State) : StageSet → StageRegs
  | .pkg => s.stage
  | .part q => (s.prt q.val).stage

def State.setStage (s : State) (r : StageSet) (f : StageRegs → StageRegs) : State :=
  match r with
  | .pkg => { s with stage := f s.stage }
  | .part q => s.onPart q.val (fun p => { p with stage := f p.stage })

def stageSets : List StageSet := [.pkg, .part 0, .part 1, .part 2, .part 3]

/-- STATUS shows a state and a reason for a set (R347). -/
def StageRegs.show (g : StageRegs) (state reason : Nat) (id : W32) : StageRegs :=
  { g with state := BitVec.ofNat 3 state, reason := BitVec.ofNat 8 reason, lastId := id }

def sgId (v : W64) : W32 := BitVec.ofNat 32 (fld v 0 32)
def sgJob (v : W64) : Nat := fld v 32 10
def sgScope (v : W64) : Nat := fld v 42 2

/-- The time root (R325): this package in role ROOT, else root_id. -/
def State.timeRoot (s : State) : Nat := if fld s.time.cfgOn 0 2 = 1 then s.ownId else fld s.time.cfgOn 16 13

/-- Stage root and members of a set (R348), by the plan in force. -/
def State.stageWho (s : State) (scope job : Nat) : Nat × List Nat :=
  match scope with
  | 1 =>
    let e := s.jobEntry job
    (s.plan.idAt (jOrg e 0) (jOrg e 1) (jOrg e 2), s.plan.members job)
  | 2 => (s.timeRoot, List.range s.plan.total)
  | _ => (s.ownId, [s.ownId])

/-- Dg of a set (R348). -/
def State.stageDg (s : State) (scope job : Nat) : Nat :=
  let (root, ms) := s.stageWho scope job
  if scope = 1 then s.dg job root ms else if scope = 2 then s.dg 0 root ms else 0

/-! ## Slices (R307 to R309) -/

/-- The plan that a staged set would bring: the staged image for the package set, else the one in force. -/
def planImageBytes : Nat := 64 + 20 * 16 + 1024 * 32

/-- A plan image from its bytes (R297). -/
def planOf (bs : List Byte) : Plan :=
  let w (o n : Nat) : Nat := leNat ((bs.drop o).take n)
  { header := BitVec.ofNat 512 (w 0 64)
    links := (List.range 20).foldl (fun t l => sset 0 t l (BitVec.ofNat 128 (w (64 + 16 * l) 16))) []
    jobs := (List.range 1024).foldl (fun t j => sset 0 t j (BitVec.ofNat 256 (w (384 + 32 * j) 32))) [] }

/-- Read the staged plan image (R296): an empty plan at base 0; none when it lies outside the carve-out or cannot be read. -/
def State.readPlan (s : State) : State × Option Plan :=
  let base := fld s.fabric.planStg 6 42 * 64
  if base = 0 then (s, some {})
  else if !inside base planImageBytes s.carve.1 s.carveBytes then (s, none)
  else match s.read base planImageBytes with
    | (s, some bs) => (s, some (planOf bs))
    | (s, none) => (s, none)

/-- R297 on a header. -/
def Plan.headerGood (p : Plan) : Bool :=
  p.loaded && p.total ≤ 8192 && p.ownId < p.total && fld p.header 60 4 == 0 && fld p.header 78 434 == 0 &&
  p.twin.all (fun t => t != p.ownId && t < p.total)

/-- R298 on a link entry, with the ports that an axis of size 1 does not have (R294). -/
def Plan.linkGood (p : Plan) (l : Nat) : Bool :=
  let e := p.link l
  if !lUsed e then e == 0
  else
    let o := lPort e
    o ≤ 6 && (o == 6 || 2 ≤ p.size (o / 2)) && p.neighbour o == some (lNbr e) && fld e 20 44 == 0 &&
    lNbrPort e == (if o = 6 then 6 else if o % 2 = 0 then o + 1 else o - 1)

/-- R306 and R307 on a job entry. -/
def Plan.jobGood (p : Plan) (lay j : Nat) : Bool :=
  let e := p.job j
  if j = 0 then e == 0
  else
    jValid e == (p.inBlock e p.ownId && [0, 1, 2].all (fun a => 1 ≤ jExt e a)) &&
    (!jValid e ||
      ([0, 1, 2].all (fun a => 1 ≤ jExt e a && jExt e a ≤ p.size a) &&
       (List.range 4).any (fun q => !(layoutQuads lay q).isEmpty &&
         (layoutQuads lay q).foldl (fun m k => m + 2 ^ k) 0 == jQmask e) &&
       (!jTwin e || (p.twin.any (p.inBlock e) && jExt e 0 * jExt e 1 * jExt e 2 ≤ 1024))))

/-- A plan keeps R297, R298 and R307. -/
def Plan.good (p : Plan) (lay : Nat) : Bool :=
  p == {} || (p.headerGood && (List.range 20).all p.linkGood && (List.range 1024).all (p.jobGood lay))

/-- Feature set of a port (R302). -/
def State.portFeatures (s : State) (pl : Plan) (port : Nat) : W64 :=
  ((pl.portLinks port).filter (fun l => (s.link l).up)).foldl (fun a l => a &&& (s.link l).cap) (BitVec.allOnes 64)

/-- A member is ready for slice `j` (R308, R309): with degraded_ok, at most one of its two hops along an axis is down. -/
def State.sliceReady (s : State) (pl : Plan) (j : Nat) : Bool :=
  let e := pl.job j
  let req : W64 := BitVec.ofNat 64 (jReq e)
  let up (port : Nat) : Bool := !((pl.portLinks port).filter (fun l => (s.link l).up)).isEmpty
  let carries (port : Nat) : Bool := req &&& ~~~(s.portFeatures pl port) == 0
  let ports := (List.range 6).filter (pl.usedPort j)
  jValid e &&
  (!jDegraded e || (List.range 3).all (fun a =>
    ((ports.filter (fun port => port / 2 == a && !up port)).length ≤ 1))) && ((List.range 7).filter (pl.usedPort j)).all (fun port =>
    if jDegraded e then
      (if up port then carries port else port < 6 && jExt e (port / 2) == pl.size (port / 2))
    else up port && (pl.portLinks port).all (fun l => (s.link l).up && (s.link l).cls == 1) && carries port)

/-- Slices whose formation a set of a scope decides (R308, R349): the job's; every slice of the plan for the whole system; those
of this package alone. -/
def Plan.concerned (p : Plan) (scope job : Nat) : List Nat :=
  if scope = 1 then (if jValid (p.job job) then [job] else [])
  else ((p.jobs.map (fun e => e.1)).filter (fun j => jValid (p.job j))).filter (fun j =>
    scope == 2 || [0, 1, 2].all (fun a => jExt (p.job j) a == 1))

/-- Ready bit of a set (R308, R309, R330). -/
def State.stageReady (s : State) (pl : Plan) (scope job : Nat) : Bool :=
  s.timeKept && (pl.concerned scope job).all (s.sliceReady pl)

/-- Formation of a slice that a set concerns is required (R349). -/
def State.forming (s : State) (pl : Plan) (scope job : Nat) : Bool :=
  (pl.concerned scope job).any (fun j => !s.fabric.formed.contains j)

/-- A slice that a set concerns is one with degraded_ok (R309). -/
def Plan.degraded (pl : Plan) (scope job : Nat) : Bool := (pl.concerned scope job).any (fun j => jDegraded (pl.job j))

/-! ## Checks (R349 step 1) -/

/-- A slot table keeps R331. -/
def SlotTable.good (t : SlotTable) (anchor : W64) : Bool :=
  t.entries.all (fun e => 128 ≤ e.1) && period t.entries ≤ 2 ^ 20 && fld anchor 54 10 == 0 &&
  (List.range 16).all (fun i => fld (sget 0 t.raw i) 24 8 == 0)

/-- R350: the new table, in force from instant `C`, leaves every accepted guaranteed task its need, or lowers nothing. -/
def State.tableKeeps (s : State) (p : Nat) (t : SlotTable) (C : Nat) : Bool :=
  let old := (s.prt p).table
  (s.prt p).tasks.all (fun k =>
    if !(k.accepted && tdGuar k.desc) then true
    else
      let slot := tdSlot k.desc
      let before := (s.slotTasks p slot).filter (fun u => u.index ≤ k.index)
      let need := (before.map Task.need).foldl (· + ·) 0
      let S := max (tdRelease k.desc) s.now
      let loss := s.lossInto p k.image
      let u := usableAcross old t C slot loss S (tdDeadline k.desc)
      decide (need ≤ u ∨ old.usable slot loss S (tdDeadline k.desc) ≤ u))

/-- A loss policy keeps R173. -/
def polGood (v : W64) : Bool :=
  polMin v ≤ polInit v && polInit v ≤ polMax v && 1 ≤ polMin v && polMax v ≤ 254 && polInterval v != 0

/-- Addresses of a descriptor list (R403); none when the list cannot be read. -/
def State.readUpdList (s : State) (p : Nat) (v : W64) : State × Option (List Addr) :=
  let base := fld v 6 42 * 64
  let n := fld v 48 16
  if n = 0 then (s, some [])
  else if !(s.inHbm p base (8 * n) && s.offCarve base (8 * n)) then (s, none)
  else match s.read base (8 * n) with
    | (s, none) => (s, none)
    | (s, some bs) => (s, some ((List.range n).map (fun i => leNat ((bs.drop (8 * i)).take 8))))

/-- A listed descriptor: active and staged configurations and state. -/
def descParts (bs : List Byte) : UCfg × UCfg × UState :=
  (BitVec.ofNat 1024 (leNat (bs.take 128)), BitVec.ofNat 1024 (leNat ((bs.drop 128).take 128)),
   BitVec.ofNat 512 (leNat (bs.drop 256)))

/-- Read a listed descriptor (R403); none where it falls under R58, is misaligned or cannot be read. -/
def State.readDescr (s : State) (p a : Nat) : State × Option (UCfg × UCfg × UState) :=
  if a % 64 != 0 || !s.rangeOk p a 320 then (s, none)
  else match s.read a 320 with
    | (s, none) => (s, none)
    | (s, some bs) => (s, some (descParts bs))

/-- A listed descriptor keeps R402 and R403: with the arrays inside the partition (R393). -/
def State.descrGood (s : State) (p : Nat) (d : UCfg × UCfg × UState) : Bool :=
  let (a, st, u) := d
  (!ustPending u || (cfgGood st && (uSpans st).all (fun x => s.rangeOk p x.1 x.2))) &&
  (uRule a != ruBlockpre || ustInstalled u == uCount a / 8)

/-- Check the listed descriptors in order: whether all are good, and their digest fields (R403). -/
def State.checkDescrs (s : State) (p : Nat) : List Addr → State × Bool × List Byte
  | [] => (s, true, [])
  | a :: t =>
    match s.readDescr p a with
    | (s, none) => (s, false, [])
    | (s, some d) =>
      let mine := if ustPending d.2.2 then leBytes (fld d.2.1 0 32) 4 ++ leBytes (fld d.2.1 384 224) 28 else []
      let ok := s.descrGood p d
      let (s, ok', rest) := s.checkDescrs p t
      (s, ok && ok', mine ++ rest)

/-- R478: a staged hold is inconsistent where the job's step is not below s. -/
def State.holdGood (s : State) : Bool :=
  !rhOn s.reset_.rsHoldStg ||
  (s.stepOfJob (rhJob s.reset_.rsHoldStg)).all (fun x => x.2.2.step.toNat < s.reset_.rsStepStg.toNat)

/-- Slice-common fields of a job entry (R306). -/
def entryCommon (e : BitVec 256) : List Byte :=
  leBytes (b2n (jTwin e) + b2n (jDegraded e) * 2 + fld e 16 15 * 4 + fld e 32 18 * 2 ^ 17) 8 ++ leBytes (jReq e) 8 ++
    leBytes (jEpoch e).toNat 2

/-- What a check finds (R349): the result, the ready bit, whether formation was required, and the digest of the set's slice-common fields
(log 34). -/
structure Checked where
  result  : BitVec 8
  ready   : Bool
  forming : Bool
  degraded : Bool
  digest  : W64

/-- Slice-common fields of a plan for a set of a scope (R306): the job's entry, else the system's fields of the header and the entry of
every job that has one. -/
def Plan.common (pl : Plan) (scope job : Nat) : List Byte :=
  if scope = 1 then entryCommon (pl.job job)
  else leBytes (fld pl.header 45 15) 2 ++ pl.jobs.flatMap (fun e => leBytes e.1 2 ++ entryCommon e.2)

/-- Check a set that would commit at beat `C` (R349). -/
def State.checkSet (s : State) (r : StageSet) (scope job C : Nat) : State × Checked :=
  let digest (bs : List Byte) : W64 := BitVec.ofNat 64 (fld (Config.sha384 bs) 0 64)
  let base : Bool := scope != 3 && (scope != 1 || s.plan.member job s.ownId)
  match r with
  | .pkg => match s.readPlan with
    | (s, none) => (s, ⟨1, false, false, false, 0⟩)
    | (s, some pl) =>
      let ok := base && pl.good s.layout && s.holdGood
      (s, ⟨if ok then 0 else 1, s.stageReady pl scope job, s.forming pl scope job, pl.degraded scope job,
       digest (pl.common scope job ++ leBytes s.reset_.rsHoldStg.toNat 8 ++ leBytes s.reset_.rsStepStg.toNat 8)⟩)
  | .part q =>
    let p := s.prt q.val
    let own := base && p.tableStg.good p.anchorStg && s.tableKeeps q.val p.tableStg (1024 * C) &&
      (List.range 8).all (fun k => polGood (sget polReset p.policyStg k))
    let regs := (List.range 16).flatMap (fun i => leBytes (sget 0 p.slotsStg i).toNat 4) ++ leBytes p.anchorStg.toNat 8 ++
      (List.range 8).flatMap (fun k => leBytes (sget polReset p.policyStg k).toNat 8)
    let ready := s.stageReady s.plan scope job
    let forming := s.forming s.plan scope job
    let thin := s.plan.degraded scope job
    match s.readUpdList q.val p.updListStg with
    | (s, none) => (s, ⟨1, ready, forming, thin, digest regs⟩)
    | (s, some as) =>
      let (s, ok, fields) := s.checkDescrs q.val as
      (s, ⟨if own && ok then 0 else 1, ready, forming, thin, digest (regs ++ fields)⟩)

/-! ## Messages (R351) -/

/-- Payload of a STAGE message. -/
def stageBytes (sub : Nat) (k : StageRun) (digest : W64) (bitv : Bool) : List Byte :=
  leBytes (sub + k.id.toNat * 2 ^ 100 + k.job.toNat * 2 ^ 132 + k.scope.toNat * 2 ^ 142 + k.commit % 2 ^ 54 * 2 ^ 144 +
    digest.toNat * 2 ^ 198 + (if sub = 2 then k.result.toNat else 0) * 2 ^ 262 + b2n bitv * 2 ^ 270) 64

/-- Two records of one set. -/
def RootRec.is (a : RootRec) (id : W32) (scope job commit : Nat) (set : Option StageSet) : Bool :=
  a.id == id && a.scope.toNat == scope && a.job.toNat == job && a.commit == commit && a.set == set

/-- The root's record of a set, made when it first hears of it, changed by `f`. -/
def State.onRoot (s : State) (id : W32) (scope job commit : Nat) (set : Option StageSet) (f : RootRec → RootRec) : State :=
  if s.roots.any (fun a => a.is id scope job commit set) then
    { s with roots := s.roots.map (fun a => if a.is id scope job commit set then f a else a) }
  else { s with roots := s.roots ++ [f { id := id, scope := BitVec.ofNat 2 scope, job := BitVec.ofNat 10 job, commit := commit,
                                         set := set, reports := [], members := (s.stageWho scope job).2,
                                         dg := s.stageDg scope job, failed := false }] }

/-- A report of package `src` (R349): a second set of one package under the same id counts with the first. -/
def RootRec.report (a : RootRec) (src : Nat) (digest : W64) (result : BitVec 8) (ready : Bool) : RootRec :=
  match a.reports.find? (fun x => x.1 == src) with
  | none => { a with reports := a.reports ++ [(src, digest, result, ready)] }
  | some x => { a with reports := a.reports.map (fun y => if y.1 = src then
      (src, digest, if x.2.2.1 = 0 then result else x.2.2.1, x.2.2.2 && ready) else y) }

/-- Only a set of scope 0 is known by its registers. -/
def setKey (r : StageSet) (scope : Nat) : Option StageSet := if scope = 0 ∨ scope = 3 then some r else none

/-- A set ends as ABANDONED (R347). -/
def State.abandonSet (s : State) (r : StageSet) (reason : Nat) : State :=
  match (s.stageOf r).run with
  | none => s
  | some k => s.setStage r (fun g => { (g.show 5 reason k.id) with run := none })

/-! ## STAGE_CHECK (R349 step 1) -/

/-- A write of CTL (R347, R349): without check, it is kept; with check, the set is checked and reported. -/
def State.stageCtl (s : State) (r : StageSet) (v : W64) : State :=
  let s := s.setStage r (fun g => { g with ctl := BitVec.ofNat 64 (fld v 0 44) })
  if !bit v 44 then s
  else
    let C := fld (s.stageOf r).at_ 0 54
    let id := sgId v
    let job := sgJob v
    let scope := sgScope v
    let (root, who) := s.stageWho scope job
    let dg := s.stageDg scope job
    let key := setKey r scope
    let mine := root == s.ownId
    let fail (s : State) (reason : Nat) : State :=
      let s := s.setStage r (fun g => g.show 5 reason id)
      let same := match (s.stageOf r).run with
        | some k => k.id == id && k.commit == C
        | none => false
      if mine && !same then s.onRoot id scope job C key (fun a => { a with failed := true, members := who, dg := dg }) else s
    if C < s.beat + 6 + 2 * dg then fail s 2
    else if (s.stageOf r).run.isSome then fail s 3
    else
      let (s, x) := s.checkSet r scope job C
      let k : StageRun := { id := id, job := BitVec.ofNat 10 job, scope := BitVec.ofNat 2 scope, commit := C, result := x.result,
                            ready := x.ready, forming := x.forming }
      let s := s.setStage r (fun g => { (g.show 2 0 id) with run := some k })
      if mine then s.onRoot id scope job C key (fun a =>
        { a.report s.ownId x.digest x.result x.ready with members := who, dg := dg, degraded := x.degraded })
      else if s.feature featStage then s.inject (s.sysPacket root (stageBytes 2 k x.digest x.ready)) else s

/-- Address of a CTL register (R347). -/
def stageCtlReg : StageSet → Addr
  | .pkg => pkgPage + 0x380
  | .part q => partPage q.val + 0x280

def stageCheckStep (r : StageSet) (v : W64) (s : State) : State :=
  s.writeRow (some .registrar) (stageCtlReg r) 8 v (fun s => s.stageCtl r v)

/-! ## Decision (R349 step 2) -/

/-- GO reaches this package for a set (R349): it counts before beat C − 2 begins. -/
def State.takeGo (s : State) (id : W32) (scope job commit : Nat) (set : Option StageSet) (formed : Bool) : State :=
  stageSets.foldl (fun s r => match (s.stageOf r).run with
    | none => s
    | some k =>
      if k.id = id ∧ k.scope.toNat = scope ∧ k.job.toNat = job ∧ k.commit = commit ∧ setKey r scope = set ∧
          s.now < (commit - 2) * 1024 then
        s.setStage r (fun g => { (g.show 3 0 id) with run := some { k with go := true, formed := formed } })
      else s) s

/-- ABANDON reaches this package for a set (R349). -/
def State.takeAbandon (s : State) (id : W32) (scope job commit : Nat) (set : Option StageSet) : State :=
  stageSets.foldl (fun s r => match (s.stageOf r).run with
    | none => s
    | some k =>
      if k.id = id ∧ k.scope.toNat = scope ∧ k.job.toNat = job ∧ k.commit = commit ∧ setKey r scope = set then
        s.abandonSet r (if k.result ≠ 0 then 1 else if !k.ready && k.forming then 7 else 5)
      else s) s

/-- R309's condition on the lines of the slices that a set concerns: with more than one member it rests on hops that the root does not see
(log 66). -/
def State.linesOk (s : State) (a : RootRec) : Bool := a.scope == 0 || !a.degraded || Config.linesWhole s.fresh

/-- STAGE_DECISION (R349 step 2): at the start of beat D, GO on consistent reports of every member with one digest, else
ABANDON. -/
def stageDecisionStep (id : W32) (s : State) : State :=
  match s.roots.find? (fun a => a.id == id) with
  | none => s
  | some a =>
    if !s.regOn then s
    else
      let scope := a.scope.toNat
      let job := a.job.toNat
      let s := s.runToNow (1024 * (a.commit - 4 - a.dg))
      let ms := a.members
      let got := ms.map (fun m => a.reports.find? (fun x => x.1 == m))
      let ok := !a.failed && !ms.isEmpty && got.all (fun x => x.any (fun y => y.2.2.1 == 0)) &&
        (got.filterMap (fun x => x.map (fun y => y.2.1))).eraseDups.length == 1
      let formed := got.all (fun x => x.any (fun y => y.2.2.2)) && s.linesOk a
      let k : StageRun := { id := id, job := a.job, scope := a.scope, commit := a.commit, result := 0, ready := formed }
      let s := { s.draw with roots := s.roots.filter (fun b => !b.is id scope job a.commit a.set) }
      let s := (ms.filter (fun m => m != s.ownId && s.feature featStage)).foldl (fun s m =>
        s.inject (s.sysPacket m (stageBytes (if ok then 3 else 4) k 0 (ok && formed)))) s
      if ok then s.takeGo id scope job a.commit a.set formed else s.takeAbandon id scope job a.commit a.set

/-! ## STAGE_APPLY (R346, R349 step 3) -/

/-- Slices form, or stay as they were (R308, R349). -/
def State.formSlices (s : State) (k : StageRun) : State :=
  let pl := s.plan
  let keep := s.fabric.formed.filter (fun j => jValid (pl.job j))
  let new := if k.formed then (pl.concerned k.scope.toNat k.job.toNat).filter (fun j => !keep.contains j) else []
  { s with fabric := { s.fabric with formed := keep ++ new } }

/-- Epochs that the new plan changes: the old one is accepted for 64 beats more (R316). -/
def State.gracePlan (s : State) (new : Plan) (beat : Nat) : State :=
  let old := s.plan
  let prev := new.jobs.foldl (fun t e =>
    if jValid (old.job e.1) && jEpoch (old.job e.1) != jEpoch e.2 then
      sset none t e.1 (some (jEpoch (old.job e.1), beat + 64))
    else t) s.fabric.prevEpoch
  { s with fabric := { s.fabric with prevEpoch := prev } }

/-- Steps of a job whose release nothing holds any more are released (R475, R478). -/
def State.releaseJob (s : State) (job : Nat) : State :=
  programs.foldl (fun s x => if (s.taskInSlot x.1 x.2).any (fun t => t.job == job) then s.releaseStep x.1 x.2 else s) s

/-- The package set takes effect: plan (R296), resync hold and step (R478). -/
def State.applyPkg (s : State) (k : StageRun) : State :=
  let s := match s.readPlan with
    | (s, none) => s
    | (s, some pl) =>
      let s := s.gracePlan pl k.commit
      ({ s with fabric := { s.fabric with planReg := s.fabric.planStg } }).loadPlan pl
  let was := s.reset_.rsHold
  let s := { s with reset_ := { s.reset_ with
    rsHold := s.reset_.rsHoldStg, rsStep := s.reset_.rsStepStg, rsHolding := rhOn s.reset_.rsHoldStg } }
  ((s.formSlices k).releaseJob (rhJob was)).answerResync

/-- One listed descriptor at the commit (R402, R404). -/
def State.commitDescr (s : State) (p a : Nat) : State :=
  match s.readDescr p a with
  | (s, none) => s
  | (s, some (act, st, u)) =>
    let pend := ustPending u
    let cfg := if pend then st else act
    let u := if pend then ustSet u 161 1 0 else u
    let flip := uRule cfg == ruBlockpre && ustInstalled u != 0
    let u := if flip then ustSet (ustSet u 160 1 (1 - ustSel u)) 192 32 0 else u
    if !pend && !flip then s
    else
      let s := if pend then (s.setBindings (s.bindings.map (fun b =>
        if b.desc == a && b.st == .waiting && b.kept.isNone then { b with kept := some act } else b))).writeAck (ownerHub p) a
          (leBytes cfg.toNat 128) |>.1 else s
      (s.writeAck (ownerHub p) (a + 256) (leBytes u.toNat 64)).1

/-- A partition's set takes effect: slot table, loss policies (R173), update list and the listed descriptors (R403, R404). -/
def State.applyPart (s : State) (p : Nat) (k : StageRun) : State :=
  let s := s.onPart p (fun t =>
    let progs := (List.range 8).foldl (fun t i =>
      if polInit (t.pol i) != polInit (sget polReset t.policyStg i) then
        t.onProg i (fun g => { g with srec := { g.srec with
          lexp := BitVec.ofNat 8 (polInit (sget polReset t.policyStg i)), clean := 0 } })
      else t) t
    { progs with slots := t.slotsStg, anchor := t.anchorStg, updList := t.updListStg, policy := t.policyStg })
  let s := match s.readUpdList p (s.prt p).updList with
    | (s, none) => s
    | (s, some as) => as.foldl (fun s a => s.commitDescr p a) s
  s.formSlices k

/-- What a set needs of memory at its commit can be read (R346): otherwise no part of it applies. -/
def State.setReadable (s : State) (r : StageSet) : State × Bool :=
  match r with
  | .pkg => let x := s.readPlan; (x.1, x.2.isSome)
  | .part q => match s.readUpdList q.val (s.prt q.val).updListStg with
    | (s, none) => (s, false)
    | (s, some as) => as.foldl (fun (x : State × Bool) a => let y := x.1.readDescr q.val a; (y.1, x.2 && y.2.isSome)) (s, true)

/-- A set that applies at an earlier beat, or at this one before this set: the package's first, then the partitions' by lowest quadrant
(R350). -/
def State.applyBehind (s : State) (r : StageSet) (k : StageRun) : Bool :=
  let order : StageSet → Nat := fun x => match x with
    | .pkg => 0
    | .part q => q.val + 1
  stageSets.any (fun x => (s.stageOf x).run.any (fun y => y.go &&
    (decide (y.commit < k.commit) || (y.commit == k.commit && decide (order x < order r)))))

/-- STAGE_APPLY (R346, R349): at the instant 1,024·C the set applies whole, or is abandoned; sets of one beat apply in their order. One
whose memory cannot be read by then is abandoned as inconsistent (log 102). -/
def stageApplyStep (r : StageSet) (s : State) : State :=
  match (s.stageOf r).run with
  | none => s
  | some k =>
    if k.go && s.applyBehind r k then s
    else
    let s := s.runToNow (1024 * k.commit)
    let (s, whole) := if k.go then s.setReadable r else (s, true)
    if !k.go then s.abandonSet r (if k.result ≠ 0 then 1 else 4)
    else if !whole then s.abandonSet r 1
    else
      let s := s.setStage r (fun g => { (g.show 4 0 k.id) with run := none })
      match r with
      | .pkg => s.applyPkg k
      | .part q => s.applyPart q.val k

/-! ## EPOCH_GRACE_END (R316) -/

/-- EPOCH_GRACE_END (R316): 64 beats after the commit, only the current epoch is accepted. -/
def epochGraceEndStep (j : Nat) (s : State) : State :=
  match sget none s.fabric.prevEpoch j with
  | none => s
  | some (_, b) =>
    let s := s.runToNow (1024 * b)
    { s with fabric := { s.fabric with prevEpoch := sset none s.fabric.prevEpoch j none } }

/-! ## The meanings -/

/-- What staged check and commit changes. -/
def State.stageFrame (s t : State) : State :=
  { s.taskFrame t with stage := t.stage, roots := t.roots, stw := { s.stw with events := t.stw.events, errlog := t.stw.errlog }
                       reset_ := t.reset_ }

def execStageCheck (r : StageSet) (v : W64) (s : State) : Host.Outcome State Fault Refusal :=
  .next (s.stageFrame (stageCheckStep r v s).settle)

def execStageDecision (id : W32) (s : State) : Host.Outcome State Fault Refusal :=
  .next (s.stageFrame (stageDecisionStep id s))

def execStageApply (r : StageSet) (s : State) : Host.Outcome State Fault Refusal :=
  .next (s.stageFrame (stageApplyStep r s).settle)

def execEpochGraceEnd (j : JobId) (s : State) : Host.Outcome State Fault Refusal :=
  .next (s.linkFrame (epochGraceEndStep j.val s))

end Sys2Proof.Machine
end

