-- ==== Sys2Proof/Machine/Time.lean ====
section
/-!
DEFINITION. System time (R324 to R330, R495): the time states, the root's references, and synchronisation over the
links.
-/
namespace Sys2Proof.Machine

/-- This package has role ROOT, with reference source `src` (R325): 0 FREE, 1 PINS, 2 PTP. -/
def State.isRoot (s : State) : Bool := fld s.time.cfgOn 0 2 == 1
def State.refSrc (s : State) : Nat := fld s.time.cfgOn 2 2

/-- |x| is at most `b`. -/
def within (x : Int) (b : Nat) : Bool := x.natAbs ≤ b

/-- The package enters LOCKED (R324, R326): the first time, TIME_NOW takes the reference time by one forward step; a reference
behind TIME_NOW is slewed to, and LOCKED waits until it is within the bound. -/
def TimeSt.lock (t : TimeSt) (off : Int) (bound : Nat) : TimeSt :=
  if t.everLocked then { t with state := .locked, slew := off }
  else if 0 < off then
    { t with state := .locked, everLocked := true, stepped := true, now := ((t.now : Int) + off).toNat, slew := 0, predict := none }
  else if within off bound then { t with state := .locked, everLocked := true, slew := off, predict := none }
  else { t with slew := off, predict := some off }

/-- An offset measurement, reference minus TIME_NOW in 1/21 ns (R324, R326, R328). Before the first entry to LOCKED it is held
against the time predicted from the measurement before it; afterwards against TIME_NOW itself. Eight in succession lock. -/
def TimeSt.measure (t : TimeSt) (off : Int) (bound : Nat) : TimeSt :=
  match t.state with
  | .acquire =>
    let ok := if t.everLocked then within off bound
      else within off bound || t.predict.any (fun p => within (off - p) bound)
    let n := if ok then t.good + 1 else 0
    let t := { t with good := n, predict := some off, slew := if t.everLocked then off else t.slew }
    if 8 ≤ n then t.lock off bound else t
  | .locked => { t with slew := off }
  | _ => t

/-! ## The root's references (R326, R495) -/

/-- PPS_EDGE (R326): a rising edge timestamped at `ts`. -/
def ppsEdgeStep (ts : Nat) (s : State) : State :=
  if !(s.isRoot && s.refSrc == 1) then s
  else
    let s := s.runToNow ts
    let t := s.time
    let named := if t.state = .acquire then t.setSecs.map (fun k => k * 1000000000) else none
    let ref := named.getD (t.refNext.getD ((ts / 1000000000 + 1) * 1000000000))
    let t := { t with refNext := some (ref + 1000000000), setSecs := none, lastPps := t.ticks }
    { s with time := t.measure (((ref : Int) - ts) * nsT) (20 * nsT) }

/-- PTP_MEASUREMENT (R326): an offset measured by the time receiver. -/
def ptpMeasurementStep (off : Int) (s : State) : State :=
  if !(s.isRoot && s.refSrc == 2) then s else { s with time := s.time.measure (off * nsT) (20 * nsT) }

/-- A write of STW_TIME_SET (R326): used only in ACQUIRE. -/
def State.timeSet (s : State) (v : W64) : State :=
  if s.time.state = .acquire then { s with time := { s.time with setSecs := some (fld v 0 40) } } else s

def timeSetStep (v : W64) (s : State) : State :=
  s.writeRow (some .registrar) (pkgPage + 0x30) 8 v (fun s => s.timeSet v)

/-- The root has lost its reference (R328): TIME_NOW runs from the reference clock, and the state stays. -/
def TimeSt.refGone (t : TimeSt) : TimeSt := { t with refLost := true, slew := 0 }

/-- REF_LOSS_TIMEOUT (R495): no valid 1PPS edge for 1.5 s. -/
def refLossTimeoutStep (s : State) : State :=
  if !(s.isRoot && s.refSrc == 1) then s
  else
    let s := s.runTo (s.time.lastPps + 1500000000 * nsT)
    { s with time := s.time.refGone }

/-- REFERENCE_LOST (R328): of a root with ref_src PTP. -/
def referenceLostStep (s : State) : State :=
  if !(s.isRoot && s.refSrc == 2) then s else { s with time := s.time.refGone }

/-! ## Synchronisation over the links (R327, R328) -/

/-- Code of a time state (R329). -/
def TimeState.code : TimeState → Nat
  | .free => 0
  | .acquire => 1
  | .locked => 2
  | .holdover => 3
  | .unlocked => 4

/-- Send a packet on one link of its port (R311, R327). -/
def State.sendLink (s : State) (l : Nat) (p : Packet) : State :=
  let port := s.plan.portOf l
  let key := creditKey port p
  if sget 0 s.fabric.credits key < s.fabric.creditMax then
    ({ s with fabric := { s.fabric with
      credits := sset 0 s.fabric.credits key (sget 0 s.fabric.credits key + 1) } }).transmit l p
  else { s with fabric := { s.fabric with waiting := s.fabric.waiting ++ [{ port := port, hub := l / 5, pkt := p }] } }

/-- Payload of TIME_SYNC at this instant (R351). -/
def State.syncBytes (s : State) : List Byte :=
  leBytes (0x01 + s.now % 2 ^ 64 * 2 ^ 16 + s.time.now % nsT * 16 / nsT * 2 ^ 80 + s.timeRoot % 2 ^ 13 * 2 ^ 84 +
    s.time.state.code * 2 ^ 97) 64

/-- Links that carry TIME (R303, R327). -/
def State.timeLinks (s : State) : List Nat := (List.range 20).filter (fun l => (s.link l).up && bit (s.link l).cap 1)

/-- TIME_SYNC_SEND (R327): on every such link at a beat whose number is a multiple of 16. -/
def timeSyncSendStep (s : State) : State :=
  let due := if s.beat % 16 = 0 ∧ s.time.syncSent ≠ some s.beat then s.beat else (s.beat / 16 + 1) * 16
  let s := s.runToNow (1024 * due)
  let s := { s with time := { s.time with syncSent := some due } }
  s.timeLinks.foldl (fun s l => s.sendLink l (s.sysPacket (s.link l).peerId.toNat s.syncBytes)) s

/-- The parent port and link of a follower (R310, R327). -/
def State.parentPort (s : State) : Option Nat :=
  match s.nextHop 0 none (s.sysPacket s.timeRoot []) with
  | .go port _ => some port
  | _ => none

def State.parentLink (s : State) : Option Nat := s.parentPort.bind (fun o => (s.upLinks o).head?)

/-- A signed number in a saturating 16-bit field. -/
def sat16 (x : Int) : BitVec 16 := BitVec.ofInt 16 (max (-32768) (min 32767 x))

/-- A TIME_SYNC received on link `l` (R327, R328): a follower uses it only on its parent link, and counts it only when the parent's
own time is kept. -/
def State.takeSync (s : State) (l : Nat) (payload : List Byte) : State :=
  let x := leNat payload
  let usable := [0, 2, 3].contains (nfld x 97 3)
  if s.isRoot || s.parentLink != some l then s
  else
    let sent : Int := (nfld x 16 64 * 16 + nfld x 80 4 : Nat)
    let here : Int := (s.time.now * 16 / nsT : Nat)
    let off16 := sent + ((s.link l).rtt.toNat / 2 : Nat) + (s.link l).asym - here
    let t := { s.time with parentLink := BitVec.ofNat 5 l, offset := sat16 off16 }
    if !usable then { s with time := t }
    else
      let t := { t with lastSync := t.ticks }
      let t := match t.state with
        | .holdover => { t with state := .locked }
        | .unlocked => { t with state := .acquire, good := 0 }
        | _ => t
      { s with time := t.measure (off16 * nsT / 16) (2 * nsT) }

/-- SYNC_LOSS_HOLDOVER (R328): a follower that has had no usable sync since the last one was due. -/
def syncLossHoldoverStep (s : State) : State :=
  if s.isRoot || s.time.state != .locked then s
  else
    let s := s.runTo (s.time.lastSync + 2 * 16 * 1024 * nsT)
    { s with time := { s.time with state := .holdover, heldFrom := s.time.lastSync, slew := 0 } }

/-- HOLDOVER_EXPIRE (R328): no usable sync for over 100 ms. -/
def holdoverExpireStep (s : State) : State :=
  if s.time.state != .holdover then s
  else
    let s := s.runTo (s.time.heldFrom + 100000000 * nsT)
    { s with time := { s.time with state := .unlocked, good := 0, predict := none } }

/-! ## The meanings -/

/-- What system time changes. -/
def State.timeFrame (s t : State) : State :=
  { s with time := t.time, clusters := t.clusters, fabric := t.fabric, host := t.host
           stw := { s.stw with events := t.stw.events, errlog := t.stw.errlog } }

def execTimeSyncSend (s : State) : Host.Outcome State Fault Refusal := .next (s.timeFrame (timeSyncSendStep s))

def execPpsEdge (ts : Nat) (s : State) : Host.Outcome State Fault Refusal := .next (s.timeFrame (ppsEdgeStep ts s))

def execPtpMeasurement (off : Int) (s : State) : Host.Outcome State Fault Refusal :=
  .next (s.timeFrame (ptpMeasurementStep off s))

def execTimeSet (v : W64) (s : State) : Host.Outcome State Fault Refusal := .next (s.timeFrame (timeSetStep v s))

def execSyncLossHoldover (s : State) : Host.Outcome State Fault Refusal := .next (s.timeFrame (syncLossHoldoverStep s))

def execHoldoverExpire (s : State) : Host.Outcome State Fault Refusal := .next (s.timeFrame (holdoverExpireStep s))

def execRefLossTimeout (s : State) : Host.Outcome State Fault Refusal := .next (s.timeFrame (refLossTimeoutStep s))

def execReferenceLost (s : State) : Host.Outcome State Fault Refusal := .next (s.timeFrame (referenceLostStep s))

end Sys2Proof.Machine
end

