-- ==== Sys2Proof/Machine/RegRead.lean ====
section
/-!
DEFINITION. What every register reads, as 8-byte values at offsets that are multiples of 8 (R439 and the rules it lists). An offset
that no rule lists reads 0 (R439; of the blocks outside the pages DEDUCED, log 35).
-/
namespace Sys2Proof.Machine

/-- The 8-byte value at `i` of 32-bit registers: two neighbours (R203, R331). -/
def twoWords (lo hi : Nat) : W64 := BitVec.ofNat 64 (lo % 2 ^ 32 + hi % 2 ^ 32 * 2 ^ 32)

/-- Value of a list of 8-byte words at word `i`. -/
def wordAt (n i : Nat) : W64 := BitVec.ofNat 64 (nfld n (64 * i) 64)

/-! ## Tile registers (R127, R128, R203, R227, R284, R285) -/

/-- TILE_MX_STATE (R127) at tile cycle `cyc`: the array computes from a job's start to its end, the epilogue path likewise. -/
def Cluster.mxState (k : Cluster) (cyc : Nat) : W64 :=
  BitVec.ofNat 64 (b2n k.acc0.valid + b2n k.acc1.valid * 2 +
    b2n (k.mxComp.any (fun j => j.start ≤ cyc && decide (cyc < j.computeEnd))) * 4 +
    b2n (k.mxEpi.any (fun j => j.epiStart ≤ cyc && decide (cyc < j.epiEnd))) * 8 +
    k.mxCount % 64 * 16 + fld k.cplMx 0 16 * 2 ^ 16)

/-- A protection register (R284). -/
def Prot.word (p : Prot) : W64 :=
  BitVec.ofNat 64 (p.corrected.toNat + p.uncorrectable.toNat * 2 ^ 16 + p.poisonedNow.toNat * 2 ^ 32 + p.scrubLate.toNat * 2 ^ 48)

def State.protWord (s : State) (st : Nat) : W64 := (sget {} s.mem.prot st).word

/-- The tile register of cluster `c` at offset `o` of its block. -/
def State.tileReg (s : State) (c o : Nat) : W64 :=
  let k := s.cl c
  if o = 0x20000 then k.mxState (s.time.ticks / cycT)
  else if o = 0x20008 then k.mxCycles
  else if o = 0x20010 then k.mxConflicts
  else if 0x30000 ≤ o ∧ o < 0x300C0 then
    twoWords (k.clasp ((o - 0x30000) / 4)).toNat (k.clasp ((o - 0x30000) / 4 + 1)).toNat
  else if o = 0x40000 then k.cplMx
  else if o = 0x40008 then k.cplVx
  else if o = 0x40010 then k.cplCx
  else if o = 0x40018 then k.cplHub
  else if o = 0x50000 then s.protWord c
  else if o = 0x50008 then sget 0 s.mem.errlog c
  else 0

/-! ## Hub registers (R284 to R286, R320 to R322, R387 to R390, R414 to R416) -/

/-- HUB_RED_STATUS (R388). -/
def State.redStatus (s : State) (h : Nat) : W64 :=
  let mine := s.red.ctxs.filter (fun c => (s.quads c.part).contains h)
  let logged := (mine.map (fun c => ((c.log.filter (fun u => s.hubFor c (unitStage u.pkt) (aChunk u.pkt) == h)).map
    (fun u => unitsOf u.pkt)).foldl (· + ·) 0)).foldl (· + ·) 0
  BitVec.ofNat 64 ((mine.filter (fun c => !c.spilled)).length % 2 ^ 11 + s.freeSlots h % 2 ^ 13 * 2 ^ 16 + (s.hub h).preopen.length % 2 ^ 12 * 2 ^ 32 +
    sat 20 logged * 2 ^ 44)

/-- HUB_UPD_STATUS (R414): a binding spans every hub of its partition. -/
def State.updStatus (s : State) (h : Nat) : W64 :=
  let mine := s.red.bindings.filter (fun b => (s.quads b.part).contains h)
  BitVec.ofNat 64 (sat 11 (mine.filter (fun b => b.st != .done && b.st != .waiting)).length +
    b2n (mine.any (fun b => b.st == .closing)) * 2 ^ 11 + sat 32 (mine.filter (fun b => b.st == .waiting)).length * 2 ^ 16)

/-- PLK_LINK_STATUS (R320). -/
def Link.status (k : Link) : W64 :=
  BitVec.ofNat 64 (k.cls.toNat + k.reason.toNat * 2 ^ 3 + b2n k.up * 2 ^ 6 + k.port.toNat * 2 ^ 7 + k.peerId.toNat * 2 ^ 10 +
    k.peerLink.toNat * 2 ^ 23 + k.peerMajor.toNat * 2 ^ 28 + k.rtt.toNat * 2 ^ 36 + k.retrains.toNat * 2 ^ 56)

/-- PLK_LINK_CAP and PLK_LINK_ERR (R321). -/
def Link.capWord (k : Link) : W64 := if k.up then k.cap else 0
def Link.errWord (k : Link) : W64 :=
  BitVec.ofNat 64 (k.fecCorrected.toNat + k.fecUncorrectable.toNat * 2 ^ 16 + k.replays.toNat * 2 ^ 32 + k.downs.toNat * 2 ^ 48)

/-- PLK_DROP0 and PLK_DROP1 of a hub (R322). -/
def State.dropWord (s : State) (h : Nat) (second : Bool) : W64 :=
  let (a, b, c, e, f) := sget (0, 0, 0, 0, 0) s.fabric.drops h
  BitVec.ofNat 64 (if second then c + e * 2 ^ 32 + f * 2 ^ 48 else a + b * 2 ^ 32)

/-- HUB_RED_ERR (R389), HUB_UPD_ERR (R415). -/
def HubSt.redErr (b : HubSt) : W64 :=
  BitVec.ofNat 64 (b.ctxFailed.toNat + b.sdcAlarms.toNat * 2 ^ 16 + b.lateDrop.toNat * 2 ^ 32 + b.malformed.toNat * 2 ^ 48)
def HubSt.updErr (b : HubSt) : W64 :=
  BitVec.ofNat 64 (b.descBad.toNat + b.stepSkew.toNat * 2 ^ 16 + b.frozenNoop.toNat * 2 ^ 32 + b.dropped.toNat * 2 ^ 48)

/-- The link-layer registers of hub `h`, at offset `o` of its block: they serve throughout a partition reset (R471). -/
def State.plkReg (s : State) (h o : Nat) : W64 :=
  if o < 0x20140 then
    let k := s.link (5 * h + (o - 0x20000) / 0x40)
    if o % 0x40 = 0 then k.status else if o % 0x40 = 8 then k.capWord else if o % 0x40 = 0x10 then k.errWord else 0
  else if o = 0x20400 then s.dropWord h false
  else if o = 0x20408 then s.dropWord h true
  else 0

/-- The hub register at offset `o` of the block of hub `h`. -/
def State.hubReg (s : State) (h o : Nat) : W64 :=
  let b := s.hub h
  if 0x10000 ≤ o ∧ o < 0x10060 then
    let st := 520 + 6 * h + (o - 0x10000) / 0x10
    if o % 0x10 = 0 then s.protWord st else sget 0 s.mem.errlog st
  else if o = 0x10080 then s.protWord (512 + h)
  else if o = 0x10100 then BitVec.ofNat 64 (sget 0x10C#32 s.mem.scrubCfg h).toNat
  else if 0x20000 ≤ o ∧ o < 0x30000 then s.plkReg h o
  else if o = 0x30000 then s.redStatus h
  else if o = 0x30008 then b.redErr
  else if o = 0x30010 then b.failLog
  else if o = 0x30020 then BitVec.ofNat 64 b.ledgerCfg.toNat
  else if o = 0x40000 then s.updStatus h
  else if o = 0x40008 then b.updErr
  else if o = 0x40010 then b.skewLog0
  else if o = 0x40018 then b.skewLog1
  else 0

/-! ## IZX_EDGE_STATUS (R52) -/

/-- Spares in use, both directions (R52). -/
def Edge.sparesUsed (e : Edge) : Nat := (e.dirs.map (fun d => d.2.replaced.length)).foldl (· + ·) 0

def State.edgeReg (s : State) (e : Nat) : W64 :=
  let k := s.edge e
  BitVec.ofNat 64 (k.sliceUp.toNat + b2n k.up * 2 ^ 16 + b2n (s.mesh.edgeDraining e) * 2 ^ 17 + k.sparesUsed % 2 ^ 7 * 2 ^ 18 +
    k.laneEvents.toNat * 2 ^ 32)

/-! ## The negotiation page (R443, R445 to R447, R461) -/

/-- The features that the firmware offers (R446): the package feature map, and each feature whose package bits are set. -/
def State.offer (s : State) : BitVec 256 :=
  let p := s.pkgFeatures
  let need (l : List Nat) : Bool := l.all (bit p)
  let f (i : Nat) (l : List Nat) : Nat := if bit s.stw.fwFeatures i && need l then 2 ^ i else 0
  BitVec.ofNat 256 (p.toNat +
    (f 0 [8, 6] + f 1 [4] + f 2 [3] + f 3 [5] + f 4 [1] + f 5 [] + f 6 [7, 6]) * 2 ^ 64)

def RunSt.code : RunSt → Nat
  | .running => 0
  | .restarting => 1
  | .failed => 2

/-- STW_FW_STATE (R443, R452). -/
def State.fwState (s : State) : W64 :=
  if s.stw.romOnly then 2
  else
    let n (r : RunSt) : Nat := (s.stw.curators.filter (fun c => c.2.st == r)).length
    BitVec.ofNat 64 (s.stw.custodian.st.code + s.stw.bursar.st.code * 4 + s.stw.registrar.st.code * 16 + n .restarting * 2 ^ 8 +
      n .failed * 2 ^ 18 + s.stw.restarts.toNat * 2 ^ 32)

/-- STW_LIFECYCLE (R461). -/
def State.lifecycleReg (s : State) : W64 :=
  let w := s.stw
  if w.romOnly then BitVec.ofNat 64 (w.lifecycle.toNat + w.redeploys.toNat * 2 ^ 12)
  else BitVec.ofNat 64 (w.lifecycle.toNat + w.lcTarget.toNat * 2 ^ 4 + w.lcResult.toNat * 2 ^ 8 + w.redeploys.toNat * 2 ^ 12 +
    w.lcToken.toNat * 2 ^ 16)

/-- The negotiation page; the boot ROM serves it when no Custodian bundle verifies (R452). -/
def State.negReg (s : State) (o : Nat) : W64 :=
  let rom := s.stw.romOnly
  if o = 0 then (if rom then 0 else BitVec.ofNat 64 s.stw.ifVersion.toNat)
  else if o = 0x08 then (if rom then 0 else s.stw.hostIf)
  else if 0x20 ≤ o ∧ o < 0x40 then (if rom then 0 else wordAt s.offer.toNat ((o - 0x20) / 8))
  else if 0x40 ≤ o ∧ o < 0x60 then (if rom then 0 else wordAt s.stw.accept.toNat ((o - 0x40) / 8))
  else if 0x60 ≤ o ∧ o < 0x80 then (if rom then 0 else wordAt s.stw.agreed.toNat ((o - 0x60) / 8))
  else if o = 0x80 then (if rom then 0 else BitVec.ofNat 64 s.stw.neg.toNat)
  else if o = 0x88 then s.fwState
  else if o = 0x90 then s.lifecycleReg
  else 0

/-! ## The package page -/

/-- Length of the current holdover in ms (R329). -/
def State.holdoverMs (s : State) : Nat :=
  if s.time.state = .holdover then sat 16 ((s.time.ticks - s.time.heldFrom) / (1000000 * nsT)) else 0

/-- STW_TIME_STATUS (R329). -/
def State.timeStatus (s : State) : W64 :=
  let t := s.time
  BitVec.ofNat 64 (t.state.code + b2n t.refLost * 2 ^ 3 + b2n t.stepped * 2 ^ 4 + (if s.isRoot then 31 else t.parentLink.toNat) * 2 ^ 5 +
    t.offset.toNat * 2 ^ 16 + s.holdoverMs * 2 ^ 32)

/-- STW_POWER_CAP (R343). -/
def PowerSt.capWord (p : PowerSt) : W64 :=
  BitVec.ofNat 64 (p.capW % 2 ^ 13 + p.capEff % 2 ^ 13 * 2 ^ 16 + b2n p.capHeld * 2 ^ 29 + b2n p.overCap * 2 ^ 30 +
    p.beFraction % 2 ^ 5 * 2 ^ 32)

/-- STAGE_CTL, STATUS and AT (R347): reserved bits read 0. -/
def StageRegs.reg (g : StageRegs) (o : Nat) : W64 :=
  if o = 0 then BitVec.ofNat 64 (fld g.ctl 0 44)
  else if o = 8 then BitVec.ofNat 64 (g.state.toNat + g.reason.toNat * 2 ^ 8 + g.lastId.toNat * 2 ^ 32)
  else BitVec.ofNat 64 (fld g.at_ 0 54)

/-- STW_ATTEST_CTL (R456). -/
def StewardSt.attestCtl (w : StewardSt) : W64 :=
  BitVec.ofNat 64 (w.attOp.toNat + b2n w.attBusy.isSome * 4 + b2n w.attDone * 8 + b2n w.attError * 16)

/-- STW_SVN_COMMIT (R454). -/
def StewardSt.svnReg (w : StewardSt) : W64 :=
  BitVec.ofNat 64 (w.ctr.getD 0 0 % 64 * 2 ^ 8 + w.ctr.getD 1 0 % 64 * 2 ^ 16 + w.ctr.getD 2 0 % 64 * 2 ^ 24)

def State.pkgReg (s : State) (o : Nat) : W64 :=
  if o = 0x10 then BitVec.ofNat 64 s.now
  else if o = 0x20 then BitVec.ofNat 64 s.time.cfg.toNat
  else if o = 0x28 then s.timeStatus
  else if o = 0x40 then s.power.capWord
  else if o = 0x50 then BitVec.ofNat 64 s.stw.memcfg.toNat
  else if o = 0x60 then s.stw.events
  else if o = 0x68 then s.stw.errlog
  else if o = 0x100 then s.stw.attestCtl
  else if 0x108 ≤ o ∧ o < 0x138 then wordAt s.stw.nonceStg.toNat ((o - 0x108) / 8)
  else if o = 0x140 then s.stw.attBuf
  else if o = 0x180 then s.stw.svnReg
  else if o = 0x300 then BitVec.ofNat 64 (fld s.fabric.planStg 6 42 * 2 ^ 6)
  else if 0x380 ≤ o ∧ o ≤ 0x390 then s.stage.reg (o - 0x380)
  else 0

/-! ## The partition page -/


/-- Role and slot of a die by the current catalogue (R18). -/
def State.siteNow (s : State) (d : Nat) : Nat × Nat := s.panel.catalogue.elim (roleFailed, 15) (fun c => c.siteNow d)

/-- Quadrant `q` holds a failed die whose slot awaits the next reset (R38, R503): one marked failed in service, or one that package test
recorded as FAILED and to which no reset has applied R32 (R29). -/
def State.pendingQuad (s : State) (q : Nat) : Bool :=
  s.panel.failedSlots.any (fun x => x / 8 == q) ||
  s.panel.catalogue.any (fun c => (List.range 8).any (fun sl => (c.holder q sl).any (c.unapplied q sl)))

/-- Quadrant `q` has a reserve in role RESERVE (R38). -/
def State.reserveLeft (s : State) (q : Nat) : Bool := (quadSites q).any (fun d => (s.siteNow d).1 == roleReserve)

/-- Quadrant `q` has an unmapped slot: one that no die holds, or that of an isolated die (R38, R55). -/
def State.degradedQuad (s : State) (q : Nat) : Bool :=
  (span (8 * q) 8).any (fun x =>
    let site : BitVec 8 := sget 0xFF s.panel.slotSite x
    site == 0xFF || s.panel.isolated.contains site.toNat)

/-- PART_PROMOTE (R38). -/
def State.promoteReg (s : State) (p : Nat) : W64 :=
  let mask (f : Nat → Bool) : Nat := ((s.quads p).filter f).foldl (fun m q => m + 2 ^ q) 0
  BitVec.ofNat 64 (b2n (s.prt p).autoPromote + mask s.pendingQuad * 2 + mask s.reserveLeft * 2 ^ 5 + mask s.degradedQuad * 2 ^ 9)

/-- PART_LOSS_STATE (R174). -/
def StepRec.lossState (r : StepRec) : W64 :=
  BitVec.ofNat 64 (r.lexp.toNat + r.clean.toNat * 2 ^ 8 + b2n r.lastSkipped * 2 ^ 24 + b2n r.floorHit * 2 ^ 25 +
    r.tablesClamped.toNat * 2 ^ 32 + r.skippedTotal.toNat * 2 ^ 48)

/-- PART_LOSS_POLICY as staged, reserved bits read 0 (R173). -/
def policyReg (v : W64) : W64 := BitVec.ofNat 64 (fld v 0 25 + fld v 32 16 * 2 ^ 32)

def State.partReg (s : State) (p o : Nat) : W64 :=
  let t := s.prt p
  if o = 0x10 then s.promoteReg p
  else if o = 0x100 then s.subqNow p
  else if o = 0x108 then s.cqNow p
  else if o = 0x180 then BitVec.ofNat 64 ((t.parkNext.map (fun x => x.2)).getD t.park).toNat
  else if 0x200 ≤ o ∧ o < 0x240 then
    twoWords (fld (sget 0 t.slotsStg ((o - 0x200) / 4)) 0 24) (fld (sget 0 t.slotsStg ((o - 0x200) / 4 + 1)) 0 24)
  else if o = 0x240 then BitVec.ofNat 64 (fld t.anchorStg 0 54)
  else if 0x280 ≤ o ∧ o ≤ 0x290 then t.stage.reg (o - 0x280)
  else if o = 0x2C0 then BitVec.ofNat 64 (fld t.updListStg 6 58 * 2 ^ 6)
  else if 0x400 ≤ o ∧ o < 0x600 ∧ o % 0x40 = 0 then policyReg (sget polReset t.policyStg ((o - 0x400) / 0x40))
  else if 0x400 ≤ o ∧ o < 0x600 ∧ o % 0x40 = 8 then (t.prog ((o - 0x400) / 0x40)).srec.lossState
  else 0

/-! ## The reset controller (R467, R468, R479, R484, R486, R491, R500) -/

/-- Quadrants in reset (R467). -/
def State.resetMask (s : State) : Nat := ((List.range 4).filter s.inReset).foldl (fun m q => m + 2 ^ q) 0

/-- STW_RESET_LAST_q (R468). -/
def ResetLast.word (r : ResetLast) : W64 :=
  BitVec.ofNat 64 (r.phase.toNat + r.cause.toNat * 2 ^ 4 + b2n r.package * 2 ^ 8 + b2n r.archived * 2 ^ 9 + b2n r.promoted * 2 ^ 10 +
    r.duration.toNat * 2 ^ 16)

/-- STW_ARCHIVE_CTL (R484). -/
def ResetSt.archiveCtl (r : ResetSt) : W64 :=
  BitVec.ofNat 64 (r.arSlot.toNat + b2n r.arBusy.isSome * 8 + b2n r.arDone * 16 + b2n r.arError * 32 + r.newest.toNat * 64)

/-- STW_RESYNC_CTL (R479). -/
def ResetSt.resyncCtl (r : ResetSt) : W64 := BitVec.ofNat 64 (fld r.rsWritten 0 16 + r.rsState.toNat * 2 ^ 16)

/-- STW_FAULT_COUNT (R486). -/
def ResetSt.faultCount (r : ResetSt) : W64 :=
  BitVec.ofNat 64 (r.fcLanes.toNat + r.fcSlices.toNat * 2 ^ 8 + r.fcLinks.toNat * 2 ^ 16 + r.fcFw.toNat * 2 ^ 24 +
    r.fcFailovers.toNat * 2 ^ 32 + r.fcBeyond.toNat * 2 ^ 40 + r.fcNotices.toNat * 2 ^ 48)

def State.rstReg (s : State) (o : Nat) : W64 :=
  let r := s.reset_
  if o = 0 then BitVec.ofNat 64 (s.resetMask * 2 ^ 16 + r.resets.toNat * 2 ^ 32)
  else if 0x10 ≤ o ∧ o < 0x30 then (sget {} r.last ((o - 0x10) / 8)).word
  else if o = 0x40 then r.archiveCtl
  else if o = 0x48 then r.arBuf
  else if o = 0x60 then r.resyncCtl
  else if o = 0x68 then r.rsList
  else if o = 0x78 then r.rsHoldStg
  else if o = 0x80 then r.rsStepStg
  else if o = 0x90 then r.faultCount
  else if o = 0xA0 then s.power.env
  else if o = 0xB0 then BitVec.ofNat 64 (fld r.pd 0 64)
  else if o = 0xB8 then BitVec.ofNat 64 (fld r.pd 64 28)
  else 0

end Sys2Proof.Machine
end

