-- ==== Sys2Proof/Machine/Archive.lean ====
section
/-!
DEFINITION. The archive (R480 to R484): the units of a reset, what each dump holds, the record in flash, and its read by the host.
-/
namespace Sys2Proof.Machine

/-! ## Data of an entry (R483) -/

/-- Bytes placed at offsets, as the non-zero bytes in rising order of offset. -/
def placed (parts : List (Nat × List Byte)) : List Host.Cell :=
  parts.flatMap (fun p => ((List.range p.2.length).zip p.2).filterMap (fun x => if x.2 = 0 then none else some (p.1 + x.1, x.2)))

/-- A list of 8-byte words as bytes. -/
def wordBytes (ws : List W64) : List Byte := ws.flatMap (fun w => leBytes w.toNat 8)

/-- Commands of a queue, 64 bytes each. -/
def queueBytes (q : List QCmd) : List Byte := (q.take 32).flatMap (fun x => leBytes x.cmd.toNat 64)

/-- A cluster's entry: 8,192 bytes. The return stack is listed oldest first (DESIGN CHOICE, log 36). -/
def State.clusterData (s : State) (c : Nat) : List Host.Cell :=
  let k := s.cl c
  placed [
    (0, (List.range 48).flatMap (fun i => leBytes (k.clasp i).toNat 4)),
    (0xC0, wordBytes [k.mxState (s.time.ticks / cycT), k.cplMx, k.cplVx, k.cplCx, k.cplHub]),
    (0xE8, wordBytes [BitVec.ofNat 64 k.cur.fetch, BitVec.ofNat 64 k.cur.stack.length]),
    (0x100, wordBytes (k.cur.stack.reverse.map (BitVec.ofNat 64))),
    (0x200, queueBytes ((k.mxIssued.map (fun j => j.q)).toList ++ k.mxq)), (0xA00, queueBytes k.vxq), (0x1200, queueBytes k.cxq)]

/-- 16 bytes: a low and a high word. -/
def pairBytes (lo hi : Nat) : List Byte := leBytes lo 8 ++ leBytes hi 8

/-- State of a context as R483 codes it. -/
def CtxSt.code : CtxSt → Nat
  | .open_ => 0
  | .complete => 1
  | .failed => 2

/-- Contexts of hub `h`'s partition, and its bindings. -/
def State.hubCtxs (s : State) (h : Nat) : List Ctx := s.red.ctxs.filter (fun c => (s.quads c.part).contains h)
def State.hubBindings (s : State) (h : Nat) : List Binding := s.red.bindings.filter (fun b => (s.quads b.part).contains h)

/-- Data of a unit of kind 1 to 6 (R483), before it is rounded up to a multiple of 64 bytes. -/
def State.unitBytes (s : State) (kind h : Nat) : List Byte :=
  match kind with
  | 1 => padTo 64 (wordBytes [s.redStatus h, (s.hub h).redErr, (s.hub h).failLog, s.protWord (512 + h)]) ++
      (s.hubCtxs h).flatMap (fun c => pairBytes (c.job.toNat + c.ctx.toNat * 2 ^ 10 + c.st.code * 2 ^ 22) c.deadline)
  | 2 => padTo 64 (wordBytes [s.updStatus h, (s.hub h).updErr, (s.hub h).skewLog0, (s.hub h).skewLog1]) ++
      (s.hubBindings h).flatMap (fun b => pairBytes b.desc b.step.toNat)
  | 3 => wordBytes ((span (5 * h) 5).flatMap (fun l => [(s.link l).status, (s.link l).capWord, (s.link l).errWord]) ++
      [s.dropWord h false, s.dropWord h true])
  | 4 => wordBytes [s.fwState, BitVec.ofNat 64 s.stw.registrar.expiries]
  | 5 => wordBytes [s.fwState, BitVec.ofNat 64 s.stw.bursar.expiries]
  | _ => wordBytes [s.fwState, BitVec.ofNat 64 s.stw.custodian.expiries]

/-- The entry of a unit read by source 0 (functional) or 1 (scan), or found absent (2) or not reached (3) (R481, R482). -/
def State.dumpUnit (s : State) (u : BitVec 4 × BitVec 9) (source : Nat) : ArchiveEntry :=
  let (len, data) :=
    if 2 ≤ source then (0, [])
    else if u.1 = 0 then (8192, s.clusterData u.2.toNat)
    else
      let bs := s.unitBytes u.1.toNat u.2.toNat
      (roundUp bs.length 64, placed [(0, bs)])
  { kind := u.1, index := u.2, source := BitVec.ofNat 2 source, length := len, time := BitVec.ofNat 64 s.now, data := data }

/-! ## Units of a reset (R481) -/

/-- Units of a reset of a list of quadrants, in the order of R481; a package reset adds the firmware processors. -/
def State.archiveUnits (s : State) (qs : List Nat) (pkg : Bool) : List (BitVec 4 × BitVec 9) :=
  (qs.flatMap (fun q => (span (128 * q) 128).filter (fun c => s.slotMapped (clusterSlot c)))).map (fun c => (0, BitVec.ofNat 9 c)) ++
  qs.flatMap (fun h => [(1, BitVec.ofNat 9 h), (2, BitVec.ofNat 9 h), (3, BitVec.ofNat 9 h)]) ++
  (if pkg then [(4, 0), (5, 0), (6, 0)] else [])

/-- Dump the first `n` waiting units by their functional path. -/
def State.dumpUnits (s : State) (r : PartReset) (n : Nat) : PartReset :=
  { r with dump := r.dump ++ (r.units.take n).map (fun u => s.dumpUnit u 0), units := r.units.drop n }

/-- A unit does not answer (R481): it is read through the scan ring, or recorded as absent. -/
def State.dumpTimeout (s : State) (r : PartReset) (before : Nat) (scanOk : Bool) : PartReset :=
  let r := s.dumpUnits r before
  match r.units with
  | [] => r
  | u :: rest => { r with dump := r.dump ++ [s.dumpUnit u (if scanOk then 1 else 2)], units := rest }

/-! ## The record (R480, R482) -/

/-- Sequence number of the record in a slot; 0 for an empty one. -/
def ResetSt.seqOf (r : ResetSt) (i : Nat) : Nat := (sget none r.archive i).elim 0 (fun (x : ArchiveRec) => x.seq.toNat)

/-- The slot that holds the oldest record: the first of least sequence number (R480). -/
def ResetSt.oldest (r : ResetSt) : Nat :=
  ([1, 2, 3]).foldl (fun b i => if r.seqOf i < r.seqOf b then i else b) 0

/-- Who takes the archive works (R481): no archive without the Custodian. -/
def State.canArchive (s : State) : Bool := s.stw.custodian.st != .failed

/-- Write the record of a reset (R480, R482). -/
def State.putArchive (s : State) (qmask : BitVec 4) (pkg : Bool) (cause : BitVec 4) (at_ : Nat) (es : List ArchiveEntry) : State :=
  let r := s.reset_
  let slot := r.oldest
  let x : ArchiveRec := {
    seq := BitVec.ofNat 32 (r.seqOf r.newest.toNat + 1), time := BitVec.ofNat 64 at_, qmask := qmask, package := pkg, cause := cause,
    entries := es }
  { s with reset_ := { r with archive := sset none r.archive slot (some x), newest := BitVec.ofNat 2 slot } }

/-! ## A record as its bytes, and ARCHIVE_READ (R482, R484) -/

/-- An entry: 16-byte header, then its data. -/
def ArchiveEntry.bytes (e : ArchiveEntry) : List Byte :=
  leBytes (e.kind.toNat + e.index.toNat * 2 ^ 4 + e.source.toNat * 2 ^ 13 + e.length * 2 ^ 32 + e.time.toNat * 2 ^ 64) 16 ++
  (List.range e.length).map (fun i => sget 0 e.data i)

/-- A record: 128-byte header, then its entries. -/
def ArchiveRec.bytes (r : ArchiveRec) : List Byte :=
  let body := r.entries.flatMap ArchiveEntry.bytes
  leBytes (0x41524348 + r.seq.toNat * 2 ^ 32 + r.time.toNat * 2 ^ 64 + r.qmask.toNat * 2 ^ 128 + b2n r.package * 2 ^ 132 +
    r.cause.toNat * 2 ^ 136 + r.entries.length % 2 ^ 16 * 2 ^ 144 + (128 + body.length) % 2 ^ 32 * 2 ^ 160 +
    (Config.sha384 body).toNat * 2 ^ 256) 128 ++ body

/-- Bytes of an archive slot (R480). -/
def archiveSlotBytes : Nat := 6 * 2 ^ 20

/-- [a, a + n) lies in the carve-out, and the carve-out is not in reset (R61). -/
def State.inCarve (s : State) (a n : Nat) : Bool := inside a n s.carve.1 s.carveBytes && !s.inReset 2

/-- A write of STW_ARCHIVE_CTL (R484): slot is kept; done is cleared by a 1; read starts a copy unless one runs. -/
def State.archiveCtlWrite (s : State) (v : W64) : State :=
  let r := s.reset_
  let r := { r with arSlot := BitVec.ofNat 2 (fld v 0 2), arDone := r.arDone && !bit v 4 }
  { s with reset_ := if bit v 2 && r.arBusy.isNone then { r with arBusy := some (r.arSlot, fld r.arBuf 0 48) } else r }

def archiveReadStep (v : W64) (s : State) : State := s.writeRow none (rstPage + 0x40) 8 v (fun s => s.archiveCtlWrite v)

/-- ARCHIVE_COPY_DONE (R484): the slot is copied whole, or the copy fails; bytes past the record are zero (DESIGN CHOICE, log 36). -/
def archiveCopyDoneStep (s : State) : State :=
  match s.reset_.arBusy with
  | none => s
  | some (slot, buf) =>
    let ok := s.inCarve buf archiveSlotBytes && s.stw.custodian.st == .running && !s.dark
    let (s, ok) :=
      if ok then
        let bs := (sget none s.reset_.archive slot.toNat).elim [] ArchiveRec.bytes
        s.writeAck ownerHost buf (padTo archiveSlotBytes bs)
      else (s, false)
    { s with reset_ := { s.reset_ with arBusy := none, arDone := true, arError := !ok } }

/-- What reading the archive changes. -/
def State.archiveFrame (s t : State) : State :=
  { s with mem := t.mem, panel := t.panel, parts := t.parts, clusters := t.clusters, host := t.host, reset_ := t.reset_
           stw := { s.stw with events := t.stw.events, errlog := t.stw.errlog } }

def execArchiveRead (v : W64) (s : State) : Host.Outcome State Fault Refusal := .next (s.archiveFrame (archiveReadStep v s))

def execArchiveCopyDone (s : State) : Host.Outcome State Fault Refusal := .next (s.archiveFrame (archiveCopyDoneStep s).settle)

end Sys2Proof.Machine
end

