-- ==== Sys2Proof/Machine/Vector.lean ====
section
/-!
DEFINITION. The vector engine (R131 to R157): VOP, VFUNC and its loads, VCONV, row statistics, normalisation and
softmax, forward and backward. A command processes its region row by row; each result is formed exactly and
rounded once into the result format.
-/
namespace Sys2Proof.Machine

/-! ## Operand words (R235) -/

def vD (q : Block) : Nat := wfld q 5 0 16
def vS0 (q : Block) : Nat := wfld q 5 16 16
def vS1 (q : Block) : Nat := wfld q 6 0 16
def vS2 (q : Block) : Nat := wfld q 6 16 16
def vOp (q : Block) : Nat := wfld q 7 0 8
def vCont (q : Block) : Bool := wfld q 7 14 1 == 1
def vMask (q : Block) : Nat := wfld q 7 15 2
def vOpt (q : Block) : Bool := wfld q 7 17 1 == 1
def vF0 (q : Block) : Nat := cmdWord q 8
def vQoff (q : Block) : Nat := wfld q 11 0 24
def vKoff (q : Block) : Nat := wfld q 12 0 24
def vE0 (q : Block) : Nat := wfld q 13 0 16
def vE1 (q : Block) : Nat := wfld q 13 16 16

/-- Reserved fields of the operand words are zero (R228, R235). -/
def vRsvOk (q : Block) : Bool :=
  wfld q 7 18 14 == 0 && wfld q 11 24 8 == 0 && wfld q 12 24 8 == 0 && nfld q.toNat 448 64 == 0

/-- Form of a source (R132). -/
inductive Form where
  | vec | row | col | scalar
  deriving DecidableEq, Repr

def formOf : Nat → Form
  | 0 => .vec
  | 1 => .row
  | 2 => .col
  | _ => .scalar

/-- A source of a vector command: its form, where its descriptor lies, and its SCALAR value. -/
structure Src where
  form : Form
  td   : Nat
  val  : Nat
  deriving DecidableEq, Repr

/-- Source `i` with the form its field names (R235). -/
def srcAt (q : Block) (i : Nat) : Src :=
  { form := formOf (wfld q 7 (8 + 2 * i) 2)
    td := if i = 0 then vS0 q else if i = 1 then vS1 q else vS2 q
    val := cmdWord q (8 + i) }

/-- Source `i` with a form fixed by R236. -/
def srcAs (q : Block) (i : Nat) (f : Form) : Src := { srcAt q i with form := f }

/-- Descriptor fields that the sources read (R230). -/
def srcTds (ss : List Src) : List Nat := (ss.filter (fun s => s.form != .scalar)).map (fun s => s.td)

/-- A source with its descriptor. -/
abbrev SrcD := Src × Block

/-! ## Checks (R132, R135, R157, R237) -/

/-- SHAPE_BAD for a source (R237). -/
def srcShapeOk (rows l : Nat) (s : SrcD) : Bool :=
  match s.1.form with
  | .vec => tRows s.2 == rows && tCols s.2 == l
  | .col => tCols s.2 == l
  | .row => tRows s.2 == rows
  | .scalar => true

/-- The three wide formats. -/
def wide (f : Nat) : Bool := f ≤ 2

/-- FORMAT_BAD for a source of wide formats; a ROW source is FP32 (R132, R237). -/
def srcFormatOk (s : SrcD) : Bool :=
  match s.1.form with
  | .vec => wide (tFmt s.2)
  | .col => wide (tFmt s.2)
  | .row => tFmt s.2 == 0
  | .scalar => true

/-- LAYOUT_BAD for a source: alignment and extent (R132, R135, R230). -/
def srcLayoutOk (rows l : Nat) (s : SrcD) : Bool :=
  match s.1.form with
  | .vec => ownRegionOk s.2 rows l
  | .col => ownRegionOk s.2 1 l
  | .row => tOwnOk s.2 && ownSpanOk (tBase s.2) 0 1 (4 * rows)
  | .scalar => true

/-- Rows of its region that a source has (R132, R135): none for ROW and SCALAR sources. -/
def srcRows (rows : Nat) (s : SrcD) : Nat :=
  match s.1.form with
  | .vec => rows
  | .col => 1
  | _ => 0

/-- Arrays of a VEC or COL source (R135). -/
def srcArrays (rows l : Nat) (s : SrcD) : List Strided := regionArrays s.2 (srcRows rows s) l

/-- A source meets the result otherwise than by coinciding with it (R135). -/
def srcClash (d : Block) (rows l : Nat) (s : SrcD) : Bool := regionsClash s.2 d (srcRows rows s) l rows l

/-- R and L within R132. -/
def shapeOk (rows l : Nat) : Bool := 1 ≤ rows && rows ≤ 4096 && 1 ≤ l && l ≤ 65536

/-- The first refusal of a list of checks that fails, in its order (R157), or OK. -/
def firstBad : List (Bool × BitVec 16) → BitVec 16
  | [] => stOk
  | (ok, st) :: t => if ok then firstBad t else st

/-! ## Cost (R131, R136) -/

/-- Elements of a step: 512 when every vector source and the result are FP16 or BF16, else 256 (R131). -/
def stepSize (d : Block) (ss : List SrcD) : Nat :=
  let half (f : Nat) : Bool := f == 1 || f == 2
  if half (tFmt d) && ss.all (fun s => match s.1.form with
    | .vec => half (tFmt s.2)
    | .col => half (tFmt s.2)
    | _ => true) then 512 else 256

/-- Bytes of the blocks that a step of `n` elements of a region meets, its bezels with them (R88, R136). -/
def stepBytes (n : Nat) (d : Block) : Nat :=
  roundUp (n * fmtWidth (tFmt d) / 8) 64 + (if fmtBlocked (tFmt d) then roundUp (n / 32 * bezelBytes (tIncl d)) 64 else 0)

/-- Cycles of one pass over `rows` rows of `l` elements: per step, the regions read and written, the bytes read once per row in its
first step, and the term p (R136). A partial step costs as much as a full one (R131). -/
def passCost (rows l step : Nat) (reads writes : List Block) (perRow p : Nat) : Nat :=
  let rb := (reads.map (stepBytes step)).sum
  let wb := (writes.map (stepBytes step)).sum
  let cost (i : Nat) : Nat := max p (max (ceilDiv (rb + if i = 0 then perRow else 0) 2048) (ceilDiv wb 1024))
  rows * ((List.range (ceilDiv l step)).map cost).sum

/-- Regions of the VEC and COL sources, and the bytes of the ROW sources (R136). -/
def readRegions (ss : List SrcD) : List Block :=
  (ss.filter (fun s => s.1.form == .vec || s.1.form == .col)).map (fun s => s.2)
def rowSrcBytes (ss : List SrcD) : Nat := 64 * (ss.filter (fun s => s.1.form == .row)).length

/-! ## Rows -/

/-- Row number that a source reads for row `r` of the region. -/
def Src.at_ (s : Src) (r : Nat) : Nat := match s.form with
  | .vec => r
  | _ => 0

/-- Blocks that a source's row meets (R132). -/
def srcBlocks (c l r : Nat) (s : SrcD) : List Nat :=
  let r' := s.1.at_ r
  match s.1.form with
  | .scalar => []
  | .row => blocksOf (carrelAt c (tBase s.2 + 4 * r)) 4
  | _ => blocksOf (carrelAt c (tBase s.2 + r' * tPitch s.2)) (rowBytes (tFmt s.2) l) ++
      (if fmtBlocked (tFmt s.2) then
        blocksOf (carrelAt c (tBezBase s.2 + r' * tBezPitch s.2)) (bezelRow (tIncl s.2) l) else []) ++
      (if tDelayed s.2 then (List.range l).map (fun i => entryAddr s.2 (tORow s.2 + r') (tOCol s.2 + i) / 64) |>.eraseDups
       else [])

/-- Exact values of a source for row `r` (R90, R132, R158). -/
def MemSt.srcVals (m : MemSt) (c l r : Nat) (s : SrcD) : NumM (List Val) :=
  match s.1.form with
  | .scalar => do
    let v ← readCode 0 s.1.val
    pure (List.replicate l v)
  | .row => do
    let v ← readCode 0 (m.peekNat (carrelAt c (tBase s.2 + 4 * r)) 4)
    pure (List.replicate l v)
  | _ =>
    let r' := s.1.at_ r
    readRowVals s.2 (m.rowNat c s.2 l r') (m.bezNat c s.2 l r')
      (if tDelayed s.2 then (List.range l).map (m.expAt s.2 r') else []) l

/-- Walk the rows: read each row's blocks, and stop at an uncorrectable one (R157); else do the row. -/
def rowLoop {α : Type} (x : MemX) (reads : Nat → List Nat) (row : MemSt → Nat → α → MemSt × α) :
    Nat → Nat → MemSt → α → MemSt × α × Bool
  | 0, _, m, a => (m, a, true)
  | n + 1, r, m, a =>
    let m := m.touchAll x (reads r)
    if m.sound (reads r) then
      let (m, a) := row m r a
      rowLoop x reads row n (r + 1) m a
    else (m, a, false)

/-- What a walk carries: the flags, the rows of a delayed-scaled result, and the command's own sums. -/
structure Walk (α : Type) where
  fl   : Flags
  rows : List (List Val)
  own  : α

/-- Put one row of values into a result, or keep it until the tile is whole (R163). -/
def putVals {α : Type} (x : MemX) (c : Nat) (d : Block) (m : MemSt) (r : Nat) (vs : List Val) (w : Walk α) :
    MemSt × Walk α :=
  if tDelayed d then (m, { w with rows := w.rows ++ [vs] })
  else
    let (out, fl) := (convRows d [vs]).run w.fl
    (m.putRows x (ownerOf c .vx) (carrelAt c (tBase d)) (tPitch d) 0 (carrelAt c (tBezBase d)) (tBezPitch d) 0 r out,
     { w with fl := fl })

/-- Blocks of the scale-table entries under which row `r` of a delayed-scaled result is written (R158, R163). -/
def rowTable (d : Block) (r : Nat) : List Nat :=
  if tDelayed d then
    (span (tOCol d / 128) ((tOCol d + tCols d - 1) / 128 - tOCol d / 128 + 1)).map (fun j =>
      blockEntry d ((tORow d + r) / 128, j) / 64)
  else []

/-- Write the rows kept for a delayed-scaled result (R163), whose entries have been read. -/
def putTiles (x : MemX) (c : Nat) (d : Block) (m : MemSt) (rows : List (List Val)) (fl : Flags) :
    MemSt × Flags :=
  if tDelayed d && !rows.isEmpty then
    let ((out, es), fl) := (m.convertFor d rows).run fl
    let o := ownerOf c .vx
    ((m.putRows x o (carrelAt c (tBase d)) (tPitch d) 0 0 0 0 0 out).putEntries x o d es, fl)
  else (m, fl)

/-- A command whose rows give one row of values each: the memories after it, its flags, its own sums, and whether
no read met an uncorrectable block. A row of a delayed-scaled result reads its table entries too, so the rows before an uncorrectable
one are complete (R157). -/
def walkRows {α : Type} (x : MemX) (c : Nat) (d : Block) (n : Nat) (reads : Nat → List Nat)
    (f : MemSt → Nat → α → NumM (List Val × α)) (own : α) (m : MemSt) : MemSt × Flags × α × Bool :=
  let (m, w, ok) := rowLoop x (fun r => reads r ++ rowTable d r) (fun m r (w : Walk α) =>
    let ((vs, own), fl) := (f m r w.own).run w.fl
    putVals x c d m r vs { w with fl := fl, own := own }) n 0 m { fl := 0, rows := [], own := own }
  let (m, fl) := putTiles x c d m w.rows w.fl
  (m, fl, w.own, ok)

/-- The status of a command that did its work: an uncorrectable read is MEM_UNCORRECTABLE (R157). -/
def memStatus (ok : Bool) : BitVec 16 := if ok then stOk else stMem

/-! ## The shape of every vector command -/

/-- What a vector command does once its descriptors are read: its check, its cost in cycles, and its work. -/
structure VPlan where
  check : BitVec 16
  cost  : Nat
  work  : MemSt → MemSt × Flags × BitVec 16

/-- The vector command with opcode `op` at the head of its queue: descriptors (R231), check, work, completion due
(R136, R505). -/
def vecStep (c op : Nat) (tds : Block → List Nat) (plan : State → Block → VPlan) (s : State) : State :=
  match (s.cl c).head .vx op with
  | none => s
  | some q =>
    let bs := (tds q.cmd).map (tdBlock c)
    let s := s.onMem (fun m => m.touchAll s.mx bs)
    let s := s.onCl c (fun k => k.pop .vx)
    let p := plan s q.cmd
    let st := if s.mem.sound bs then p.check else stMem
    let (m, fl, st') := if st = stOk then p.work s.mem else (s.mem, 0, st)
    let due := (s.cycle + (if st = stOk then p.cost else 24)) * cycT
    ({ s with mem := m }).onCl c (fun k =>
      { k with vxDone := some { q := q, status := st', flags := fl, due := due } })

/-! ## VOP (R133, R134) -/

/-- Sources that an operation reads. -/
def vopArity (op : Nat) : Nat :=
  if op = 6 ∨ op = 7 ∨ op = 8 then 1 else if op = 3 ∨ op = 0xB then 3 else 2

/-- The exact result of an operation on one element (R133, R134). -/
def vopElem (op : Nat) (a b c : Val) : NumM Val :=
  match op with
  | 0x0 => xAdd a b
  | 0x1 => xSub a b
  | 0x2 => xMul a b
  | 0x3 => xFma a b c
  | 0x4 => pure (vMax a b)
  | 0x5 => pure (vMin a b)
  | 0x6 => pure (vAbs a)
  | 0x7 => pure (vNeg a)
  | 0x8 => xSqrt a
  | 0x9 => xDiv a b
  | 0xA => pure (if vIsNan a || vIsNan b then .zero false else if vLt b a then vOne else .zero false)
  | _ => pure (if vIsNan c then b else if vLt (.zero false) c then a else b)

def vopSrcs (q : Block) : List Src := (List.range (vopArity (vOp q))).map (srcAt q)
def vopTds (q : Block) : List Nat := vD q :: srcTds (vopSrcs q)

/-- The checks that VOP, VFUNC and the row commands share, from SHAPE_BAD on (R157). -/
def commonChecks (q d : Block) (ss : List SrcD) : List (Bool × BitVec 16) :=
  let rows := tRows d
  let l := tCols d
  [(shapeOk rows l && ss.all (srcShapeOk rows l), stShape),
   (wide (tFmt d) && ss.all srcFormatOk, stFormat),
   (vRsvOk q && ownRegionOk d rows l && ss.all (srcLayoutOk rows l) && !ss.any (srcClash d rows l), stLayout)]

/-- A mask of 2 or 3 is reserved (R237). -/
def maskOk (q : Block) : Bool := vMask q ≤ 1

def vopPlan (c : Nat) (s : State) (q : Block) : VPlan :=
  let d := s.mem.td c (vD q)
  let ss : List SrcD := (vopSrcs q).map (fun r => (r, s.mem.td c r.td))
  let op := vOp q
  { check := firstBad ((op ≤ 0xB && maskOk q, stOp) :: commonChecks q d ss)
    cost := 24 + passCost (tRows d) (tCols d) (stepSize d ss) (readRegions ss) [d] (rowSrcBytes ss)
      (if op = 8 ∨ op = 9 then 4 else 1)
    work := fun m =>
      let l := tCols d
      let (m, fl, _, ok) := walkRows s.mx c d (tRows d) (fun r => ss.flatMap (srcBlocks c l r))
        (fun m r (u : Unit) => do
          let cols ← mapF (m.srcVals c l r) ss
          let at_ (i k : Nat) : Val := (cols.getD i []).getD k (.zero false)
          let vs ← mapF (fun k => vopElem op (at_ 0 k) (at_ 1 k) (at_ 2 k)) (List.range l)
          pure (vs, u)) () m
      (m, fl, memStatus ok) }

/-! ## VFUNC (R138, R143, R144) -/

def vfMode (q : Block) : Nat := vOp q % 8
def vfSlot (q : Block) : Nat := vOp q / 16

def vfuncSrcs (q : Block) : List Src := if vfMode q = 3 then [srcAt q 0, srcAt q 1] else [srcAt q 0]

/-- Descriptors that VFUNC reads: only s0 in mode LOAD (R236). -/
def vfuncTds (q : Block) : List Nat :=
  if vfMode q = 0 then [vS0 q] else vD q :: srcTds (vfuncSrcs q)

/-- OP_BAD of VFUNC: a reserved mode, bit 3, or a reserved mask (R143, R237). -/
def vfuncOpOk (q : Block) : Bool := vfMode q ≤ 3 && !(vOp q).testBit 3 && maskOk q

/-- VFUNC in modes VALUE, DERIV and DERIV_MUL. -/
def vfuncPlan (c : Nat) (s : State) (q : Block) : VPlan :=
  let d := s.mem.td c (vD q)
  let ss : List SrcD := (vfuncSrcs q).map (fun r => (r, s.mem.td c r.td))
  let img : Option FuncImage := sget none (s.cl c).funcs (vfSlot q)
  { check := firstBad ((vfuncOpOk q, stOp) :: commonChecks q d ss ++ [(img.isSome, stFunc)])
    cost := 24 + passCost (tRows d) (tCols d) (stepSize d ss) (readRegions ss) [d] (rowSrcBytes ss)
      (ceilDiv (stepSize d ss) 256)
    work := fun m =>
      let l := tCols d
      let view := (img.getD { header := 0, value := [], deriv := [] }).view
      let (m, fl, _, ok) := walkRows s.mx c d (tRows d) (fun r => ss.flatMap (srcBlocks c l r))
        (fun m r (u : Unit) => do
          let cols ← mapF (m.srcVals c l r) ss
          let vs ← mapF (fun k => do
            let x := (cols.getD 0 []).getD k (.zero false)
            let y ← evalFunc view (vfMode q != 1) x
            if vfMode q = 3 then xMul y ((cols.getD 1 []).getD k (.zero false)) else pure y) (List.range l)
          pure (vs, u)) () m
      (m, fl, memStatus ok) }

/-- A function image read from memory at an address (R138). -/
def MemSt.image (m : MemSt) (a : Addr) : FuncImage :=
  let words (b : Addr) : List W32 := (List.range 1536).map (fun i => BitVec.ofNat 32 (m.peekNat (b + 4 * i) 4))
  { header := BitVec.ofNat 512 (m.peekNat a 64), value := words (a + 64), deriv := words (a + 6208) }

/-- Package numerics revision of the current catalogue copy (R19, R139). -/
def State.numerics (s : State) : BitVec 8 :=
  match (if s.panel.useB then s.panel.copyB else s.panel.copyA) with
  | some cat => cat.numerics
  | none => 0

/-- VFUNC in mode LOAD (R138, R139, R231): refused, or the slot becomes absent and the image is copied. An image that passes the check
and then meets an uncorrectable block leaves the slot absent, and the command ends at its 224 cycles (DESIGN CHOICE, log 96). -/
def loadStep (c : Nat) (q : QCmd) (s : State) : State :=
  let tds := [tdBlock c (vS0 q.cmd)]
  let s := s.onMem (fun m => m.touchAll s.mx tds)
  let s := s.onCl c (fun k => k.pop .vx)
  let d := s.mem.td c (vS0 q.cmd)
  let refuse (s : State) (st : BitVec 16) (cyc : Nat) : State := s.onCl c (fun k =>
    { k with vxDone := some { q := q, status := st, flags := 0, due := (s.cycle + cyc) * cycT } })
  if !s.mem.sound tds then refuse s stMem 24
  else
    let st := firstBad [(vfuncOpOk q.cmd, stOp),
      (vRsvOk q.cmd && tOwnOk d && tBase d % 64 == 0 && tBase d + 12352 ≤ carrelSize, stLayout)]
    if st != stOk then refuse s st 24
    else
      let a := carrelAt c (tBase d)
      let s := s.onMem (fun m => m.touchAll s.mx [a / 64])
      if !s.mem.sound [a / 64] then refuse s stMem 24
      else if !headerOk (BitVec.ofNat 512 (s.mem.blockNat (a / 64))) s.numerics then refuse s stFuncImage 24
      else
        let bs := blocksOf a 12352
        let s := s.onMem (fun m => m.touchAll s.mx bs)
        let s := s.onCl c (fun k => { k with funcs := sset none k.funcs (vfSlot q.cmd) none })
        if !s.mem.sound bs then refuse s stMem 224
        else
          let job : LoadJob := { q := q, slot := vfSlot q.cmd, img := s.mem.image a, due := (s.cycle + 224) * cycT }
          s.onCl c (fun k => { k with load := some job })

/-- VFUNC (R143): by its mode. -/
def vfuncStep (c : Nat) (s : State) : State :=
  match (s.cl c).head .vx 0x41 with
  | none => s
  | some q => if vfMode q.cmd = 0 then loadStep c q s else vecStep c 0x41 vfuncTds (vfuncPlan c) s

/-- FUNC_LOAD_RESIDENT (R138): the slot becomes resident in the cycle the LOAD completes. -/
def loadResident (c : Nat) (s : State) : State :=
  match (s.cl c).load with
  | none => s
  | some j =>
    (s.runTo j.due).onCl c (fun k => { k with
      load := none, funcs := sset none k.funcs j.slot (some j.img)
      vxDone := some { q := j.q, status := stOk, flags := 0, due := j.due } })

/-! ## VCONV (R137) -/

def vconvTds (q : Block) : List Nat := [vD q, vS0 q]

def vconvPlan (c : Nat) (s : State) (q : Block) : VPlan :=
  let d := s.mem.td c (vD q)
  let x : SrcD := (srcAs q 0 .vec, s.mem.td c (vS0 q))
  let rows := tRows d
  let l := tCols d
  let p := s.clPart c
  { check := firstBad [(vOp q == 0 && maskOk q, stOp),
      (shapeOk rows l && srcShapeOk rows l x, stShape),
      (tFmt d ≤ 8 && tFmt x.2 ≤ 8, stFormat),
      (vRsvOk q && ownRegionOk d rows l && srcLayoutOk rows l x && s.tableOk p d rows l && s.tableOk p x.2 rows l &&
        !srcClash d rows l x, stLayout),
      (tScaleOk d && tScaleOk x.2, stScale)]
    cost := 24 + passCost rows l (stepSize d [x]) [x.2] [d] 0 1
    work := fun m =>
      let (m, fl, _, ok) := walkRows s.mx c d rows (fun r => srcBlocks c l r x)
        (fun m r (u : Unit) => do
          let vs ← m.srcVals c l r x
          pure (vs, u)) () m
      (m, fl, memStatus ok) }

/-! ## Sums and statistics (R146, R147) -/

/-- One level of a tree: the first half combined with the second. -/
def treeLevel (f : Val → Val → NumM Val) (h : Nat) (vs : List Val) : NumM (List Val) :=
  mapF (fun (p : Val × Val) => f p.1 p.2) ((vs.take h).zip (vs.drop h))

/-- The fixed tree of R146 over 256 values. -/
def tree (f : Val → Val → NumM Val) (vs : List Val) : NumM Val := do
  let r ← foldF (fun l h => treeLevel f h l) vs [128, 64, 32, 16, 8, 4, 2, 1]
  pure (r.headD .nan)

/-- Pad a chunk to 256 values. -/
def padChunk (fill : Val) (vs : List Val) : List Val := vs ++ List.replicate (256 - vs.length) fill

def treeSum (vs : List Val) : NumM Val := tree fAdd (padChunk (.zero false) vs)
def treeMax (vs : List Val) : NumM Val := tree (fun a b => pure (vMax a b)) (padChunk (.inf true) vs)

/-- Chunks of 256 (R146). -/
def chunks (vs : List Val) : List (List Val) := (List.range (ceilDiv vs.length 256)).map (fun j => (vs.drop (256 * j)).take 256)

/-- a > b, neither NaN. -/
def vGt (a b : Val) : Bool := !vIsNan a && !vIsNan b && vLt b a

def isNegInf (v : Val) : Bool := v == .inf true

/-- A statistics record: a, b and the count n (R147). -/
structure Stat where
  a : Val
  b : Val
  n : Nat
  deriving DecidableEq, Repr

/-- SOFTMAX of one chunk: `z` holds z′, with −∞ at masked positions; `bad` says that an unmasked z′ is NaN. -/
def softmaxChunk (st : Stat) (z : List Val) (bad : Bool) : NumM Stat := do
  let mc ← treeMax z
  let sc ← (if isNegInf mc then pure (.zero false) else do
    let es ← mapF (fun v => if isNegInf v then pure (.zero false) else do fExp (← fSub v mc)) z
    treeSum es)
  let (m, s) ← (if vGt mc st.a then do
      let e ← fExp (← fSub st.a mc)
      let s ← fFma st.b e sc
      pure (mc, s)
    else if !isNegInf mc then do
      let e ← fExp (← fSub mc st.a)
      let s ← fFma sc e st.b
      pure (st.a, s)
    else pure (st.a, st.b))
  pure { a := m, b := if bad then .nan else s, n := st.n + z.length }

/-- MOMENTS of one chunk (R147). -/
def momentsChunk (st : Stat) (vs : List Val) : NumM Stat := do
  let nc := vs.length
  let muc ← fDiv (← treeSum vs) (vInt nc)
  let sq ← mapF (fun v => do
    let d ← fSub v muc
    fMul d d) vs
  let m2c ← treeSum sq
  if st.n = 0 then pure { a := muc, b := m2c, n := nc }
  else
    let d ← fSub muc st.a
    let w ← fDiv (vInt nc) (vInt (st.n + nc : Nat))
    let mu ← fFma d w st.a
    let dd ← fMul d d
    let nw ← fMul (vInt st.n) w
    let sum ← fAdd st.b m2c
    let m2 ← fFma dd nw sum
    pure { a := mu, b := m2, n := st.n + nc }

/-- MEANSQ and DOT of one chunk: the tree sum of rounded products is added (R147). -/
def dotChunk (st : Stat) (xs ys : List Val) : NumM Stat := do
  let ps ← mapF (fun (p : Val × Val) => fMul p.1 p.2) (xs.zip ys)
  let t ← treeSum ps
  let s ← fAdd st.a t
  pure { a := s, b := .zero false, n := st.n + xs.length }

/-- The statistics of a normalisation row: MOMENTS for LAYER, MEANSQ for RMS (R150). -/
def normStat (rms : Bool) (xs : List Val) : NumM Stat :=
  foldF (fun st ch => if rms then dotChunk st ch ch else momentsChunk st ch)
    { a := .zero false, b := .zero false, n := 0 } (chunks xs)

/-- Position k of row i is masked (R152). -/
def masked (q : Block) (i k : Nat) : Bool := vMask q == 1 && vQoff q + i < vKoff q + k

/-- z′ of a row with its NaN marks: masked positions hold −∞ and are not read (R147, R152). A NaN formed by τ·z sets nan_produced
(R149), and a NaN τ is a NaN read (R97; DEDUCED, log 96). -/
def zRow (q : Block) (i : Nat) (codes : List Nat) (fmt : Nat) : NumM (List Val) :=
  mapF (fun (p : Nat × Nat) => if masked q i p.1 then pure (.inf true) else do
    let z ← readCode fmt p.2
    let tau ← readCode 0 (vF0 q)
    let y ← fMul tau z
    setFIf (vIsNan y && !vIsNan z) fNanProd
    pure y) (codes.mapIdx (fun k z => (k, z)))

/-! ## VROWSTAT (R147) -/

def vrMode (q : Block) : Nat := vOp q % 4

def vrSrcs (q : Block) : List Src := if vrMode q = 3 then [srcAs q 0 .vec, srcAs q 1 .vec] else [srcAs q 0 .vec]
def vrTds (q : Block) : List Nat := vD q :: srcTds (vrSrcs q)

/-- The record array of `rows` records at a descriptor's base (R236). -/
def recordsOk (d : Block) (rows : Nat) : Bool := tOwnOk d && ownSpanOk (tBase d) 0 1 (16 * rows)

/-- The record a row starts from (R147): fresh, or the one found. -/
def MemSt.startStat (m : MemSt) (c : Nat) (q d : Block) (r : Nat) : NumM Stat :=
  if vCont q then do
    let a := carrelAt c (tBase d + 16 * r)
    let x ← readCode 0 (m.peekNat a 4)
    let y ← readCode 0 (m.peekNat (a + 4) 4)
    pure { a := x, b := y, n := m.peekNat (a + 8) 4 }
  else pure { a := if vrMode q = 0 then .inf true else .zero false, b := .zero false, n := 0 }

/-- One row of VROWSTAT (R147). -/
def MemSt.statRow (m : MemSt) (c : Nat) (q d : Block) (ss : List SrcD) (l r : Nat) : NumM Stat := do
  let st ← m.startStat c q d r
  let x := ss.headD (srcAs q 0 .vec, 0)
  match vrMode q with
  | 0 => do
    let codes := codesOf (m.rowNat c x.2 l r) (fmtWidth (tFmt x.2)) l
    let zs ← zRow q r codes (tFmt x.2)
    let marked := zs.mapIdx (fun k z => (masked q r k, z))
    foldF (fun st j =>
      let part := (marked.drop (256 * j)).take 256
      softmaxChunk st (part.map (fun p => p.2)) (part.any (fun p => !p.1 && vIsNan p.2))) st
      (List.range (ceilDiv l 256))
  | 1 => do
    let xs ← m.srcVals c l r x
    foldF momentsChunk st (chunks xs)
  | 2 => do
    let xs ← m.srcVals c l r x
    foldF (fun st ch => dotChunk st ch ch) st (chunks xs)
  | _ => do
    let xs ← m.srcVals c l r x
    let ys ← m.srcVals c l r (ss.getD 1 x)
    foldF (fun st p => dotChunk st p.1 p.2) st ((chunks xs).zip (chunks ys))

/-- The 16 bytes of a record (R147). -/
def Stat.bytes (st : Stat) : List Byte :=
  leBytes (code32 st.a).toNat 4 ++ leBytes (code32 st.b).toNat 4 ++ leBytes st.n 4 ++ leBytes 0 4

def vrowstatPlan (c : Nat) (s : State) (q : Block) : VPlan :=
  let d := s.mem.td c (vD q)
  let ss : List SrcD := (vrSrcs q).map (fun r => (r, s.mem.td c r.td))
  let x := s.mem.td c (vS0 q)
  let rows := tRows x
  let l := tCols x
  let recs : List Strided := [{ base := tBase d, pitch := 0, rows := 1, len := 16 * rows }]
  { check := firstBad [(vOp q ≤ 3 && maskOk q, stOp),
      (shapeOk rows l && ss.all (srcShapeOk rows l), stShape),
      (ss.all srcFormatOk, stFormat),
      (vRsvOk q && recordsOk d rows && ss.all (srcLayoutOk rows l) &&
        !ss.any (fun r => arraysMeet (srcArrays rows l r) recs), stLayout)]
    cost := 24 + passCost rows l 256 (readRegions ss) [] (if vCont q then 64 else 0) 1
    work := fun m =>
      let reads (r : Nat) : List Nat := ss.flatMap (srcBlocks c l r) ++
        (if vCont q then blocksOf (carrelAt c (tBase d + 16 * r)) 16 else [])
      let (m, fl, ok) := rowLoop s.mx reads (fun m r fl =>
        let (st, fl) := (m.statRow c q d ss l r).run fl
        (m.write s.mx (ownerOf c .vx) (carrelAt c (tBase d + 16 * r)) st.bytes, fl)) rows 0 m (0 : Flags)
      (m, fl, memStatus ok) }

/-! ## Normalisation (R150, R151) -/

/-- FP8 results are formed in FP32 first; the others are rounded once, directly (R150, R151). -/
def lastOp (d : Block) (v : Val) : NumM Val := if tFmt d == 3 || tFmt d == 4 then r32 v else pure v

/-- Result formats of the normalisation and softmax commands: FP32, FP16, BF16, E4M3, E5M2. -/
def rowFormat (f : Nat) : Bool := f ≤ 4

/-- r of R150. -/
def normScale (rms : Bool) (eps : Nat) (st : Stat) : NumM Val := do
  let eps ← readCode 0 eps
  let v ← fDiv (if rms then st.a else st.b) (vInt st.n)
  fRsqrt (← fAdd v eps)

/-- x̂ of R150. -/
def normHat (rms : Bool) (st : Stat) (r x : Val) : NumM Val := do
  if rms then fMul x r else fMul (← fSub x st.a) r

def vnfSrcs (q : Block) : List Src :=
  [srcAs q 0 .vec, srcAs q 1 .col] ++ (if vOpt q && vOp q % 2 = 0 then [srcAs q 2 .col] else [])
def vnfTds (q : Block) : List Nat := vD q :: srcTds (vnfSrcs q)

def vnormFwdPlan (c : Nat) (s : State) (q : Block) : VPlan :=
  let d := s.mem.td c (vD q)
  let ss : List SrcD := (vnfSrcs q).map (fun r => (r, s.mem.td c r.td))
  let x : SrcD := (srcAs q 0 .vec, s.mem.td c (vS0 q))
  let rows := tRows d
  let l := tCols d
  let rms := vOp q == 1
  { check := firstBad [(vOp q ≤ 1 && maskOk q, stOp),
      (shapeOk rows l && ss.all (srcShapeOk rows l), stShape),
      (rowFormat (tFmt d) && ss.all srcFormatOk, stFormat),
      (vRsvOk q && ownRegionOk d rows l && s.tableOk (s.clPart c) d rows l && ss.all (srcLayoutOk rows l) &&
        !ss.any (srcClash d rows l), stLayout),
      (tScaleOk d, stScale)]
    cost := 24 + passCost rows l (stepSize d ss) [x.2] [] 0 1 +
      passCost rows l (stepSize d ss) (readRegions ss) [d] 0 1
    work := fun m =>
      let (m, fl, _, ok) := walkRows s.mx c d rows (fun r => ss.flatMap (srcBlocks c l r))
        (fun m r (u : Unit) => do
          let cols ← mapF (m.srcVals c l r) ss
          let xs := cols.getD 0 []
          let st ← normStat rms xs
          let rr ← normScale rms (vF0 q) st
          let vs ← mapF (fun (p : Nat × Val) => do
            let xh ← normHat rms st rr p.2
            let g := (cols.getD 1 []).getD p.1 (.zero false)
            let y ← (match cols[2]? with
              | some bs => xFma xh g (bs.getD p.1 (.zero false))
              | none => xMul xh g)
            lastOp d y) (xs.mapIdx (fun i v => (i, v)))
          pure (vs, u)) () m
      (m, fl, memStatus ok) }

def vnbSrcs (q : Block) : List Src := [srcAs q 0 .vec, srcAs q 1 .vec, srcAs q 2 .col]

/-- The partial rows: dγ, and dβ in mode LAYER (R151, R236). -/
def vnbParts (q : Block) : List Nat := if vOp q % 2 = 0 then [vE0 q, vE1 q] else [vE0 q]
def vnbTds (q : Block) : List Nat := vD q :: srcTds (vnbSrcs q) ++ vnbParts q

/-- One row of VNORM_BWD: dx, and the terms of dγ and dβ (R151). -/
def normBack (rms : Bool) (d : Block) (eps : Nat) (xs gs gam : List Val) : NumM (List Val × List Val) := do
  let st ← normStat rms xs
  let rr ← normScale rms eps st
  let hs ← mapF (fun (p : Val × Val) => fMul p.1 p.2) (gs.zip gam)
  let xh ← mapF (normHat rms st rr) xs
  let hx ← mapF (fun (p : Val × Val) => fMul p.1 p.2) (hs.zip xh)
  let a1 ← foldF (fun a ch => do fAdd a (← treeSum ch)) (.zero false) (chunks hs)
  let a2 ← foldF (fun a ch => do fAdd a (← treeSum ch)) (.zero false) (chunks hx)
  let a1 ← fDiv a1 (vInt st.n)
  let a2 ← fDiv a2 (vInt st.n)
  let dx ← mapF (fun (p : Val × Val) => do
    let u ← (if rms then pure p.1 else fSub p.1 a1)
    let w ← fMul p.2 a2
    let y ← xMul rr (← fSub u w)
    lastOp d y) (hs.zip xh)
  let gx ← mapF (fun (p : Val × Val) => fMul p.1 p.2) (gs.zip xh)
  pure (dx, gx)

def vnormBwdPlan (c : Nat) (s : State) (q : Block) : VPlan :=
  let d := s.mem.td c (vD q)
  let ss : List SrcD := (vnbSrcs q).map (fun r => (r, s.mem.td c r.td))
  let parts := (vnbParts q).map (fun t => s.mem.td c t)
  let rows := tRows d
  let l := tCols d
  let rms := vOp q == 1
  let partArrays := parts.flatMap (fun e => regionArrays e 1 l)
  { check := firstBad [(vOp q ≤ 1 && maskOk q, stOp),
      (shapeOk rows l && ss.all (srcShapeOk rows l), stShape),
      (rowFormat (tFmt d) && ss.all srcFormatOk && parts.all (fun e => tFmt e == 0), stFormat),
      (vRsvOk q && ownRegionOk d rows l && s.tableOk (s.clPart c) d rows l && ss.all (srcLayoutOk rows l) &&
        parts.all (fun e => ownRegionOk e 1 l) && !ss.any (srcClash d rows l) &&
        !ss.any (fun x => arraysMeet (srcArrays rows l x) partArrays), stLayout),
      (tScaleOk d, stScale)]
    cost := 24 + passCost rows l (stepSize d ss) [s.mem.td c (vS0 q)] [] 0 1 +
      passCost rows l (stepSize d ss) (readRegions ss) [] 0 1 +
      passCost rows l (stepSize d ss) (readRegions ss ++ parts) (d :: parts) 0 1
    work := fun m =>
      let pblocks := parts.flatMap (fun e => blocksOf (carrelAt c (tBase e)) (4 * l))
      let m := if vOpt q then m.touchAll s.mx pblocks else m
      if vOpt q && !m.sound pblocks then (m, 0, stMem)
      else
        let (start, fl0) := (if vOpt q then
            mapF (fun e => mapF (readCode 0) (codesOf (m.rowNat c e l 0) 32 l)) parts
          else pure (parts.map (fun _ => List.replicate l (.zero false)))).run 0
        let (m, fl, sums, ok) := walkRows s.mx c d rows (fun r => ss.flatMap (srcBlocks c l r))
          (fun m r (ps : List (List Val)) => do
            let cols ← mapF (m.srcVals c l r) ss
            let gs := cols.getD 1 []
            let (dx, gx) ← normBack rms d (vF0 q) (cols.getD 0 []) gs (cols.getD 2 [])
            let ps' ← mapF (fun (p : Nat × List Val) =>
              mapF (fun (x : Val × Val) => fAdd x.1 x.2) (p.2.zip (if p.1 = 0 then gx else gs)))
              (ps.mapIdx (fun i v => (i, v)))
            pure (dx, ps')) start m
        let m := (parts.zip sums).foldl (fun m p =>
          m.write s.mx (ownerOf c .vx) (carrelAt c (tBase p.1)) (p.2.flatMap (fun v => leBytes (code32 v).toNat 4))) m
        (m, fl ||| fl0, memStatus ok) }

/-! ## Softmax (R152 to R154) -/

def vsfTds (q : Block) : List Nat := [vD q, vS0 q, vS1 q]

def vsoftmaxFwdPlan (c : Nat) (s : State) (q : Block) : VPlan :=
  let d := s.mem.td c (vD q)
  let z : SrcD := (srcAs q 0 .vec, s.mem.td c (vS0 q))
  let recs := s.mem.td c (vS1 q)
  let rows := tRows d
  let l := tCols d
  { check := firstBad [(vOp q == 0 && maskOk q, stOp),
      (shapeOk rows l && srcShapeOk rows l z, stShape),
      (rowFormat (tFmt d) && srcFormatOk z, stFormat),
      (vRsvOk q && ownRegionOk d rows l && s.tableOk (s.clPart c) d rows l && srcLayoutOk rows l z &&
        recordsOk recs rows && !srcClash d rows l z, stLayout),
      (tScaleOk d, stScale)]
    cost := 24 + passCost rows l (stepSize d [z]) [z.2] [d] 64 1
    work := fun m =>
      let (m, fl, _, ok) := walkRows s.mx c d rows
        (fun r => srcBlocks c l r z ++ blocksOf (carrelAt c (tBase recs + 16 * r)) 16)
        (fun m r (u : Unit) => do
          let a := carrelAt c (tBase recs + 16 * r)
          if m.peekNat (a + 4) 4 = 0 then pure (List.replicate l (.zero false), u)
          else
            let mx ← readCode 0 (m.peekNat a 4)
            let sum ← readCode 0 (m.peekNat (a + 4) 4)
            let rs ← fDiv vOne sum
            let zs ← zRow q r (codesOf (m.rowNat c z.2 l r) (fmtWidth (tFmt z.2)) l) (tFmt z.2)
            let vs ← mapF (fun (p : Nat × Val) => if masked q r p.1 then pure (.zero false) else do
              let e ← fExp (← fSub p.2 mx)
              xMul e rs) (zs.mapIdx (fun k v => (k, v)))
            pure (vs, u)) () m
      (m, fl, memStatus ok) }

def vsbSrcs (q : Block) : List Src := [srcAs q 0 .vec, srcAs q 1 .vec, srcAs q 2 .row]
def vsbTds (q : Block) : List Nat := vD q :: srcTds (vsbSrcs q)

def vsoftmaxBwdPlan (c : Nat) (s : State) (q : Block) : VPlan :=
  let d := s.mem.td c (vD q)
  let ss : List SrcD := (vsbSrcs q).map (fun r => (r, s.mem.td c r.td))
  let rows := tRows d
  let l := tCols d
  { check := firstBad [(vOp q == 0 && maskOk q, stOp),
      (shapeOk rows l && ss.all (srcShapeOk rows l), stShape),
      (rowFormat (tFmt d) && ss.all srcFormatOk, stFormat),
      (vRsvOk q && ownRegionOk d rows l && s.tableOk (s.clPart c) d rows l && ss.all (srcLayoutOk rows l) &&
        !ss.any (srcClash d rows l), stLayout),
      (tScaleOk d, stScale)]
    cost := 24 + passCost rows l (stepSize d ss) (readRegions ss) [d] (rowSrcBytes ss) 1
    work := fun m =>
      let (m, fl, _, ok) := walkRows s.mx c d rows (fun r => ss.flatMap (srcBlocks c l r))
        (fun m r (u : Unit) => do
          let code (i k : Nat) : Nat :=
            let t := s.mem.td c (if i = 0 then vS0 q else vS1 q)
            nfld (m.rowNat c t l r) (fmtWidth (tFmt t) * k) (fmtWidth (tFmt t))
          let dv ← readCode 0 (m.peekNat (carrelAt c (tBase (s.mem.td c (vS2 q)) + 4 * r)) 4)
          let vs ← mapF (fun k => if masked q r k then pure (.zero false) else do
            let p ← readCode (tFmt (s.mem.td c (vS0 q))) (code 0 k)
            let dp ← readCode (tFmt (s.mem.td c (vS1 q))) (code 1 k)
            let tau ← readCode 0 (vF0 q)
            xMul3 p (← fSub dp dv) tau) (List.range l)
          pure (vs, u)) () m
      (m, fl, memStatus ok) }

/-! ## The meanings -/

def execVop (c : ClusterId) (s : State) : Host.Outcome State Fault Refusal :=
  .next (s.coreFrame (vecStep c.val 0x40 vopTds (vopPlan c.val) s).settle)

def execVfunc (c : ClusterId) (s : State) : Host.Outcome State Fault Refusal :=
  .next (s.coreFrame (vfuncStep c.val s).settle)

def execFuncLoadResident (c : ClusterId) (s : State) : Host.Outcome State Fault Refusal :=
  .next (s.coreFrame (loadResident c.val s))

def execVrowstat (c : ClusterId) (s : State) : Host.Outcome State Fault Refusal :=
  .next (s.coreFrame (vecStep c.val 0x42 vrTds (vrowstatPlan c.val) s).settle)

def execVnormFwd (c : ClusterId) (s : State) : Host.Outcome State Fault Refusal :=
  .next (s.coreFrame (vecStep c.val 0x43 vnfTds (vnormFwdPlan c.val) s).settle)

def execVnormBwd (c : ClusterId) (s : State) : Host.Outcome State Fault Refusal :=
  .next (s.coreFrame (vecStep c.val 0x44 vnbTds (vnormBwdPlan c.val) s).settle)

def execVsoftmaxFwd (c : ClusterId) (s : State) : Host.Outcome State Fault Refusal :=
  .next (s.coreFrame (vecStep c.val 0x45 vsfTds (vsoftmaxFwdPlan c.val) s).settle)

def execVsoftmaxBwd (c : ClusterId) (s : State) : Host.Outcome State Fault Refusal :=
  .next (s.coreFrame (vecStep c.val 0x46 vsbTds (vsoftmaxBwdPlan c.val) s).settle)

def execVconv (c : ClusterId) (s : State) : Host.Outcome State Fault Refusal :=
  .next (s.coreFrame (vecStep c.val 0x47 vconvTds (vconvPlan c.val) s).settle)

end Sys2Proof.Machine
end

