-- ==== Sys2Proof/Machine/Copy.lean ====
section
/-!
DEFINITION. The copy engine (R238 to R243, R257 to R269): COPY, COPY2D, COPYT, REBLOCK, GATHER and SCATTER.
-/
namespace Sys2Proof.Machine

/-! ## Operand words (R239, R240) -/

def cSrc (q : Block) : Addr := addrPair q 5
def cDst (q : Block) : Addr := addrPair q 7
def cSize0 (q : Block) : Nat := cmdWord q 9
def cSize1 (q : Block) : Nat := cmdWord q 10
def cSrcPitch (q : Block) : Nat := cmdWord q 11
def cDstPitch (q : Block) : Nat := cmdWord q 12
def cIdx (q : Block) : Nat := wfld q 13 0 16
def cRetain (q : Block) : Bool := wfld q 13 16 1 == 1
def cEsize (q : Block) : Nat := wfld q 13 18 2
def cRetainDst (q : Block) : Addr := addrPair q 14

/-- Reserved fields of the operand words (R228, R238, R241): the high halves of the address pairs in use, the
reserved bits of W13, and esize 3. -/
def cRsvOk (q : Block) (retain : Bool) : Bool :=
  addrPairOk q 5 && addrPairOk q 7 && wfld q 13 17 1 == 0 && wfld q 13 20 12 == 0 && cEsize q != 3 &&
  (!retain || addrPairOk q 14)

/-- A row to move: where its bytes come from, where they go, and how many. -/
structure CopyRow where
  src : Addr
  dst : List Addr
  len : Nat
  deriving DecidableEq, Repr

/-- Some row of one list shares a byte with some row of another; the extents are compared first. -/
def rowsMeet (a b : List (Nat × Nat)) : Bool :=
  let lo (l : List (Nat × Nat)) := (l.map (fun r => r.1)).foldl Nat.min (2 ^ 48)
  let hi (l : List (Nat × Nat)) := (l.map (fun r => r.1 + r.2)).foldl Nat.max 0
  overlap (lo a) (hi a - lo a) (lo b) (hi b - lo b) && spansMeet a b

/-- Bytes at the head of a row that its source supplies: all of them, or those before the first bad block
(R242). -/
def MemSt.supplied (m : MemSt) (a n : Nat) : Nat :=
  match (blocksOf a n).find? m.poisoned with
  | some b => 64 * b - a
  | none => n

/-- Move one row (R242, R259): what the source supplies is written to each destination; false says that the source
met an uncorrectable block. -/
def MemSt.moveRow (m : MemSt) (x : MemX) (owner : Nat) (r : CopyRow) : MemSt × Bool :=
  let m := m.touchAll x (blocksOf r.src r.len)
  let n := m.supplied r.src r.len
  let bs := m.peek r.src n
  (r.dst.foldl (fun m d => m.write x owner d bs) m, n == r.len)

/-- Move rows in order, stopping after one whose source is bad (R242). -/
def MemSt.moveRows (m : MemSt) (x : MemX) (owner : Nat) : List CopyRow → MemSt × Bool
  | [] => (m, true)
  | r :: t =>
    let (m, ok) := m.moveRow x owner r
    if ok then m.moveRows x owner t else (m, false)

/-- Latency in cycles of the last access to the store of an address (R243). -/
def storeLatency (a : Addr) : Nat := if a < hbmEnd then ceilDiv (1000 * nsT) cycT else ceilDiv (110 * nsT) cycT

/-- What a copy command does: its check, its cost in cycles, and its work. -/
abbrev CPlan := VPlan

/-- The copy command with opcode `op` at the head of the copy queue (R241, R243, R505): `tds` are the descriptors
that REBLOCK reads first (R231). -/
def copyStep (c op : Nat) (tds : Block → List Nat) (plan : State → Block → CPlan) (s : State) : State :=
  match (s.cl c).head .cx op with
  | none => s
  | some q =>
    let bs := (tds q.cmd).map (tdBlock c)
    let s := s.onMem (fun m => m.touchAll s.mx bs)
    let s := s.onCl c (fun k => k.pop .cx)
    let p := plan s q.cmd
    let st := if s.mem.sound bs then p.check else stMem
    let (m, fl, st') := if st = stOk then p.work s.mem else (s.mem, 0, st)
    let due := (s.cycle + (if st = stOk then p.cost else 32)) * cycT
    ({ s with mem := m }).onCl c (fun k =>
      { k with cxDone := some { q := q, status := st', flags := fl, due := due } })

/-- A command that moves a fixed list of rows. -/
def rowPlan (c : Nat) (s : State) (shape layout : Bool) (rows : List CopyRow) (cost : Nat) : CPlan :=
  let p := s.clPart c
  { check := firstBad [(shape, stShape),
      (layout && !rowsMeet (rows.map (fun r => (r.src, r.len))) (rows.flatMap (fun r => r.dst.map (fun d => (d, r.len)))),
        stLayout),
      (rows.all (fun r => s.rangeOk p r.src r.len && r.dst.all (fun d => s.rangeOk p d r.len)), stAddr)]
    cost := cost
    work := fun m =>
      let (m, ok) := m.moveRows s.mx (ownerOf c .cx) rows
      (m, 0, memStatus ok) }

/-- COPY (R239). -/
def copyPlan (c : Nat) (s : State) (q : Block) : CPlan :=
  let n := cSize0 q
  rowPlan c s (1 ≤ n) (cRsvOk q false && cSize1 q == 0 && cSrcPitch q == 0 && cDstPitch q == 0)
    [{ src := cSrc q, dst := [cDst q], len := n }]
    (32 + ceilDiv n 512 + storeLatency (cSrc q) + storeLatency (cDst q))

/-- Sizes of a command of rows: 1 to 2^24 bytes, 1 to 65,536 rows (R239). -/
def rowShapeOk (q : Block) : Bool :=
  1 ≤ cSize0 q && cSize0 q ≤ 0x1000000 && 1 ≤ cSize1 q && cSize1 q ≤ 65536

/-- Cost of a command of rows (R243). -/
def rowCost (q : Block) (copies : Nat) : Nat :=
  32 + ceilDiv (copies * cSize0 q * cSize1 q) 512 + cSize1 q + storeLatency (cSrc q) + storeLatency (cDst q)

/-- COPY2D (R239). -/
def copy2dPlan (c : Nat) (s : State) (q : Block) : CPlan :=
  rowPlan c s (rowShapeOk q) (cRsvOk q false && cSize0 q ≤ cDstPitch q)
    ((List.range (if rowShapeOk q then cSize1 q else 0)).map (fun i =>
      { src := cSrc q + i * cSrcPitch q, dst := [cDst q + i * cDstPitch q], len := cSize0 q }))
    (rowCost q 1)

/-! ## COPYT (R261) -/

/-- Element bytes of COPYT. -/
def ctElem (q : Block) : Nat := 2 ^ cEsize q

/-- The elements of one destination row as far as the source supplies them: (bytes, whole). -/
def MemSt.gatherCol (m : MemSt) (x : MemX) (src pitch e : Nat) : Nat → Nat → MemSt × List Byte × Bool
  | 0, _ => (m, [], true)
  | n + 1, r =>
    let a := src + r * pitch
    let bs := blocksOf a e
    let m := m.touchAll x bs
    if m.sound bs then
      let here := m.peek a e
      let (m, rest, ok) := m.gatherCol x src pitch e n (r + 1)
      (m, here ++ rest, ok)
    else (m, [], false)

/-- The destination rows of COPYT in increasing order (R242). -/
def MemSt.transposeRows (m : MemSt) (x : MemX) (owner : Nat) (q : Block) : Nat → Nat → MemSt × Bool
  | 0, _ => (m, true)
  | n + 1, col =>
    let (m, bs, ok) := m.gatherCol x (cSrc q + col * ctElem q) (cSrcPitch q) (ctElem q) (cSize0 q) 0
    let m := m.write x owner (cDst q + col * cDstPitch q) bs
    if ok then m.transposeRows x owner q n (col + 1) else (m, false)

def copytPlan (c : Nat) (s : State) (q : Block) : CPlan :=
  let shape := 1 ≤ cSize0 q && cSize0 q ≤ 65536 && 1 ≤ cSize1 q && cSize1 q ≤ 65536
  let e := ctElem q
  let srcs := (List.range (if shape then cSize0 q else 0)).map (fun r => (cSrc q + r * cSrcPitch q, cSize1 q * e))
  let dsts := (List.range (if shape then cSize1 q else 0)).map (fun i => (cDst q + i * cDstPitch q, cSize0 q * e))
  let p := s.clPart c
  { check := firstBad [(shape, stShape),
      (cRsvOk q false && cSize0 q * e ≤ cDstPitch q && !rowsMeet srcs dsts, stLayout),
      ((srcs ++ dsts).all (fun r => s.rangeOk p r.1 r.2), stAddr)]
    cost := 32 + ceilDiv (cSize0 q * cSize1 q * e) 256 + storeLatency (cSrc q) + storeLatency (cDst q)
    work := fun m =>
      let (m, ok) := m.transposeRows s.mx (ownerOf c .cx) q (cSize1 q) 0
      (m, 0, memStatus ok) }

/-! ## GATHER and SCATTER (R241, R242, R267) -/

/-- Extent of the index list within the carrel (R241). -/
def idxOk (q : Block) : Bool := 64 * cIdx q + 4 * cSize1 q ≤ carrelSize

/-- The bytes of the index list, which the command reads (R241). -/
def idxSpan (c : Nat) (q : Block) : Nat × Nat := (carrelAt c (64 * cIdx q), 4 * cSize1 q)

/-- What one indexed row needs: its index entry, then its row and the spans it must not meet. -/
structure IndexedRow where
  row   : CopyRow
  side  : Addr
  avoid : List (Nat × Nat)

/-- Indexed rows in order (R241, R242): each row's index is read when the row is reached. -/
def indexLoop (s : State) (c p : Nat) (q : Block) (mk : Nat → Nat → IndexedRow) :
    Nat → Nat → MemSt → MemSt × BitVec 16
  | 0, _, m => (m, stOk)
  | n + 1, i, m =>
    let a := carrelAt c (64 * cIdx q) + 4 * i
    let m := m.touchAll s.mx [a / 64]
    if !m.sound [a / 64] then (m, stMem)
    else
      let r := mk i (m.peekNat a 4)
      if !s.rangeOk p r.side r.row.len then (m, stAddr)
      else if spansMeet [(r.side, r.row.len)] r.avoid then (m, stLayout)
      else
        let (m, ok) := m.moveRow s.mx (ownerOf c .cx) r.row
        if ok then indexLoop s c p q mk n (i + 1) m else (m, stMem)

def gatherPlan (c : Nat) (s : State) (q : Block) : CPlan :=
  let n := if rowShapeOk q then cSize1 q else 0
  let dsts := (List.range n).map (fun i => (cDst q + i * cDstPitch q, cSize0 q))
  let keep := if cRetain q then [(cRetainDst q, n * cSize0 q)] else []
  let p := s.clPart c
  { check := firstBad [(rowShapeOk q, stShape),
      (cRsvOk q (cRetain q) && (cSize0 q ≤ cDstPitch q || cDstPitch q == 0) && idxOk q && !rowsMeet dsts keep &&
        !rowsMeet [idxSpan c q] (dsts ++ keep), stLayout),
      ((dsts ++ keep).all (fun r => s.rangeOk p r.1 r.2), stAddr)]
    cost := rowCost q (if cRetain q then 2 else 1)
    work := fun m =>
      let (m, st) := indexLoop s c p q (fun i idx =>
        { row := { src := cSrc q + idx * cSrcPitch q
                   dst := (cDst q + i * cDstPitch q) ::
                     (if cRetain q then [cRetainDst q + i * cSize0 q] else [])
                   len := cSize0 q }
          side := cSrc q + idx * cSrcPitch q
          avoid := dsts ++ keep }) n 0 m
      (m, 0, st) }

def scatterPlan (c : Nat) (s : State) (q : Block) : CPlan :=
  let n := if rowShapeOk q then cSize1 q else 0
  let srcs := (List.range n).map (fun i => (cSrc q + i * cSrcPitch q, cSize0 q))
  let p := s.clPart c
  { check := firstBad [(rowShapeOk q, stShape),
      (cRsvOk q false && cSize0 q ≤ cDstPitch q && idxOk q, stLayout),
      (srcs.all (fun r => s.rangeOk p r.1 r.2), stAddr)]
    cost := rowCost q 1
    work := fun m =>
      let (m, st) := indexLoop s c p q (fun i idx =>
        { row := { src := cSrc q + i * cSrcPitch q, dst := [cDst q + idx * cDstPitch q], len := cSize0 q }
          side := cDst q + idx * cDstPitch q
          avoid := idxSpan c q :: srcs }) n 0 m
      (m, 0, st) }

/-! ## REBLOCK (R240, R263 to R266) -/

def rbDst (q : Block) : Nat := wfld q 5 0 16
def rbSrc (q : Block) : Nat := wfld q 5 16 16
def rbTranspose (q : Block) : Bool := wfld q 6 0 1 == 1

/-- Reserved words of REBLOCK (R240). -/
def rbRsvOk (q : Block) : Bool := nfld q.toNat (32 * 6 + 1) (512 - 193) == 0

/-- Package address that a descriptor field of REBLOCK names, by the descriptor's space (R229, R240). -/
def spaceAddr (c : Nat) (d : Block) (a : Addr) : Addr := if tSpace d then a else carrelAt c a

/-- A space-0 region stays in the own carrel (log 21). -/
def rbInside (d : Block) (base rows pitch len : Nat) : Bool :=
  tSpace d || (base < carrelSize && base + spanBytes rows pitch len ≤ carrelSize)

/-- Package address of source element (r, col). -/
def rbElem (c : Nat) (d : Block) (r col : Nat) : Addr :=
  spaceAddr c d (tBase d) + r * tPitch d + col * (fmtWidth (tFmt d) / 8)

/-- Source elements of block `j` of result row `row` (R263). -/
def rbSources (q : Block) (d : Block) (row j : Nat) : List (Nat × Nat) :=
  if rbTranspose q then (List.range (min 32 (tRows d - 32 * j))).map (fun i => (32 * j + i, row))
  else (List.range (min 32 (tCols d - 32 * j))).map (fun i => (row, 32 * j + i))

/-- Result blocks in order (R266): each is written after every source element of it has been read. -/
def rbLoop (s : State) (c : Nat) (q src dst : Block) : List (Nat × Nat) → MemSt → Flags → MemSt × Flags × Bool
  | [], m, fl => (m, fl, true)
  | (row, j) :: t, m, fl =>
    let w := fmtWidth (tFmt src) / 8
    let els := (rbSources q src row j).map (fun p => rbElem c src p.1 p.2)
    let bs := els.flatMap (fun a => blocksOf a w)
    let m := m.touchAll s.mx bs
    if !m.sound bs then (m, fl, false)
    else
      let work : NumM OutBlock := do
        let vs ← mapF (fun a => readCode (tFmt src) (m.peekNat a w)) els
        convBlock (tFmt dst) (tIncl dst) (tScale dst) (vs ++ List.replicate (32 - vs.length) (.zero false))
      let (o, fl) := work.run fl
      let ew := fmtWidth (tFmt dst)
      let b := bezelBytes (tIncl dst)
      let m := m.write s.mx (ownerOf c .cx) (spaceAddr c dst (tBase dst) + row * tPitch dst + j * 4 * ew)
        (leBytes (packCodes ew o.codes) (4 * ew))
      let m := m.write s.mx (ownerOf c .cx) (spaceAddr c dst (tBezBase dst) + row * tBezPitch dst + j * b)
        (leBytes o.bezel b)
      rbLoop s c q src dst t m fl

def reblockPlan (c : Nat) (s : State) (q : Block) : CPlan :=
  let dst := s.mem.td c (rbDst q)
  let src := s.mem.td c (rbSrc q)
  let r := tRows src
  let l := tCols src
  let t := rbTranspose q
  let n := if t then l else r      -- result rows
  let len := if t then r else l    -- result row length
  let shape := 1 ≤ r && r ≤ 65536 && 1 ≤ l && l ≤ 65536 && tRows dst == n && tCols dst == len
  let p := s.clPart c
  let w := fmtWidth (tFmt src) / 8
  let srcs := (List.range (if shape then r else 0)).map (fun i => (rbElem c src i 0, l * w))
  let dsts := (List.range (if shape then n else 0)).flatMap (fun i =>
    [(spaceAddr c dst (tBase dst) + i * tPitch dst, rowBytes (tFmt dst) len),
     (spaceAddr c dst (tBezBase dst) + i * tBezPitch dst, bezelRow (tIncl dst) len)])
  { check := firstBad [(shape, stShape),
      (wide (tFmt src) && fmtBlocked (tFmt dst), stFormat),
      (rbRsvOk q && tRsvOk src && tRsvOk dst && blockedOk dst len &&
        rbInside src (tBase src) r (tPitch src) (l * w) &&
        rbInside dst (tBase dst) n (tPitch dst) (rowBytes (tFmt dst) len) &&
        rbInside dst (tBezBase dst) n (tBezPitch dst) (bezelRow (tIncl dst) len) && !rowsMeet srcs dsts, stLayout),
      (scaleOk (tScale dst), stScale),
      ((srcs ++ dsts).all (fun x => s.rangeOk p x.1 x.2), stAddr)]
    cost := 32 + ceilDiv (r * l * w) 256 + storeLatency (spaceAddr c src (tBase src)) +
      storeLatency (spaceAddr c dst (tBase dst))
    work := fun m =>
      let order := (List.range n).flatMap (fun row => (List.range (lp len / 32)).map (fun j => (row, j)))
      let (m, fl, ok) := rbLoop s c q src dst order m 0
      (m, fl, memStatus ok) }

/-! ## The meanings -/

def execCopy (c : ClusterId) (s : State) : Host.Outcome State Fault Refusal :=
  .next (s.coreFrame (copyStep c.val 0x80 (fun _ => []) (copyPlan c.val) s).settle)

def execCopy2d (c : ClusterId) (s : State) : Host.Outcome State Fault Refusal :=
  .next (s.coreFrame (copyStep c.val 0x81 (fun _ => []) (copy2dPlan c.val) s).settle)

def execCopyt (c : ClusterId) (s : State) : Host.Outcome State Fault Refusal :=
  .next (s.coreFrame (copyStep c.val 0x82 (fun _ => []) (copytPlan c.val) s).settle)

def execReblock (c : ClusterId) (s : State) : Host.Outcome State Fault Refusal :=
  .next (s.coreFrame (copyStep c.val 0x83 (fun q => [rbDst q, rbSrc q]) (reblockPlan c.val) s).settle)

def execGather (c : ClusterId) (s : State) : Host.Outcome State Fault Refusal :=
  .next (s.coreFrame (copyStep c.val 0x84 (fun _ => []) (gatherPlan c.val) s).settle)

def execScatter (c : ClusterId) (s : State) : Host.Outcome State Fault Refusal :=
  .next (s.coreFrame (copyStep c.val 0x85 (fun _ => []) (scatterPlan c.val) s).settle)

end Sys2Proof.Machine
end

