-- ==== Sys2Proof/Machine/MemoryRows.lean ====
section
/-!
DEFINITION. What the stores do by themselves: the aged commit of a merge entry (R279), the scrubbers (R281, R282, R286), and
the request that a controller may pass no longer (R69).
-/
namespace Sys2Proof.Machine

/-- MERGE_COMMIT (R279): 128 ns have passed since the entry opened. -/
def mergeCommitStep (block : Addr) (s : State) : State :=
  match s.mem.merge.find? (fun e => e.block == block) with
  | none => s
  | some e =>
    let s := s.runTo (e.since + mergeAge)
    s.onMem (fun m => m.commitOut s.mx e)

/-! ## Row scrubbing of SRAM (R281) -/

/-- Ten milliseconds on the model clock, and the rows of a bank. -/
def passT : Nat := 10000000 * nsT
def bankRows : Nat := 2048

/-- Number of a scrubbed bank among all. -/
def sramBankNo (st : SramStore) (bank : Nat) : Nat :=
  match st with
  | .carrel c => 32 * c.val + bank
  | .ledger h => 512 * 32 + 512 * h.val + bank

/-- Package address of a row of a bank (R57, R101). -/
def sramRowAt (st : SramStore) (bank row : Nat) : Addr :=
  match st with
  | .carrel c => carrelAt c.val (64 * (32 * row + bank))
  | .ledger h => ledgerBase + h.val * ledgerSize + 64 * (512 * row + bank)

/-- Quadrant of a scrubbed SRAM. -/
def sramQuad : SramStore → Nat
  | .carrel c => clusterQuad c.val
  | .ledger h => h.val

/-- The SRAM is in service: its quadrant is not in reset, and a carrel's slot is mapped (R36, R283). -/
def State.sramOn (s : State) : SramStore → Bool
  | .carrel c => !s.inReset (clusterQuad c.val) && s.slotMapped (clusterSlot c.val)
  | .ledger h => !s.inReset h.val

/-- CARREL_SCRUB_ROW (R281): the next row of a bank, when it falls due; a pass that took over 10 ms is counted when it ends. -/
def carrelScrubRowStep (st : SramStore) (bank : Nat) (s : State) : State :=
  if !s.sramOn st then s
  else
    let n := sramBankNo st bank
    let row := sget 0 s.mem.scrubRow n
    let from_ := max (sget 0 s.mem.scrubFrom n) (sget 0 s.mem.scrubBase (sramQuad st))
    let s := s.runTo (from_ + ceilDiv (row * passT) bankRows)
    let a := sramRowAt st bank row
    let s := s.onMem (fun m => m.scrub s.mx (a / 64))
    if row + 1 < bankRows then s.onMem (fun m => { m with scrubRow := sset 0 m.scrubRow n (row + 1) })
    else
      let late := from_ + passT < s.time.ticks
      let now := s.time.ticks
      s.onMem (fun m =>
        let m := if late then m.onProt (storeOf s.layout a) (fun p => { p with scrubLate := satAdd p.scrubLate 1 }) else m
        { m with scrubRow := sset 0 m.scrubRow n 0, scrubFrom := sset 0 m.scrubFrom n (max now (from_ + passT)) })

/-! ## Block scrubbing of HBM (R282, R286) -/

/-- Blocks of a stack, and reset value of HUB_SCRUB_CFG (R60, R286). -/
def stackBlocks : Nat := 1610612736
def scrubCfgReset : BitVec 32 := 0x10C#32

/-- Scrub period on the model clock. -/
def scrubPeriod (v : BitVec 32) : Nat := max 1 (fld v 0 8) * 3600000000000 * nsT

/-- Package address of a within-stack offset (R62). -/
def State.stackAt (s : State) (stack off : Nat) : Addr :=
  let p := s.partOf (stack / 6)
  unInterleave (partBase p) p (s.quads p).length stack off

/-- A pass of a stack begins: the hub's configuration is in force for it (R286). -/
def MemSt.beginPass (m : MemSt) (stack at_ : Nat) : MemSt :=
  { m with hbmNext := sset 0 m.hbmNext stack 0, hbmFrom := sset 0 m.hbmFrom stack at_
           hbmCfg := sset scrubCfgReset m.hbmCfg stack (sget scrubCfgReset m.scrubCfg (stack / 6))
           passMends := m.passMends.filter (fun x => x.1 != stack) }

/-- A mend of the scrubber in a row of a stack: the second in one pass is reported for soft repair (R63, R282). -/
def MemSt.noteMend (m : MemSt) (stack row : Nat) : MemSt :=
  let twice := m.passMends.contains (stack, row)
  { m with passMends := if twice then m.passMends else m.passMends ++ [(stack, row)]
           repair := if twice && !m.repair.contains (stack, row) then m.repair ++ [(stack, row)] else m.repair }

/-- The row of a within-stack offset: its granule's in its pseudo-channel (R62). -/
def rowAt (stack off : Nat) : Nat := Config.hbmRow stack (hbmPc (off / 512)) (hbmGranule (off / 512))

/-- A stack is in self-refresh: its partition is in reset and its domain is on (R63). -/
def State.selfRefresh (s : State) (stack : Nat) : Bool := s.inReset (stack / 6) && bit s.reset_.pd (36 + stack)

/-- HBM_SCRUB_BLOCK (R282): the next block of a stack, when it falls due. With scrubbing stopped, a pass begins once
HUB_SCRUB_CFG enables it again. -/
def hbmScrubBlockStep (stack : Nat) (s : State) : State :=
  if s.selfRefresh stack || !bit s.reset_.pd (36 + stack) then s
  else
    let cfg := sget scrubCfgReset s.mem.hbmCfg stack
    if !bit cfg 8 then
      (if bit (sget scrubCfgReset s.mem.scrubCfg (stack / 6)) 8 then s.onMem (fun m => m.beginPass stack s.time.ticks) else s)
    else
      let k := sget 0 s.mem.hbmNext stack
      let from_ := sget 0 s.mem.hbmFrom stack
      let s := s.runTo (from_ + ceilDiv (k * scrubPeriod cfg) stackBlocks)
      let a := s.stackAt stack (64 * k)
      let b := a / 64
      let m := (s.mem.commitBlock s.mx b).reveal b
      let mended := match decodeBlock (m.blockNat b) (m.code b) with
        | .mend _ => true
        | _ => false
      let m := m.readBlock s.mx 2 b
      let m := if mended then m.noteMend stack (rowAt stack (64 * k)) else m
      let s := s.onMem (fun _ => m)
      if k + 1 < stackBlocks then s.onMem (fun m => { m with hbmNext := sset 0 m.hbmNext stack (k + 1) })
      else
        let due := from_ + scrubPeriod cfg
        let late := due < s.time.ticks
        let now := s.time.ticks
        s.onMem (fun m =>
          let m := if late then m.onProt (520 + stack) (fun p => { p with scrubLate := satAdd p.scrubLate 1 }) else m
          m.beginPass stack (max now due))

/-! ## Arbitration (R67 to R69) -/

/-- Order of two waiting requests: the older stamp, and at equal stamps the lower source (R67, R68). -/
def memReqBefore (a b : MemReq) : Bool := stampLt a.stamp b.stamp || (a.stamp == b.stamp && a.source ≤ b.source)

/-- REQUEST_AGE_BLOCK (R69): a request passed for 256 ns blocks the younger ones of its pseudo-channel; of two, the one that
R68 grants first stands. -/
def requestAgeBlockStep (r : MemReq) (s : State) : State :=
  let k := pseudoNo s.layout r.addr
  s.onMem (fun m => match m.aged.find? (fun x => x.1 == k) with
    | none => { m with aged := m.aged ++ [(k, r)] }
    | some x => if memReqBefore r x.2 then { m with aged := m.aged.map (fun y => if y.1 = k then (k, r) else y) } else m)

/-! ## The meanings -/

def execMergeCommit (b : Addr) (s : State) : Host.Outcome State Fault Refusal :=
  formed (b % 64 == 0) s (s.coreFrame (mergeCommitStep b s).settle)

def execCarrelScrubRow (st : SramStore) (bank : Fin 512) (s : State) : Host.Outcome State Fault Refusal :=
  formed (st.bankOk bank) s (s.coreFrame (carrelScrubRowStep st bank.val s).settle)

def execHbmScrubBlock (m : StackId) (s : State) : Host.Outcome State Fault Refusal :=
  .next (s.coreFrame (hbmScrubBlockStep m.val s).settle)

def execRequestAgeBlock (a : Addr) (stamp : BitVec 32) (source : Nat) (s : State) : Host.Outcome State Fault Refusal :=
  formed (reqOk a) s (s.coreFrame (requestAgeBlockStep { addr := a, stamp := stamp, source := source } s))

end Sys2Proof.Machine
end

