-- ==== Sys2Proof/Machine/BringUp.lean ====
section
/-!
DEFINITION. Bringing dies into service at a reset (R14, R22 to R25, R29 to R36, R466), training the mesh (R44, R50, R53, R55),
and the wipe (R273, R283, R462).
-/
namespace Sys2Proof.Machine

/-! ## Straps and agreement (R14, R23) -/

/-- The dies of a list of quadrants, hubs included. -/
def quadDies (qs : List Nat) : List Nat := qs.flatMap (fun q => quadSites q ++ [36 + q])

/-- The facts of die `d` (R13, R23). -/
def State.facts (s : State) (d : Nat) : DieFacts :=
  s.panel.dies.getD d { strap := 0, serial := 0, stepping := 0, numerics := 0, features := 0 }

/-- Dies sample their strap words (R14): those whose word is not accepted stay in reset-idle. -/
def State.sampleDies (s : State) (ds : List Nat) : State :=
  let straps := ds.foldl (fun t d => sset 0 t d (s.facts d).strap) s.panel.straps
  let bad := ds.filter (fun d => !strapAccepted (decide (36 ≤ d)) (s.facts d).strap)
  { s with panel := { s.panel with straps := straps, strapBad := s.panel.strapBad.filter (fun d => !ds.contains d) ++ bad } }
def State.sampleStraps (s : State) (qs : List Nat) : State := s.sampleDies (quadDies qs)

/-- Die `d` agrees with the catalogue (R23). -/
def State.agrees (s : State) (cat : Catalogue) (d : Nat) : Bool :=
  let w : BitVec 16 := sget 0 s.panel.straps d
  let e : BitVec 256 := cat.entries.getD d 0
  strapAccepted (decide (36 ≤ d)) w && fld w 0 6 == fld e 0 6 && fld w 6 2 == fld e 6 2 && bit w 8 == bit e 11 &&
    fld w 9 3 == cat.stepping.toNat && (s.facts d).serial.toNat == fld e 32 64

/-! ## Which dies fail (R23, R24, R26, R466) -/

/-- What a reset has found out: the dies that failed self-test, and the edges that failed to train. -/
structure Found where
  cat   : Catalogue
  dies  : List Nat
  edges : List Nat

/-- Why the die that holds a slot fails at this reset, as a cause of R21: marked failed in service, disagreement, numerics revision,
self-test, in that order when several hold (log 73); none if it does not. -/
def State.dieCause (s : State) (f : Found) (d : Nat) : Option Nat :=
  let (_, slot) := f.cat.siteNow d
  let e : BitVec 256 := f.cat.entries.getD d 0
  if s.panel.failedSlots.contains (8 * siteQuad d + slot) then some 3
  else if !s.agrees f.cat d then some 1
  else if fld e 24 8 ≠ f.cat.numerics.toNat then some 2
  else if f.dies.contains d then some 4
  else none

/-- A die implements the command set of the manual (R26, BASE). -/
def hasBase (cat : Catalogue) (d : Nat) : Bool := bit (cat.entries.getD d 0 : BitVec 256) 96

/-- Hub `h` comes into service (R19, R23, R466). -/
def State.hubGood (s : State) (f : Found) (h : Nat) : Bool :=
  (f.cat.siteNow (36 + h)).1 == roleActive && s.agrees f.cat (36 + h) && !f.dies.contains (36 + h) && hasBase f.cat (36 + h)

/-- A tile die that holds a slot comes into service. -/
def State.tileGood (s : State) (f : Found) (d : Nat) : Bool :=
  let (role, slot) := f.cat.siteNow d
  (role == roleActive || role == rolePromoted) && slot != 15 && (s.dieCause f d).isNone && hasBase f.cat d

/-! ## Promotion (R31 to R35) -/

/-- A slot that needs a die: its number, the site whose die fails, and the cause of R21 if it fails at this reset. -/
structure Need where
  slot  : Nat
  site  : Nat
  cause : Option Nat

/-- The slots of a quadrant that need a die (R24, R29, R32, R34), in increasing order: one whose die fails; one of a die already FAILED,
if no reset has applied R32 to it yet or the quadrant has a reserve. -/
def State.needs (s : State) (f : Found) (q : Nat) (reserve : Bool) : List Need :=
  (List.range 8).filterMap (fun sl => (f.cat.holder q sl).bind (fun d =>
    if (f.cat.siteNow d).1 = roleFailed then
      (if reserve || f.cat.unapplied q sl d then some { slot := sl, site := d, cause := none } else none)
    else (s.dieCause f d).map (fun c => { slot := sl, site := d, cause := some c })))

/-- Every edge of the reserve to a die in service of its partition trains (R32). -/
def State.reserveTrains (s : State) (f : Found) (qs : List Nat) (res : Nat) : Bool :=
  (List.range 72).all (fun e => match otherEnd e res with
    | none => true
    | some n =>
      let there := if n < 36 then s.tileGood f n else s.hubGood f (n - 36)
      !(there && qs.contains (dieQuad n)) || (!f.edges.contains e && s.edgeBw e != 0))

/-- The outcome of R22 for a quadrant's reserve, and the cause of R21 if it then takes role FAILED. When several conditions of R32 fail,
the first of these is recorded: the role, agreement, numerics revision or BASE, self-test, edges, the policy (log 73). -/
def State.reserveOutcome (s : State) (f : Found) (qs : List Nat) (res : Nat) (auto needed : Bool) : Nat × Option Nat :=
  let role := (f.cat.siteNow res).1
  if role = roleIneligible then (2, none)
  else if role ≠ roleReserve then (1, none)
  else if !s.agrees f.cat res then (1, some 1)
  else if fld (f.cat.entries.getD res 0 : BitVec 256) 24 8 ≠ f.cat.numerics.toNat ∨ !hasBase f.cat res then (2, none)
  else if f.dies.contains res then (3, some 4)
  else if needed && !s.reserveTrains f qs res then (4, some 5)
  else if !auto then (5, none)
  else (0, none)

/-- The records of one slot that needs a die (R22, R24, R32 to R35). A die of another numerics revision is set FAILED first and keeps its
slot (R24). Promotion writes one promotion record and two role-change records; without it the failing die takes role FAILED and keeps
its slot, which stays unmapped (log 73). -/
def slotRecords (q res out : Nat) (win : Bool) (n : Need) : List Rec :=
  (if n.cause = some 2 then [.role n.site roleFailed n.slot 2] else []) ++
  [.promotion n.site (if win then res else 0x3F) q n.slot (if win then 0 else if out = 0 then 6 else out)] ++
  (if win then [.role n.site roleFailed 15 0, .role res rolePromoted n.slot 0]
   else match n.cause with
    | none => []
    | some c => if c = 2 then [] else [.role n.site roleFailed n.slot c])

/-- The site that package test chose as reserve (R12, R18). -/
def Catalogue.reserveOf (c : Catalogue) (q : Nat) : Nat :=
  ((quadSites q).find? (fun d => bit (c.entries.getD d 0 : BitVec 256) 11)).getD 0

/-- The field records of one quadrant at a reset (R23, R24, R32 to R35, R466), and whether its reserve is promoted. The rules of the
tile dies apply whether or not the quadrant's hub comes into service. -/
def State.quadRecords (s : State) (f : Found) (qs : List Nat) (auto : Bool) (q : Nat) : List Rec × Bool :=
  let hub : List Rec := if (f.cat.siteNow (36 + q)).1 ≠ roleFailed ∧ f.dies.contains (36 + q) then [.role (36 + q) roleFailed 15 4] else []
  let res := f.cat.reserveOf q
  let ns := s.needs f q ((f.cat.siteNow res).1 == roleReserve)
  let (out, fail) := s.reserveOutcome f qs res auto (!ns.isEmpty)
  let own : List Rec := fail.elim [] (fun c => [.role res roleFailed 15 c])
  let slots := match ns with
    | [] => []
    | n :: rest => slotRecords q res out (out == 0) n ++ rest.flatMap (slotRecords q res out false)
  (hub ++ own ++ slots, out == 0 && !ns.isEmpty)

/-- The lifecycle lets tasks run (R459). -/
def StewardSt.mayServe (w : StewardSt) : Bool := w.lifecycle != 0 && w.lifecycle != 4 && !w.noService

/-- The dies of a list of quadrants with a role come into service, and their slots are mapped (R28, R32, R36, R466). A partition with
a hub out of service does not come into service. -/
def State.assign (s : State) (f : Found) (qs : List Nat) : State :=
  let hubs := qs.filter (s.hubGood f)
  let whole := hubs.length == qs.length
  let tiles := if whole then (qs.flatMap quadSites).filter (s.tileGood f) else []
  let ok := s.stw.mayServe
  let slots := qs.foldl (fun t q => (List.range 8).foldl (fun t sl =>
    let d := (f.cat.holder q sl).filter (fun d => ok && tiles.contains d)
    sset 0xFF t (8 * q + sl) (d.elim 0xFF (BitVec.ofNat 8))) t) s.panel.slotSite
  { s with panel := { s.panel with
      inService := s.panel.inService.filter (fun d => !qs.contains (dieQuad d)) ++ (if ok then tiles ++ hubs.map (fun h => 36 + h) else [])
      slotSite := slots
      failedSlots := s.panel.failedSlots.filter (fun x => !qs.contains (x / 8)) } }

/-- No valid catalogue (R16): nothing comes into service. -/
def State.assignNone (s : State) (qs : List Nat) : State :=
  { s with panel := { s.panel with
      inService := s.panel.inService.filter (fun d => !qs.contains (dieQuad d))
      slotSite := skeep (fun x _ => !qs.contains (x / 8)) s.panel.slotSite
      failedSlots := s.panel.failedSlots.filter (fun x => !qs.contains (x / 8)) } }

/-- Steps 1 to 6 of bringing the dies of a partition into service (R22 to R36), with the dies and edges that failed. Answers the
quadrants whose reserve was promoted. -/
def State.bringQuads (s : State) (qs : List Nat) (auto : Bool) (dies edges : List Nat) : State × List Nat :=
  let s := { s with panel := { s.panel with useB := s.panel.pickB } }
  match s.panel.catalogue with
  | none => ((s.event (2 ^ 5)).assignNone qs, [])
  | some cat =>
    let f : Found := { cat := cat, dies := dies, edges := edges }
    let rs := qs.map (fun q => (q, s.quadRecords f qs auto q))
    let promoted := (rs.filter (fun r => r.2.2)).map (fun r => r.1)
    let s := s.writeRecords (rs.flatMap (fun r => r.2.1))
    match s.panel.catalogue with
    | none => (s.assignNone qs, promoted)
    | some cat =>
      let cleared := { s with panel := { s.panel with failedSlots := s.panel.failedSlots.filter (fun x => !qs.contains (x / 8)) } }
      (cleared.assign { f with cat := cat } qs, promoted)

/-! ## The mesh (R44, R50, R53 to R55) -/

/-- Repairs of one slice at training (R50): each lane that still awaits one takes a spare, or the slice is retired, and with the last
slice the edge is down. -/
def State.mendSlice (s : State) (e slice : Nat) : State :=
  if bit (s.edge e).retired slice then s
  else
    let s := [false, true].foldl (fun s d => (s.replaceLane e slice d).replaceLane e slice d) s
    if (s.edge e).beyondRepair slice then s.dropSlice e slice else s

/-- Train edge `e` (R44, R50, R52): it comes up if it trains, and its slices that are not retired carry traffic. -/
def State.trainEdge (s : State) (failed : List Nat) (e : Nat) : State :=
  let s := (List.range (edgeSlices e)).foldl (fun s k => s.mendSlice e k) s
  s.onEdge e (fun k => Edge.refreshAll (edgeSlices e)
    { k with up := !failed.contains e && s.edgeBw e != 0, laneEvents := 0, fwd := {}, back := {} })

/-- The mesh edges inside a list of quadrants whose two dies are in service (R44, R54). -/
def State.trainable (s : State) (qs : List Nat) : List Nat :=
  (List.range 72).filter (fun e => [(edgeEnds e).1, (edgeEnds e).2].all (fun d =>
    s.panel.inService.contains d && qs.contains (dieQuad d)))

/-- Mesh edges of a list of quadrants go dark (R44). -/
def State.darkEdges (s : State) (qs : List Nat) : State :=
  let mine (d : Nat) : Bool := qs.contains (dieQuad d)
  let es := (List.range 72).filter (fun e => mine (edgeEnds e).1 || mine (edgeEnds e).2)
  let s := es.foldl (fun s e => s.onEdge e Edge.dark) s
  { s with mesh := { s.mesh with routes := s.mesh.routes.filter (fun r => !mine r.src), draining := s.mesh.draining.filter (fun r => !mine r.src) } }

/-- Train the mesh of a partition, compute its routes and its isolated dies (R50, R53, R55). -/
def State.trainMesh (s : State) (p : Nat) (failed : List Nat) : State :=
  let qs := s.quads p
  let s := (s.trainable qs).foldl (fun s e => s.trainEdge failed e) s
  let other := s.mesh.routes.filter (fun r => !qs.contains (dieQuad r.src))
  ({ s with mesh := { s.mesh with routes := other ++ s.partRoutes p } }).isolate p

/-! ## The wipe (R273, R283, R462) -/

/-- A store belongs to a list of quadrants. -/
def storeIn (qs : List Nat) (st : Nat) : Bool :=
  qs.any (fun q => (128 * q ≤ st && st < 128 * q + 128) || st == 512 + q || (520 + 6 * q ≤ st && st < 526 + 6 * q))

/-- Wipe the carrels, ledger SRAM and HBM of the quadrants of a partition, and restart their scrub passes (R283): the carve-out with
that of Q2 (R61), and everything the model holds beside those bytes. -/
def State.wipeQuads (s : State) (qs : List Nat) : State :=
  let m := qs.foldl (fun m q =>
    ((m.wipe (carrelBase + 128 * q * carrelSize) (128 * carrelSize)).wipe (ledgerBase + q * ledgerSize) ledgerSize).wipe (q * quadBytes) quadBytes) s.mem
  let m := (List.range 24).foldl (fun m x => if storeIn qs (520 + x) then m.beginPass x s.time.ticks else m) m
  let keep (st : Nat) : Bool := !storeIn qs st
  let bankKeep (b : Nat) : Bool := keep (if b < 16384 then b / 32 else 512 + (b - 16384) / 512)
  let out (a : Nat) : Bool := !qs.contains (a / quadBytes) || hbmEnd ≤ a
  { s with
    mem := { m with
      prot := skeep (fun st _ => keep st) m.prot, errlog := skeep (fun st _ => keep st) m.errlog
      scrubRow := skeep (fun b _ => bankKeep b) m.scrubRow, scrubFrom := skeep (fun b _ => bankKeep b) m.scrubFrom
      scrubBase := qs.foldl (fun t q => sset 0 t q s.time.ticks) m.scrubBase, lost := [], newPoison := [] }
    images := skeep (fun a _ => out a) s.images
    stw := { s.stw with tokens := skeep (fun a _ => out a) s.stw.tokens } }

end Sys2Proof.Machine
end

