-- ==== Sys2Proof/Machine/Reset.lean ====
section
/-!
DEFINITION. Partition resets and package resets (R467 to R473, R485): how each begins, what each phase does, and how it ends.
-/
namespace Sys2Proof.Machine

/-! ## What a reset sends and owes (R224, R473) -/

/-- Quadrants as a mask. -/
def quadMask (qs : List Nat) : Nat := qs.foldl (fun m q => m + 2 ^ q) 0

/-- Jobs of the plan that this package runs in some quadrant of a mask (R307, R473). -/
def State.jobsIn (s : State) (mask : Nat) : List Nat :=
  (List.range 1024).filter (fun j => s.plan.member j s.ownId && jQmask (s.jobEntry j) &&& mask != 0)

/-- Notices sent are counted (R486). -/
def State.countNotices (s : State) (n : Nat) : State := { s with reset_ := { s.reset_ with fcNotices := satAdd s.reset_.fcNotices n } }

/-- MEMBER_DOWN to every other member of each slice whose job runs in the quadrants (R473). -/
def State.sendMemberDown (s : State) (mask cause : Nat) : State :=
  (s.jobsIn mask).foldl (fun s j =>
    let dests := s.others j
    let s := s.notify dests { sub := 0x10, member := s.ownId, job := j, qmask := jQmask (s.jobEntry j), cause := cause, time := s.now }
    { s with fabric := { s.fabric with downSent := if s.fabric.downSent.contains j then s.fabric.downSent else s.fabric.downSent ++ [j] } }.countNotices
      dests.length) s

/-- The records owed for the tasks of a partition that a reset ends (R222, R224): one for each task that was read, if the completion
ring is in use and the reset leaves it in the carve-out. -/
def State.owedRecords (s : State) (p : Nat) : List (W64 × Nat × W64 × Option Nat) :=
  let t := s.prt p
  let n := 64 + 64 * ringEntries (s.cqNow p)
  if s.cqOn p && inside (ringBase (s.cqNow p)) n s.carve.1 s.carveBytes && s.partOf 2 != p then
    t.tasks.map (fun x => (tdTask x.desc, s.now, t.lastClosed x, tdMsi x.desc))
  else []

/-- Write the owed ABORTED records (R224): the ring's enable reads 0, its base and size stand. -/
def State.payAborted (s : State) (p : Nat) : State :=
  if !s.regOn then s
  else
    let owed := (s.prt p).aborted
    let s := owed.foldl (fun s r => s.putRecord p { task := r.1, kind := 5, time := r.2.1, step := r.2.2.1 } r.2.2.2) s
    s.onPart p (fun t => { t with aborted := [] })

/-! ## Phase 1 (R470, R471) -/

/-- The instant at which a reset of a partition begins: its tasks end ABORTED, its members hear of it, and its staged set is
abandoned with RESET (R349, R470, R473). -/
def State.haltPart (s : State) (p cause : Nat) : State :=
  let owed := s.owedRecords p
  let s := s.sendMemberDown (quadMask (s.quads p)) cause
  let s := match [0, 1, 2, 3].find? (fun q : Fin 4 => q.val == p) with
    | some q => s.abandonSet (.part q) 6
    | none => s
  (s.onPart p (fun t => { t with
    tasks := [], switching := none, readBeat := none, aborted := t.aborted ++ owed, autoPromoteNow := t.autoPromote })).settleCap

/-- A reset that takes out nothing but one twin of each pair concerned is of the single-fault class (R464). -/
def State.twinOnly (s : State) (mask : Nat) : Bool :=
  !(s.jobsIn mask).isEmpty && (s.jobsIn mask).all (fun j => jTwin (s.jobEntry j))

/-- STW_RESET_LAST of the quadrants of a reset (R468). -/
def State.onLast (s : State) (qs : List Nat) (f : ResetLast → ResetLast) : State :=
  { s with reset_ := { s.reset_ with last := qs.foldl (fun t q => sset {} t q (f (sget {} t q))) s.reset_.last } }

/-- A reset of the quadrants `qs` begins: the values of R468, but the duration of the one before. -/
def ResetLast.begun (l : ResetLast) (phase cause : Nat) (pkg : Bool) : ResetLast :=
  { phase := BitVec.ofNat 4 phase, cause := BitVec.ofNat 4 cause, package := pkg, duration := l.duration }

/-- A resync of a partition that resets has failed (R478; DESIGN CHOICE, log 37). -/
def State.failResync (s : State) (p : Nat) : State :=
  if (s.reset_.rsState == 1 || s.reset_.rsState == 2) && s.partOf (fld s.reset_.rsCtl 0 2) == p then
    { s with reset_ := { s.reset_ with rsState := 4, rsLeft := [], rsReady := none } }
  else s

/-- A partition reset begins (R467 to R470). -/
def State.startPart (s : State) (q cause : Nat) : State :=
  let p := s.partOf q
  if s.inReset p then s
  else
    let qs := s.quads p
    let s := if s.twinOnly (quadMask qs) then s else s.countBeyond
    let r : PartReset := {
      quads := BitVec.ofNat 4 (quadMask qs), phase := 1, cause := BitVec.ofNat 4 cause, from_ := s.time.ticks, at_ := s.now,
      since := s.time.ticks, units := s.archiveUnits qs false }
    let s := (s.haltPart p cause).failResync p
    let s := s.onLast qs (fun l => l.begun 1 cause false)
    { s with reset_ := { s.reset_ with
        resets := satAdd s.reset_.resets 1, parts := sset none s.reset_.parts p (some r) } }

/-! ## Phase 3: what a partition reset discards (R41, R471) -/

/-- Domains PD_TS, PD_M and PD_HC of a list of quadrants (R40, R41). -/
def quadDomains (qs : List Nat) : List Nat := qs.flatMap (fun q => quadSites q ++ span (36 + 6 * q) 6 ++ [60 + q])

def State.domains (s : State) (ds : List Nat) (on : Bool) : State :=
  { s with reset_ := { s.reset_ with pd := ds.foldl (fun v d => if on then setBit v d else clearBit v d) s.reset_.pd } }

/-- What is left of a hub: its HUB_LEDGER_CFG, now in force (R387). -/
def HubSt.afterReset (h : HubSt) : HubSt := { ledgerCfg := h.ledgerCfg, scratch := min 3072 (fld h.ledgerCfg 0 12) }

/-- What a partition keeps at beat `b` (R213, R471). -/
def Part.afterReset (b : Nat) (t : Part) : Part :=
  { t with subq := clearBit (ringNow t.subq t.subqNext t.subqOff b) 5, cq := clearBit (ringNow t.cq t.cqNext t.cqOff b) 5
           subqOff := none, cqOff := none, progs := [], tasks := [], readBeat := none
           active := some 0, switching := none }

/-- A processor of a list of quadrants: its Curators start anew (R470). -/
def freshCurators (qs : List Nat) (c : Sparse FwProc) : Sparse FwProc := skeep (fun i _ => !qs.contains (clusterQuad i)) c

/-- The power-down of a partition (R41, R44, R471). -/
def State.discard (s : State) (p : Nat) : State :=
  let qs := s.quads p
  let mine (c : Nat) : Bool := qs.contains (clusterQuad c)
  let s := (s.darkEdges qs).onPart p (Part.afterReset s.beat)
  let s := qs.foldl (fun s h => s.onHub h HubSt.afterReset) s
  let jobs := (List.range 1024).filter (fun j => s.jobPart j == some p)
  let s := { s with
    clusters := skeep (fun c _ => !mine c) s.clusters
    red := { s.red with ctxs := s.red.ctxs.filter (fun c => c.part != p), bindings := s.red.bindings.filter (fun b => b.part != p) }
    fabric := { s.fabric with
      signals := s.fabric.signals.filter (fun x => !mine x.cluster), notices := s.fabric.notices.filter (fun n => !jobs.contains n.1) }
    mem := { s.mem with
      aged := s.mem.aged.filter (fun x => !qs.contains (x.1 / 64 / 6)), lost := s.mem.lost.filter (fun o => !(decide (o % 4096 < 2048) && mine (o % 4096 / 4))) }
    panel := { s.panel with poisonLog := skeep (fun x _ => !qs.contains (x / 8)) s.panel.poisonLog }
    stw := { s.stw with curators := freshCurators qs s.stw.curators } }
  s.domains (quadDomains qs) false

/-! ## The phases of a partition reset (R470) -/

/-- The next phase begins. -/
def State.nextPhase (s : State) (p : Nat) (r : PartReset) (n : Nat) : State :=
  let s := s.onLast (s.quads p) (fun l => { l with phase := BitVec.ofNat 4 n })
  { s with reset_ := { s.reset_ with parts := sset none s.reset_.parts p (some { r with phase := BitVec.ofNat 4 n, since := s.time.ticks }) } }

/-- The archive is closed (R481): the units that the writer reached before the bound, and the rest as not reached. -/
def State.closeArchive (s : State) (r : PartReset) (qs : List Nat) (pkg : Bool) (unitsRead : Nat) : State :=
  if !s.canArchive then s
  else
    let r := s.dumpUnits r unitsRead
    let es := r.dump ++ r.units.map (fun u => s.dumpUnit u 3)
    (s.putArchive r.quads pkg r.cause r.at_ es).onLast qs (fun l => { l with archived := true })

/-- Dies whose domains a reset powers for self-test: those with a slot, and reserves (R37, R490). -/
def State.testedSites (s : State) (qs : List Nat) : List Nat :=
  (qs.flatMap quadSites).filter (fun d =>
    let (role, slot) := s.siteNow d
    role == roleReserve || ((role == roleActive || role == rolePromoted) && slot != 15))

/-- Outside self-test only dies in service are powered (R41). -/
def State.settleDomains (s : State) (qs : List Nat) : State :=
  s.domains ((qs.flatMap quadSites).filter (fun d => !s.panel.inService.contains d)) false

/-- Hard repair of the rows that the scrubber reported (R63). -/
def State.hardRepair (s : State) (qs : List Nat) : State :=
  let mine (x : Nat × Nat) : Bool := qs.contains (x.1 / 6)
  { s with mem := { s.mem with
      repair := s.mem.repair.filter (fun x => !mine x)
      hard := s.mem.hard ++ s.mem.repair.filter (fun x => mine x && !s.mem.hard.contains x) } }

/-- Microseconds from clock `a` to clock `b`, saturating (R468). -/
def elapsedUs (a b : Nat) : BitVec 32 := BitVec.ofNat 32 (sat 32 ((b - a) / (1000 * nsT)))

/-- The reset is complete (R468, R470): owed records are written. -/
def State.finishPart (s : State) (p : Nat) (r : PartReset) : State :=
  let s := s.onLast (s.quads p) (fun l => { l with phase := 15, duration := elapsedUs r.from_ s.time.ticks })
  ({ s with reset_ := { s.reset_ with parts := sset none s.reset_.parts p none } }).payAborted p

/-- PARTITION_RESET_PHASE_END (R470): the phase under way ends with what was found in it. Roles, promotion and the catalogue wait for a
Custodian that restarts (R435). -/
def State.endPartPhase (s : State) (p : Nat) (r : PartReset) (o : PhaseObs) : State :=
  let qs := s.quads p
  let s := s.runTo (r.since + o.durationUs.toNat * 1000 * nsT)
  match r.phase.toNat with
  | 1 => s.nextPhase p r 2
  | 2 => ((s.closeArchive r qs false o.unitsRead).discard p).nextPhase p { r with units := [], dump := [] } 3
  | 3 =>
    let s := (s.domains (qs.flatMap (fun q => span (36 + 6 * q) 6 ++ [60 + q]) ++ s.testedSites qs) true).sampleStraps qs
    s.nextPhase p r 4
  | 4 => s.nextPhase p { r with failed := (o.failedDies.map (fun d => d.val)).filter (fun d => qs.contains (dieQuad d)) } 5
  | 5 =>
    if s.stw.custodian.st = .restarting then s else
    let (s, promoted) := s.bringQuads qs (s.prt p).autoPromoteNow r.failed (o.failedEdges.map (fun e => e.val))
    ((s.settleDomains qs).onLast promoted (fun l => { l with promoted := true })).nextPhase p r 6
  | 6 => (s.hardRepair qs).nextPhase p r 7
  | 7 => (s.trainMesh p (o.failedEdges.map (fun e => e.val))).nextPhase p r 8
  | 8 => (s.wipeQuads qs).nextPhase p r 9
  | _ => s.finishPart p r

def partPhaseStep (q : Nat) (o : PhaseObs) (s : State) : State :=
  match sget none s.reset_.parts q with
  | none => s
  | some r => s.endPartPhase q r o

/-! ## Package reset (R485) -/

/-- A package reset begins (R469, R485): a partition reset under way is taken over, and the dumps that it has not written join. -/
def State.startPkg (s : State) (cause : Nat) : State :=
  if s.reset_.pkg.isSome || !s.power.on then s
  else
    let running := s.reset_.parts.filterMap (fun x => x.2)
    let early := running.filter (fun r => decide (r.phase.toNat ≤ 2))
    let dump := early.flatMap (fun r => r.dump)
    let units := (s.archiveUnits [0, 1, 2, 3] true).filter (fun u => !dump.any (fun e => e.kind == u.1 && e.index == u.2))
    let r : PartReset := {
      quads := 15, phase := 1, cause := BitVec.ofNat 4 cause, from_ := s.time.ticks, at_ := s.now, since := s.time.ticks,
      units := units, dump := dump }
    let s := if s.twinOnly 15 then s else s.countBeyond
    let s := s.partitions.foldl (fun s p => if s.inReset p then s else s.haltPart p cause) s
    let s := (s.abandonSet .pkg 6).onLast [0, 1, 2, 3] (fun l => l.begun 1 cause true)
    { s with reset_ := { s.reset_ with parts := [], pkg := some r } }

/-- Everything off (R485 phase 3): links, hubs and dies carry nothing more. -/
def State.powerDown (s : State) : State :=
  let s := s.partitions.foldl State.discard s
  { s with
    fabric := { s.fabric with
      links := (List.range 20).foldl (fun t l => sset {} t l { port := BitVec.ofNat 3 (s.plan.portOf l) }) []
      waiting := [], credits := [], signals := [] }
    mesh := { s.mesh with edges := s.mesh.edges.map (fun (e : Nat × Edge) => (e.1, e.2.dark)), routes := [], draining := [] }
    panel := { s.panel with inService := [], slotSite := [] }
    reset_ := { s.reset_ with pd := 0, perstN := false } }

/-- A bundle passes every check of R451 under the fuses. -/
def StewardSt.bundleOk (w : StewardSt) (component : Nat) (b : Bundle) : Bool :=
  b.magic == 0x4E594D42 && b.component.toNat == component && b.reservedZero &&
  !bit w.revoked b.rsaSlot.toNat && !bit w.revoked (4 + b.slhSlot.toNat) && b.keysMatch &&
  decide (w.ctr.getD component 0 ≤ b.svn.toNat) && b.bodyHashOk && b.rsaOk && b.slhOk

/-- The bundle of a component that the boot takes (R452): slot A, or slot B where A is rejected. -/
def StewardSt.pickBundle (w : StewardSt) (component : Nat) : Option Bundle :=
  ([2 * component, 2 * component + 1].filterMap (fun i => sget none w.bundles i)).find? (w.bundleOk component)

/-- The steward's state after the boot (R452, R455): flash and fuses stand, STW_MEMCFG is read (R59). -/
def StewardSt.boot (w : StewardSt) (seq : Nat) : StewardSt :=
  let b := [w.pickBundle 0, w.pickBundle 1, w.pickBundle 2]
  let got (i : Nat) : Option Bundle := (b.getD i none)
  let idle := w.lifecycle == 0 || w.lifecycle == 4
  let rom := (got 0).isNone || idle
  { ifVersion := w.ifVersion, fwFeatures := w.fwFeatures, linkFeatures := w.linkFeatures, memcfg := w.memcfg, memcfgOn := w.memcfg
    ctr := w.ctr, svn := b.map (fun x => x.elim 0 (fun y => y.svn.toNat)), bundles := w.bundles, revoked := w.revoked
    romOnly := (got 0).isNone && !idle, noService := rom || (got 1).isNone || (got 2).isNone
    lifecycle := w.lifecycle, transitions := w.transitions, redeploys := w.redeploys, certsHeld := w.certsHeld, secretOk := w.secretOk
    meas := if rom then [0, 0, 0, 0, 0, 0] else bootMeas (b.map (fun x => x.elim 0 (fun y => y.hash))) seq (fuseNumber w.lifecycle w.transitions w.ctr)
    custodian := { st := if rom then .failed else .running }
    bursar := { st := if (got 1).isNone || rom then .failed else .running }
    registrar := { st := if (got 1).isNone || rom then .failed else .running } }

/-- System time after a package reset (R325, R326, R329): STW_TIME_CFG takes effect, TIME_NOW runs from 0, and state reads 0. -/
def TimeSt.boot (t : TimeSt) : TimeSt :=
  { ticks := t.ticks, cfg := t.cfg, cfgOn := t.cfg, state := .free, lastSync := t.ticks, lastPps := t.ticks }

/-- ACQUIRE begins with the link layers (R328, R485 phase 5; log 14), but for a root that has no reference, which stays FREE. -/
def TimeSt.begin (t : TimeSt) : TimeSt :=
  if fld t.cfgOn 0 2 = 1 ∧ fld t.cfgOn 2 2 = 0 then t else { t with state := .acquire, lastSync := t.ticks, lastPps := t.ticks }

/-- The power-on value of an edge with the failures of its lanes, which stay (R50). -/
def Edge.cold (e : Edge) : Edge := { retired := e.retired, dirs := e.dirs }

/-- The package as the boot finds it (R452, R462, R485 phase 4): memories zero, registers at their reset values. What stays is what lies
in flash, fuses and the dies, the host's STW_MEMCFG and STW_TIME_CFG (R59, R325), the committed plan with its formed slices, and the
reset controller's account (R467, R468, R480). -/
def State.boot (s : State) : State :=
  let panel := { s.panel with useB := s.panel.pickB, isolated := [], poisonLog := [], strapBad := [], marks := [] }
  let seq := ((if panel.useB then panel.copyB else panel.copyA).elim 0 (fun c => c.seq.toNat))
  let s := { s with
    time := s.time.boot
    mem := { repair := s.mem.repair, hard := s.mem.hard, scrubBase := (List.range 4).foldl (fun t q => sset 0 t q s.time.ticks) [] }
    clusters := [], images := [], nextTask := 0
    mesh := { edges := s.mesh.edges.map (fun (e : Nat × Edge) => (e.1, e.2.cold)), unrecorded := s.mesh.unrecorded }
    panel := panel
    parts := (List.range 4).foldl (fun t p => sset {} t p { autoPromoteNow := (s.prt p).autoPromoteNow }) []
    red := { hubs := (List.range 4).foldl (fun t h => sset {} t h (s.hub h).afterReset) [] }
    fabric := {
      planReg := s.fabric.planReg, planStg := s.fabric.planReg, plan := s.fabric.plan, links := s.fabric.links, formed := s.fabric.formed,
      downSent := s.fabric.downSent, creditMax := s.fabric.creditMax }
    stage := {}, roots := []
    power := { s.power with env := 0, thermalHold := false, capW := 5000, capEff := 5000, capHeld := false, overCap := false, beFraction := 16 }
    stw := s.stw.boot seq
    host := {}
    reset_ := { pkg := s.reset_.pkg, resets := s.reset_.resets, last := s.reset_.last, archive := s.reset_.archive, newest := s.reset_.newest
                pd := s.reset_.pd } }
  s.domains [88, 89, 90, 91] true

/-- Nothing holds a package reset at phase 3: power, the pin, the input and the temperature allow the restart (R487, R488, R494, R499). -/
def PowerSt.mayBoot (p : PowerSt) : Bool := p.on && !p.pinLow && !p.highHold && !p.trip

def State.nextPkgPhase (s : State) (n : Nat) : State :=
  let s := s.onLast [0, 1, 2, 3] (fun l => { l with phase := BitVec.ofNat 4 n })
  { s with reset_ := { s.reset_ with pkg := s.reset_.pkg.map (fun r => { r with phase := BitVec.ofNat 4 n, since := s.time.ticks, units := [], dump := [] }) } }

/-- A hub whose strap word is not accepted stays in reset-idle with its edges untrained (R14). -/
def State.hubIdle (s : State) (h : Nat) : Bool := s.panel.strapBad.contains (36 + h)

/-- The ring edges between hubs whose link layers run (R14, R44) train. -/
def State.trainRing (s : State) (failed : List Nat) : State :=
  ([72, 73, 74, 75].filter (fun e => [(edgeEnds e).1, (edgeEnds e).2].all (fun d => !s.hubIdle (d - 36)))).foldl
    (fun s e => s.trainEdge failed e) s

/-- The link layers start (R485 phase 5): the hubs sample their straps (R14), the lane groups of used links are on, the ring runs (R44),
every used link trains (R299), and ACQUIRE begins (R328). -/
def State.startLinks (s : State) (failed : List Nat) : State :=
  let used := (List.range 20).filter (fun l => lUsed (s.plan.link l))
  let s := { s with time := s.time.begin }.domains ([64, 65, 66, 67] ++ used.map (fun l => 68 + l)) true
  let s := (s.sampleDies [36, 37, 38, 39]).trainRing failed
  (used.filter (fun l => !s.hubIdle (l / 5))).foldl State.trainLink s

/-- Phases 4 to 8 of R470 in all quadrants at once (R485 phase 6). -/
def State.bringAll (s : State) (o : PhaseObs) : State :=
  let dies := o.failedDies.map (fun d => d.val)
  let edges := o.failedEdges.map (fun e => e.val)
  let s := s.sampleStraps [0, 1, 2, 3]
  let s := s.partitions.foldl (fun s p =>
    let (s, promoted) := s.bringQuads (s.quads p) (s.prt p).autoPromoteNow dies edges
    s.onLast promoted (fun l => { l with promoted := true })) s
  let s := (s.settleDomains [0, 1, 2, 3]).hardRepair [0, 1, 2, 3]
  let s := s.partitions.foldl (fun s p => s.trainMesh p edges) s
  let s := s.wipeQuads [0, 1, 2, 3]
  { s with parts := [] }

/-- PACKAGE_RESET_PHASE_END (R485). From phase 3 on, a phase ends only when the power, the pin and the temperature allow it (R488, R494,
R499; log 105). With the last phase the root port is ready, and PCIE_PERST_N goes high (R493, log 94). -/
def State.endPkgPhase (s : State) (r : PartReset) (o : PhaseObs) : State :=
  let s := s.runTo (r.since + o.durationUs.toNat * 1000 * nsT)
  if 3 ≤ r.phase.toNat ∧ !s.power.mayBoot then s else
  match r.phase.toNat with
  | 1 => s.onLast [0, 1, 2, 3] (fun l => { l with phase := 2 }) |> fun s =>
      { s with reset_ := { s.reset_ with pkg := some { r with phase := 2, since := s.time.ticks } } }
  | 2 => ((s.closeArchive r [0, 1, 2, 3] true o.unitsRead).powerDown).nextPkgPhase 3
  | 3 => (s.boot).nextPkgPhase 4
  | 4 => if s.stw.romOnly || s.stw.lifecycle == 0 || s.stw.lifecycle == 4 then s else (s.startLinks (o.failedEdges.map (fun e => e.val))).nextPkgPhase 5
  | 5 => (s.domains (quadDomains [0, 1, 2, 3]) true).nextPkgPhase 6
  | 6 => (s.bringAll o).nextPkgPhase 7
  | _ =>
    let s := s.onLast [0, 1, 2, 3] (fun l => { l with phase := 15, duration := elapsedUs r.from_ s.time.ticks })
    { s with reset_ := { s.reset_ with pkg := none, perstN := true } }

def pkgPhaseStep (o : PhaseObs) (s : State) : State :=
  match s.reset_.pkg with
  | none => s
  | some r => s.endPkgPhase r o

/-- ARCHIVE_UNIT_TIMEOUT (R481), in phase 2 of a reset. -/
def archiveTimeoutStep (pkg : Bool) (q before : Nat) (scanOk : Bool) (s : State) : State :=
  if pkg then match s.reset_.pkg with
    | some r => if r.phase = 2 then { s with reset_ := { s.reset_ with pkg := some (s.dumpTimeout r before scanOk) } } else s
    | none => s
  else match sget none s.reset_.parts q with
    | some r => if r.phase = 2 then
        { s with reset_ := { s.reset_ with parts := sset none s.reset_.parts q (some (s.dumpTimeout r before scanOk)) } }
      else s
    | none => s

/-! ## STW_RESET_CTL (R467, R469) -/

/-- A write of STW_RESET_CTL: without the confirm code nothing happens. -/
def State.resetCtl (s : State) (v : W64) : State :=
  if fld v 8 8 ≠ 0xD5 then s
  else if bit v 3 then s.startPkg 1
  else if bit v 2 then s.startPart (fld v 0 2) 1
  else s

def resetRequestStep (v : W64) (s : State) : State := s.writeRow none rstPage 8 v (fun s => s.resetCtl v)

/-! ## The meanings -/

/-- What a reset changes: all but the commands waiting and the free values drawn. -/
def State.resetFrame (s t : State) : State := { t with pending := s.pending, fresh := t.fresh }

def execPartitionResetRequest (v : W64) (s : State) : Host.Outcome State Fault Refusal :=
  .next (s.resetFrame (resetRequestStep v s))

def execPackageResetRequest (v : W64) (s : State) : Host.Outcome State Fault Refusal :=
  .next (s.resetFrame (resetRequestStep v s))

def execPartitionResetPhaseEnd (q : Quad) (o : PhaseObs) (s : State) : Host.Outcome State Fault Refusal :=
  .next (s.resetFrame (partPhaseStep q.val o s).settle)

def execPackageResetPhaseEnd (o : PhaseObs) (s : State) : Host.Outcome State Fault Refusal :=
  .next (s.resetFrame (pkgPhaseStep o s).settle)

def execArchiveUnitTimeout (pkg : Bool) (q : Quad) (before : Nat) (scanOk : Bool) (s : State) : Host.Outcome State Fault Refusal :=
  .next (s.archiveFrame (archiveTimeoutStep pkg q.val before scanOk s))

end Sys2Proof.Machine
end

