-- ==== Sys2Proof/Machine/Power.lean ====
section
/-!
DEFINITION. The input monitor, the package reset pin and the temperatures (R487, R488, R494, R498 to R500).
-/
namespace Sys2Proof.Machine

/-! ## STW_ENV_STATUS (R500) -/

/-- Put `v` into field [lo + len - 1 : lo] of the environmental status, saturating. -/
def PowerSt.envField (p : PowerSt) (lo len v : Nat) : PowerSt :=
  { p with env := BitVec.ofNat 64 (setFld p.env.toNat lo len (sat len v)) }

/-- Set a W1C flag of the environmental status. -/
def PowerSt.envFlag (p : PowerSt) (i : Nat) (on : Bool) : PowerSt := if on then { p with env := setBit p.env i } else p

def State.onPower (s : State) (f : PowerSt → PowerSt) : State := { s with power := f s.power }

/-! ## Power loss and power-on (R485, R487, R488) -/

/-- Loss of power (R485, R488): phase 3 at once, with no archive and no notice of this package's own. -/
def State.powerLoss (s : State) : State :=
  if !s.power.on then s
  else
    let now := s.time.ticks
    let r : PartReset := { quads := 15, phase := 3, cause := 5, from_ := now, at_ := s.now, since := now, units := [] }
    let s := s.powerDown
    { s with
      power := { s.power with on := false }
      reset_ := { s.reset_ with parts := [], pkg := some r } }

/-- What a package is made of, whatever its power (R15, R16, R50, R449 to R453, R459, R480): dies, flash and fuses, the package test's
choices, the lanes that have failed with the repairs recorded, and the rows of HBM repaired for good (R63). -/
def State.unpowered (s : State) : State :=
  { pending := s.pending, fresh := s.fresh, time := { ticks := s.time.ticks }
    mem := { hard := s.mem.hard }
    mesh := { edges := s.mesh.unmade.edges.map (fun (e : Nat × Edge) => (e.1, e.2.cold)) }
    panel := { dies := s.panel.dies, straps := s.panel.straps, copyA := s.panel.copyA, copyB := s.panel.copyB }
    fabric := { creditMax := s.fabric.creditMax }
    power := { pinLow := s.power.pinLow }
    stw := {
      ifVersion := s.stw.ifVersion, fwFeatures := s.stw.fwFeatures, linkFeatures := s.stw.linkFeatures, ctr := s.stw.ctr
      bundles := s.stw.bundles, revoked := s.stw.revoked, lifecycle := s.stw.lifecycle, transitions := s.stw.transitions
      redeploys := s.stw.redeploys, certsHeld := s.stw.certsHeld, secretOk := s.stw.secretOk }
    reset_ := { archive := s.reset_.archive, newest := s.reset_.newest } }

/-- The input allows a start (R487, R488): both blades at or above 43.0 V for 10 ms, the pin high, and no
earlier overvoltage that has not been over for 10 ms. -/
def PowerSt.mayStart (p : PowerSt) : Bool := 10000 ≤ p.goodFor && !p.pinLow && !p.highHold && !p.cut

/-- POWER_ON (R487, R468, R485): every register takes its reset value, and the power-on reset, cause 0, begins with the boot. -/
def powerOnStep (s : State) : State :=
  if s.power.on || !s.power.mayStart then s
  else
    let now := s.time.ticks
    let r : PartReset := { quads := 15, phase := 4, cause := 0, from_ := now, since := now, units := [] }
    let s := s.unpowered
    let s := { s with reset_ := { s.reset_ with pkg := some r } }
    (s.onLast [0, 1, 2, 3] (fun l => l.begun 4 0 true)).boot

/-! ## VIN_SAMPLE (R488) -/

/-- Successive samples of a condition. -/
def streak (n : Nat) (c : Bool) : Nat := if c then n + 1 else 0

/-- What the monitor counts at one sample of the two blades, in units of 0.1 V. -/
def PowerSt.sample (p : PowerSt) (a b : Nat) : PowerSt :=
  let v := min a b
  let fine := streak p.fineFor (v ≤ 560)
  { p with
    goodFor := streak p.goodFor (430 ≤ v)
    lowFor := streak p.lowFor (420 ≤ v && v < 440)
    veryLowFor := streak p.veryLowFor (v < 420)
    highFor := streak p.highFor (560 < v && v ≤ 600)
    fineFor := fine
    highHold := p.highHold && decide (fine < 10000)
    cut := decide (600 < v) || (p.cut && !decide (10000 ≤ fine)) }

/-- A package reset of cause 5 takes place, if the package is powered (R469). -/
def State.trouble (s : State) (flag : Nat) : State := (s.onPower (fun p => p.envFlag flag true)).startPkg 5

/-- VIN_SAMPLE (R488): one sample of 1 µs. -/
def vinSampleStep (a b : Nat) (s : State) : State :=
  let v := min a b
  let s := s.onPower (fun p => p.sample a b)
  let p := s.power
  if !p.on then s
  else
    let s := s.onPower (fun p => p.envField 0 10 v)
    if 600 < v ∨ v < 400 ∨ 10 < p.veryLowFor then s.powerLoss
    else if 100 < p.highFor then (s.trouble 45).onPower (fun p => { p with highHold := true })
    else if 1000 < p.lowFor then s.trouble 44
    else s

/-! ## PKG_RESET_N (R494) -/

/-- PKG_RESET_PIN (R494): the pin has been low for 10 µs. -/
def pkgResetPinStep (s : State) : State := (s.onPower (fun p => { p with pinLow := true })).startPkg 0

/-- PKG_RESET_N_RELEASE (R494): the pin is high again; a reset that waits at phase 3 may go on. -/
def pkgResetReleaseStep (s : State) : State := s.onPower (fun p => { p with pinLow := false })

/-! ## PKG_ALERT_N and THERM_TRIP_N (R492, R494) -/

/-- PKG_ALERT_N: low while a W1C flag of STW_ENV_STATUS is set, and released with PD_STW_CTL off. -/
def State.pkgAlertN (s : State) : Bool := !(bit s.reset_.pd 88 && fld s.power.env 44 5 != 0)

/-- THERM_TRIP_N: low while the thermal trip holds, which outlasts the power-down (log 105). -/
def State.thermTripN (s : State) : Bool := !s.power.trip

/-! ## THERMAL_SAMPLE (R498 to R500) -/

/-- A sample of the 65 sensors: one that it says nothing of has failed (R500). -/
def wholeSample (e : EnvSample) : EnvSample := { e with dies := (List.range 65).map (fun i => (e.dies[i]?).join) }

/-- A sensor's reading; a failed one is taken as 95 °C (R500). -/
def reading (t : Option Nat) : Nat := t.getD 95

/-- One reading of every sensor: the environmental status (R500) and the hold of best-effort issue (R498). The Bursar makes the hold:
one that does not run holds issue at 0 anyway (R435). -/
def PowerSt.warm (p : PowerSt) (e : EnvSample) : PowerSt :=
  let ts := e.dies.map reading
  let top := ts.foldl max 0
  let inlet := reading e.inlet
  let p := ((((p.envField 10 13 e.pinW).envField 23 7 top).envField 30 7 inlet).envField 37 7 (reading e.outlet))
  let p := ((p.envFlag 46 (95 ≤ top)).envFlag 47 (42 < inlet)).envFlag 48 ((e.dies ++ [e.inlet, e.outlet]).any (fun t => t.isNone))
  let hold := decide (95 ≤ top) || decide (42 < inlet) || (p.thermalHold && !(top < 90 && inlet < 40))
  { p with thermalHold := hold, beFraction := if hold then 0 else p.beFraction }

/-- Successive readings of each die at or above 105 °C (R499), by its place in the sample. -/
def PowerSt.hot (p : PowerSt) (e : EnvSample) : PowerSt :=
  let ts := e.dies.map reading
  let hotFor := (List.range ts.length).foldl (fun t i => sset 0 t i (streak (sget 0 p.hotFor i) (105 ≤ ts.getD i 0))) []
  { p with hotFor := hotFor }

/-- The thermal trip (R499): 110 °C at a reading, or 105 °C over 100 ms of readings of 10 µs. -/
def PowerSt.tripped (p : PowerSt) (e : EnvSample) : Bool :=
  (e.dies.map reading).any (fun t => 110 ≤ t) || p.hotFor.any (fun x => 10000 < x.2)

/-- THERMAL_SAMPLE (R498, R499). -/
def thermalSampleStep (e : EnvSample) (s : State) : State :=
  if !s.power.on then s
  else
    let s := s.onPower (fun p => (p.warm e).hot e)
    if s.power.tripped e then (s.onPower (fun p => { p with trip := true })).startPkg 5
    else if (e.dies.map reading).all (fun t => t < 85) then s.onPower (fun p => { p with trip := false })
    else s

/-! ## The meanings -/

def execPowerOn (s : State) : Host.Outcome State Fault Refusal := .next (s.resetFrame (powerOnStep s))

def execVinSample (a b : Nat) (s : State) : Host.Outcome State Fault Refusal := .next (s.resetFrame (vinSampleStep a b s))

def execPkgResetPin (s : State) : Host.Outcome State Fault Refusal := .next (s.resetFrame (pkgResetPinStep s))

def execPkgResetNRelease (s : State) : Host.Outcome State Fault Refusal :=
  .next { s with power := { s.power with pinLow := (pkgResetReleaseStep s).power.pinLow } }

def execThermalSample (e : EnvSample) (s : State) : Host.Outcome State Fault Refusal :=
  .next (s.resetFrame (thermalSampleStep (wholeSample e) s))

end Sys2Proof.Machine
end

