-- ==== Sys2Proof/Machine/Packets.lean ====
section
/-!
DEFINITION. Packets that arrive on the Plemon links (R287, R288, R310 to R319): the link layer, the checks of a job's packets,
transit, landing, and what each kind does at its destination (R206, R207, R249, R253, R335, R349, R364).
-/
namespace Sys2Proof.Machine

/-! ## The link layer (R287 to R289) -/

/-- A packet fails its check, or lies in a codeword that cannot be corrected: it will be replayed (R288). Sixteen replays within
1 ms take the link down (R289). -/
def State.replayed (s : State) (l : Nat) : State :=
  let now := s.time.ticks
  s.onLink l (fun k =>
    let recent := k.replayAt.filter (fun t => decide (now < t + 1000000 * nsT)) ++ [now]
    let k := { k with replays := satAdd k.replays 1, replayAt := recent }
    if 16 ≤ recent.length then { k with up := false, lost := true, replayAt := [] } else k)

/-- The header-only packet that carries acknowledgement and credit when no other packet is waiting (R288, R314). -/
def State.creditPacket (s : State) (l : Nat) : Packet := s.newPacket 10 3 0 (s.link l).peerId.toNat 0x1FF 0x1FF 0 0 []

/-- A packet for this package: the requests of its port at the memory controllers are granted up to it (R68, R69). -/
def State.portGranted (s : State) (l : Nat) (p : Packet) : State :=
  if p.dstPkg.toNat = s.ownId then s.onMem (fun m => m.grant (sourcePort (s.plan.portOf l))) else s

/-- A packet arrives on a link (R287, R288): the code's counts, the check, the acknowledgement it carries, and its place in the
order, each number once. What it does is `f`; if nothing else goes out on the link, a CREDIT packet acknowledges it. -/
def State.arrive (s : State) (a : Arrival) (f : State → State) : State :=
  let l := a.link.val
  if !(s.link l).up then s
  else
    let s := s.onLink l (fun k => { k with
      fecCorrected := satAdd k.fecCorrected a.fixed, fecUncorrectable := satAdd k.fecUncorrectable a.bad })
    if !a.crcOk || a.bad != 0 then s.replayed l
    else
      let s := s.ackLink l a.pkt.ack
      if a.pkt.seq ≠ (s.link l).rxSeq + 1 then s
      else
        let s := (s.onLink l (fun k => { k with rxSeq := a.pkt.seq })).portGranted l a.pkt
        if a.pkt.kind = 10 then s
        else
          let sent := (s.link l).txSeq
          let s := f s
          if (s.link l).up && (s.link l).txSeq == sent then s.transmit l (s.creditPacket l) else s

/-! ## The checks of a job's packets (R316 to R318) -/

/-- The epoch of a packet is the job's, or within 64 beats of a commit the one before (R316). -/
def State.epochOk (s : State) (p : Packet) : Bool :=
  p.epoch == jEpoch (s.jobEntry p.job.toNat) ||
  (sget none s.fabric.prevEpoch p.job.toNat).any (fun x => x.1 == p.epoch && decide (s.beat < x.2))

/-- The partition that runs job `j` resets on a member-down notice (R474). -/
def State.noticeReset (s : State) (j : Nat) : Bool :=
  (s.jobPart j).any (fun p => (sget none s.reset_.parts p).any (fun r => r.cause == 6))

/-- Checks 1 to 4 of R317 for a packet on link `l`: why it is dropped. A SYSTEM packet belongs to the system job alone (R314). One that
a member-down notice has made undeliverable is dropped by R318, whatever its epoch (R319). -/
def State.linkDrop (s : State) (l : Nat) (p : Packet) : Option Drop :=
  let j := p.job.toNat
  if 11 ≤ p.kind.toNat || 8 < p.len.toNat || (p.kind == 9 && p.job != 0) then some .other
  else if p.kind = 9 then none
  else if !jValid (s.jobEntry j) then some .job
  else if s.noticeReset j && s.plan.member j p.srcPkg.toNat && p.dstPkg.toNat == s.ownId then some .land
  else if !s.epochOk p then some .epoch
  else if !s.plan.usedPort j (s.plan.portOf l) || !s.plan.member j p.srcPkg.toNat || !s.plan.member j p.dstPkg.toNat then some .member
  else none

/-- A packet that the link layer delivers (R310, R317, R318): dropped and counted at this hub, passed on, or landed by `f`. -/
def State.deliver (s : State) (l : Nat) (p : Packet) (f : State → State) : State :=
  let h := l / 5
  match s.linkDrop l p with
  | some d => s.drop h d
  | none => match s.nextHop h (some (s.plan.portOf l)) p with
    | .none => s.drop h .other
    | .go port p => if s.plan.usedPort p.job.toNat port then s.sendOn port h p else s.drop h .other
    | .land =>
      if p.kind = 9 then f s else if s.landOk p then f s else s.drop h .land

/-- The package's staged set has its GO and its commit beat has come: it takes effect before any packet of a job that arrives from that
beat on (R319). -/
def State.commitDue (s : State) : Bool := s.stage.run.any (fun r => r.go && decide (r.commit ≤ s.beat))

/-- A packet of a row: the link layer, the checks, and what it does at its destination. A packet of a job comes after the commit of its
beat (R319). -/
def State.receive (s : State) (a : Arrival) (f : State → State) : State :=
  if a.pkt.kind != 9 && s.commitDue then s else s.arrive a (fun s => s.deliver a.link.val a.pkt f)

/-! ## WRITE, READ_REQ and READ_RSP (R206, R249, R253, R335) -/

/-- Pieces (address, length) of [a, a + n) cut at the 512-byte granules (R291). -/
def granuleCuts : Nat → Addr → Nat → List (Addr × Nat)
  | 0, _, _ => []
  | fuel + 1, a, n => if n = 0 then [] else
      let k := min n (512 - a % 512)
      (a, k) :: granuleCuts fuel (a + k) (n - k)

/-- The answers to a READ_REQ (R249, R253): one READ_RSP packet for each granule of the destination, up to the first block that is
uncorrectable, for which bit 31 of aux says that nothing follows. -/
def State.answerRead (s : State) (p : Packet) : List (Addr × Nat) → State
  | [] => s
  | (d, n) :: t =>
    let job := p.job.toNat
    let (s, r) := s.hubRead job (p.addr.toNat + (d - reqDst p)) n
    let rsp (aux : Nat) (bs : List Byte) : Packet := s.newPacket 2 1 job p.srcPkg.toNat 0x1FF p.srcCluster.toNat d aux bs
    match r with
    | none => s.inject (rsp (2 ^ 31) [])
    | some bs => (s.inject (rsp n bs)).answerRead p t

/-- READ_REQ (R249). -/
def State.landReadReq (s : State) (p : Packet) : State :=
  s.answerRead p (granuleCuts (reqLen p + 1) (reqDst p) (reqLen p))

/-- A request of the partner's resync that R318 turns away is answered with an error: its range lies outside the partition here, and
the resync ends (R478). -/
def State.refuseRead (s : State) (l : Nat) (p : Packet) : State :=
  if s.linkDrop l p = none ∧ s.nextHop (l / 5) (some (s.plan.portOf l)) p = .land ∧ s.landOk p = false ∧ p.srcCluster = 0x1FF ∧
      s.plan.twin = some p.srcPkg.toNat then
    s.inject (s.newPacket 2 1 p.job.toNat p.srcPkg.toNat 0x1FF 0x1FF (reqDst p) (2 ^ 31) [])
  else s

def readReqStep (a : Arrival) (s : State) : State :=
  let l := a.link.val
  if s.commitDue then s else s.arrive a (fun s => (s.deliver l a.pkt (fun s => s.landReadReq a.pkt)).refuseRead l a.pkt)

/-- The RECV under way that a READ_RSP packet answers (R249): it names the source and holds the destination. -/
def recvFor (p : Packet) (h : HubCmd) : Bool :=
  let a := p.addr.toNat
  let dst := addrPair h.q.cmd 7
  h.under 0xD6 && wfld h.q.cmd 10 0 13 == p.srcPkg.toNat && decide (dst ≤ a ∧ a < dst + srBytes h.q.cmd)

/-- A RECV takes an answer: `n` bytes more are settled, and it ends with the last (R249, R253). -/
def HubCmd.take (h : HubCmd) (n : Nat) (ok : Bool) (clock : Nat) : HubCmd :=
  let left := h.left - n
  let bad := h.bad || !ok
  { h with left := left, bad := bad, done := if left = 0 then some (if bad then stMem else stOk, 0, clock) else none }

/-- The resync's copy takes an answer (R478): `n` bytes of the range that holds `a` are settled; an error ends it FAILED. -/
def ResetSt.copied (r : ResetSt) (a n : Nat) (ok : Bool) : ResetSt :=
  let left := onFirst (fun x => decide (x.1 ≤ a ∧ a < x.1 + x.2.1)) (fun x => (x.1, x.2.1, x.2.2 - n)) r.rsLeft
  if !ok then { r with rsState := 4, rsLeft := [], rsReady := none }
  else { r with rsLeft := left.filter (fun x => x.2.2 != 0) }

/-- A READ_RSP packet of the resync's copy (R478). -/
def State.resyncRsp (s : State) (p : Packet) : Bool :=
  s.reset_.rsState == 2 && rsJob s.reset_.rsCtl == p.job.toNat && p.dstCluster == 0x1FF && s.plan.twin == some p.srcPkg.toNat

/-- READ_RSP (R249, R253, R478): written for the RECV or the resync that asked; without one it is discarded. -/
def State.landReadRsp (s : State) (h : Nat) (p : Packet) : State :=
  let bs := filled p
  let a := p.addr.toNat
  let c := p.dstCluster.toNat
  let done (s : State) (k : HubCmd) (n : Nat) (ok : Bool) : State :=
    s.onCl c (fun x => { x with hubq := onFirst (fun y => y == k) (fun y => y.take n ok s.time.ticks) x.hubq })
  match (if p.dstCluster = 0x1FF then none else (s.cl c).hubq.find? (recvFor p)) with
  | some k =>
    if bit p.aux 31 then done s k (addrPair k.q.cmd 7 + srBytes k.q.cmd - a) false
    else
      let (s, ok) := s.hubWrite p.job.toNat (ownerHub h) a bs
      done (if ok then s else s.drop h .land) k bs.length ok
  | none =>
    if s.resyncRsp p then
      if bit p.aux 31 then { s with reset_ := s.reset_.copied a 0 false }
      else
        let (s, ok) := s.hubWrite p.job.toNat (ownerHub h) a bs
        let s := if ok then s else s.drop h .land
        { s with reset_ := s.reset_.copied a bs.length ok }
    else s

/-! ## REMOTE_SIGNAL (R207, R208) -/

/-- The hub of a signal's cluster holds as many signals as it can: it gives no credit for more, so none arrives (R208). -/
def State.signalsFull (s : State) (p : Packet) : Bool :=
  s.nextHop 0 none p == .land && 512 ≤ (s.hub (hubOf p.dstCluster.toNat)).heldSignals.length

def remoteSignalStep (a : Arrival) (s : State) : State :=
  if s.signalsFull a.pkt then s else s.receive a (fun s => s.landSignal a.pkt)

/-! ## The rows -/

/-- What a packet changes: the links, the memory, what the collective engines and the Registrar do with it, and the resync's copy. -/
def State.packetFrame (s t : State) : State :=
  { s.taskFrame t with reset_ := { s.reset_ with
      fcBeyond := t.reset_.fcBeyond, rsAsked := t.reset_.rsAsked, rsState := t.reset_.rsState, rsLeft := t.reset_.rsLeft,
      rsReady := t.reset_.rsReady } }

/-- A row that is a packet of kind `k`. -/
def packetRow (k : Nat) (a : Arrival) (f : State → State) (s : State) : Host.Outcome State Fault Refusal :=
  formed (a.pkt.wf k) s (s.packetFrame (f s).settle)

/-- A packet of the collective engines (R353, R364): landed, then what it completes. -/
def reductionStep (a : Arrival) (s : State) : State := s.receive a (fun s => (s.redLand (a.link.val / 5) a.pkt s.now).afterHub)

def execWrite (a : Arrival) (s : State) : Host.Outcome State Fault Refusal :=
  packetRow 0 a (fun s => s.receive a (fun s => s.landWrite (a.link.val / 5) a.pkt)) s

def execReadReq (a : Arrival) (s : State) : Host.Outcome State Fault Refusal :=
  packetRow 1 a (readReqStep a) s

def execReadRsp (a : Arrival) (s : State) : Host.Outcome State Fault Refusal :=
  packetRow 2 a (fun s => s.receive a (fun s => s.landReadRsp (a.link.val / 5) a.pkt)) s

def execRemoteSignal (a : Arrival) (s : State) : Host.Outcome State Fault Refusal :=
  packetRow 3 a (remoteSignalStep a) s

def execContrib (a : Arrival) (s : State) : Host.Outcome State Fault Refusal :=
  packetRow 4 a (reductionStep a) s

def execContribTopk (a : Arrival) (s : State) : Host.Outcome State Fault Refusal :=
  packetRow 5 a (reductionStep a) s

def execFragment (a : Arrival) (s : State) : Host.Outcome State Fault Refusal :=
  packetRow 6 a (reductionStep a) s

def execResult (a : Arrival) (s : State) : Host.Outcome State Fault Refusal :=
  packetRow 7 a (reductionStep a) s

def execTwin (a : Arrival) (s : State) : Host.Outcome State Fault Refusal :=
  packetRow 8 a (reductionStep a) s

def execCredit (a : Arrival) (s : State) : Host.Outcome State Fault Refusal :=
  packetRow 10 a (fun s => s.receive a id) s

/-! ## Messages of staged commit and of system time (R327, R349, R351) -/

/-- Fields of a STAGE message (R351). -/
def smId (m : List Byte) : W32 := BitVec.ofNat 32 (nfld (leNat m) 100 32)
def smJob (m : List Byte) : Nat := nfld (leNat m) 132 10
def smScope (m : List Byte) : Nat := nfld (leNat m) 142 2
def smCommit (m : List Byte) : Nat := nfld (leNat m) 144 54
def smDigest (m : List Byte) : W64 := BitVec.ofNat 64 (nfld (leNat m) 198 64)
def smResult (m : List Byte) : BitVec 8 := BitVec.ofNat 8 (nfld (leNat m) 262 8)
def smBit (m : List Byte) : Bool := (leNat m).testBit 270

/-- A set that concerns one package alone is decided without messages (R348). -/
def smRemote (m : List Byte) : Bool := smScope m == 1 || smScope m == 2

/-- STAGE_REPORT (R349): the root takes a member's report; one that comes after its decision finds no use. -/
def State.takeReport (s : State) (src : Nat) (m : List Byte) : State :=
  let scope := smScope m
  let job := smJob m
  if !smRemote m || (s.stageWho scope job).1 != s.ownId || smCommit m - 4 - s.stageDg scope job ≤ s.beat then s
  else s.onRoot (smId m) scope job (smCommit m) none (fun r => r.report src (smDigest m) (smResult m) (smBit m))

def stageReportStep (a : Arrival) (s : State) : State :=
  s.receive a (fun s => s.takeReport a.pkt.srcPkg.toNat a.pkt.payload)

def stageGoStep (a : Arrival) (s : State) : State :=
  let m := a.pkt.payload
  s.receive a (fun s => if smRemote m then s.takeGo (smId m) (smScope m) (smJob m) (smCommit m) none (smBit m) else s)

def stageAbandonStep (a : Arrival) (s : State) : State :=
  let m := a.pkt.payload
  s.receive a (fun s => if smRemote m then s.takeAbandon (smId m) (smScope m) (smJob m) (smCommit m) none else s)

def timeSyncStep (a : Arrival) (s : State) : State :=
  s.receive a (fun s => s.takeSync a.link.val a.pkt.payload)

/-- A row that is a SYSTEM packet of subkind `k`. -/
def systemRow (k : Nat) (a : Arrival) (s t : State) : Host.Outcome State Fault Refusal :=
  formed (a.pkt.wfSystem k) s t

def execStageReport (a : Arrival) (s : State) : Host.Outcome State Fault Refusal :=
  systemRow 2 a s (s.stageFrame (stageReportStep a s))

def execStageGo (a : Arrival) (s : State) : Host.Outcome State Fault Refusal :=
  systemRow 3 a s (s.stageFrame (stageGoStep a s))

def execStageAbandon (a : Arrival) (s : State) : Host.Outcome State Fault Refusal :=
  systemRow 4 a s (s.stageFrame (stageAbandonStep a s))

def execTimeSync (a : Arrival) (s : State) : Host.Outcome State Fault Refusal :=
  systemRow 1 a s (s.timeFrame (timeSyncStep a s))

end Sys2Proof.Machine
end

