-- ==== Sys2Proof/Machine/Recovery.lean ====
section
/-!
DEFINITION. Loss of links and of members, and the return of a member (R250, R289, R292, R378, R383, R472 to R479).
-/
namespace Sys2Proof.Machine

/-! ## Notices (R474 to R476) -/

/-- The loss of one twin of a pair whose other twin stands (R464, R476). -/
def State.oneTwin (s : State) (j member : Nat) : Bool := jTwin (s.jobEntry j) && !s.noticed j (s.partner member)

/-- A resync is under way with the package's partner for a job (R478). -/
def State.resyncWith (s : State) (j member : Nat) : Bool :=
  (s.reset_.rsState == 1 || s.reset_.rsState == 2) && rsJob s.reset_.rsCtl == j && s.plan.twin == some member

/-- The resync ends FAILED (R478). -/
def State.endResync (s : State) : State := { s with reset_ := { s.reset_ with rsState := 4, rsLeft := [], rsReady := none } }

/-- A notice for (job, member) reaches this package (R475, R476): the first is counted (R486), fails or completes contexts (R378,
R383), ends the RECVs of that member (R250) and a resync with it (R478); a second changes nothing. -/
def State.takeNotice (s : State) (j member : Nat) : State :=
  if s.noticed j member || !s.plan.member j member || !s.plan.member j s.ownId || member = s.ownId then s
  else
    let single := s.oneTwin j member
    let s := { s with
      fabric := { s.fabric with notices := s.fabric.notices ++ [(j, member)] }
      reset_ := { s.reset_ with
        fcFailovers := if single then satAdd s.reset_.fcFailovers 1 else s.reset_.fcFailovers
        fcBeyond := if single then s.reset_.fcBeyond else satAdd s.reset_.fcBeyond 1 } }
    let s := if s.resyncWith j member then s.endResync else s
    (s.failNoticed j).peerDown.afterHub

/-- Member and job of a notice, and its other fields (R472). -/
def nMember (m : List Byte) : Nat := nfld (leNat m) 16 13
def nJob (m : List Byte) : Nat := nfld (leNat m) 32 10
def nBeat (m : List Byte) : Nat := nfld (leNat m) 128 54
def nStep (m : List Byte) : W64 := BitVec.ofNat 64 (nfld (leNat m) 192 64)
def nLoss (m : List Byte) : BitVec 8 := BitVec.ofNat 8 (nfld (leNat m) 256 8)

/-- MEMBER_DOWN (R475). -/
def memberDownStep (a : Arrival) (s : State) : State :=
  s.receive a (fun s => s.takeNotice (nJob a.pkt.payload) (nMember a.pkt.payload))

/-- MEMBER_DOWN_PROXY (R474, R475): one that names this package resets the partition that runs the job, with cause 6. -/
def memberDownProxyStep (a : Arrival) (s : State) : State :=
  let j := nJob a.pkt.payload
  let n := nMember a.pkt.payload
  s.receive a (fun s =>
    if n = s.ownId then (s.jobPart j).elim s (fun p => if s.plan.member j n then s.startPart p 6 else s)
    else s.takeNotice j n)

/-! ## LINK_DOWN (R289, R292, R474) -/

/-- Every link down on which the last valid beacon named package `n` (R474). -/
def State.cutFrom (s : State) (n : Nat) : Bool :=
  (List.range 20).all (fun l => !((s.link l).named && (s.link l).peerId.toNat == n && (s.link l).up))

/-- MEMBER_DOWN_PROXY on behalf of package `n`, for every job of which both are members: to every other member, and to this package
itself (R474, R486). -/
def State.proxyFor (s : State) (n : Nat) : State :=
  let js := (List.range 1024).filter (fun j => s.plan.member j n && s.plan.member j s.ownId)
  js.foldl (fun s j =>
    let dests := (s.others j).filter (fun m => m != n)
    let s := s.notify dests { sub := 0x11, member := n, job := j, qmask := jQmask (s.jobEntry j), time := s.now }
    (s.countNotices dests.length).takeNotice j n) s

/-- LINK_DOWN (R289, R292, R474): `last` is what the neighbour says it received last on the link. -/
def linkDownStep (l : Nat) (last : BitVec 12) (s : State) : State :=
  let k := s.link l
  if !(k.up || k.lost) then s
  else
    let n := k.peerId.toNat
    let s := s.loseLink l last
    if k.named && n != s.ownId && s.cutFrom n then s.proxyFor n else s

/-! ## MEMBER_UP and the release of a rejoin (R475, R477, R478) -/

/-- A step of a job is to be released at beat `b`, with clean_count set to 0 (R477, R478). -/
def State.releaseAtBeat (s : State) (j b : Nat) : State :=
  programs.foldl (fun s x => if (s.taskInSlot x.1 x.2).any (fun t => t.job == j && tdStep t.desc) then
    s.onSrec x.1 x.2 (fun r => if r.released then r else { r with releaseAt := some b, rejoin := true }) else s) s

/-- The MEMBER_UP of a member ends the resync hold of a job: in twin mode, that of its own pair (R478). -/
def State.holdEnds (s : State) (j member : Nat) : Bool :=
  rhJob s.reset_.rsHold == j && (!jTwin (s.jobEntry j) || rhPair s.reset_.rsHold == s.primary member)

/-- MEMBER_UP (R475, R477, R478): the notice for that member ends, and a hold of its pair; the step waits for its beat. -/
def State.takeMemberUp (s : State) (j member b : Nat) : State :=
  let s := { s with fabric := { s.fabric with notices := s.fabric.notices.filter (fun x => x != (j, member)) } }
  let s := { s with reset_ := { s.reset_ with rsHolding := s.reset_.rsHolding && !s.holdEnds j member } }
  s.releaseAtBeat j b

def memberUpStep (a : Arrival) (s : State) : State :=
  let m := a.pkt.payload
  s.receive a (fun s => if s.plan.member (nJob m) s.ownId then s.takeMemberUp (nJob m) (nMember m) (nBeat m) else s)

/-- Programs of a job that wait for a release beat, with the beat. -/
def State.waitingRelease (s : State) (j : Nat) : List (Nat × Nat × Nat) :=
  programs.filterMap (fun x =>
    if (s.taskInSlot x.1 x.2).any (fun t => t.job == j) then (s.srec x.1 x.2).releaseAt.map (fun b => (x.1, x.2, b)) else none)

/-- REJOIN_RELEASE (R477): at beat B the step is released. -/
def rejoinReleaseStep (j : Nat) (s : State) : State :=
  if !s.regOn then s
  else (s.waitingRelease j).foldl (fun s x =>
    let s := s.runToNow (1024 * x.2.2)
    (s.onSrec x.1 x.2.1 (fun r => { r with releaseAt := none })).releaseStep x.1 x.2.1) s

/-! ## Resynchronisation of a twin (R478, R479) -/

/-- A message of the resync to the partner (R472). -/
def State.tellTwin (s : State) (sub j : Nat) : State :=
  match s.plan.twin with
  | none => s
  | some t => s.notify [t] { sub := sub, member := s.ownId, job := j, qmask := jQmask (s.jobEntry j), time := s.now }

/-- A write of STW_RESYNC_CTL (R479): it is kept; with arm 1 the resync starts, unless one runs, which goes on with the fields that
started it. -/
def State.resyncCtl (s : State) (v : W64) : State :=
  let s := { s with reset_ := { s.reset_ with rsWritten := BitVec.ofNat 64 (fld v 0 16) } }
  if s.reset_.rsState = 1 ∨ s.reset_.rsState = 2 then s
  else
    let s := { s with reset_ := { s.reset_ with rsCtl := s.reset_.rsWritten } }
    if !rsArm v then s
    else
      let j := rsJob v
      let s := { s with reset_ := { s.reset_ with rsState := 1, rsLeft := [], rsReady := none } }
      match s.plan.twin with
      | none => s.endResync
      | some t => if !jTwin (s.jobEntry j) || !s.plan.member j s.ownId || s.noticed j t then s.endResync else s.tellTwin 0x13 j

/-- Address of STW_RESYNC_CTL (R479). -/
def resyncCtlReg : Addr := rstPage + 0x60

def resyncArmStep (v : W64) (s : State) : State := s.writeRow none resyncCtlReg 8 v (fun s => s.resyncCtl v)

/-- RESYNC_REQ (R478 step 4): answered at the hold. -/
def resyncReqStep (a : Arrival) (s : State) : State :=
  s.receive a (fun s => State.answerResync { s with reset_ := { s.reset_ with
    rsAsked := some (BitVec.ofNat 10 (nJob a.pkt.payload), a.pkt.srcPkg) } })

/-- The ranges of STW_RESYNC_LIST (R478, R479): none when the list cannot be read, or a range is misaligned or outside the job's
partition. -/
def State.resyncRanges (s : State) (p : Nat) : State × Option (List (Nat × Nat)) :=
  let base := fld s.reset_.rsList 6 42 * 64
  let n := fld s.reset_.rsList 48 16
  if n = 0 then (s, some [])
  else if !(s.inHbm p base (16 * n) && s.offCarve base (16 * n)) then (s, none)
  else match s.read base (16 * n) with
    | (s, none) => (s, none)
    | (s, some bs) =>
      let rs := (List.range n).map (fun i =>
        let w := leNat ((bs.drop (16 * i)).take 16)
        (nfld w 0 64, nfld w 64 64))
      (s, if rs.all (fun r => r.1 < 2 ^ 48 && r.1 % 64 == 0 && r.2 % 64 == 0 && s.rangeOk p r.1 r.2) then
        some (rs.filter (fun r => r.2 != 0)) else none)

/-- The requests of the copy (R478 step 5): one READ_REQ for each range, to the same addresses at the partner. -/
def State.askRanges (s : State) (j t : Nat) (rs : List (Nat × Nat)) : State :=
  s.injectAll (rs.map (fun r => s.newPacket 1 0 j t 0x1FF 0x1FF r.1 0 (leBytes (r.1 + r.2 * 2 ^ 64) 16)))

/-- RESYNC_READY (R478 steps 4 and 5): the copy begins. -/
def State.takeReady (s : State) (j src : Nat) (step : W64) (lexp : BitVec 8) : State :=
  if s.reset_.rsState ≠ 1 ∨ rsJob s.reset_.rsCtl ≠ j ∨ s.plan.twin ≠ some src then s
  else match s.jobPart j with
    | none => s.endResync
    | some p => match s.resyncRanges p with
      | (s, none) => s.endResync
      | (s, some rs) =>
        let s := { s with reset_ := { s.reset_ with
          rsState := 2, rsReady := some (step, lexp), rsLeft := rs.map (fun (r : Nat × Nat) => (r.1, r.2, r.2)) } }
        s.askRanges j src rs

def resyncReadyStep (a : Arrival) (s : State) : State :=
  let m := a.pkt.payload
  s.receive a (fun s => s.takeReady (nJob m) a.pkt.srcPkg.toNat (nStep m) (nLoss m))

/-- L of the partner, for a program whose task runs; kept for its start otherwise (R478 step 6). -/
def State.adoptLoss (s : State) (p k b : Nat) (lexp : BitVec 8) : State :=
  if (s.taskInSlot p k).isSome then
    let s := s.onSrec p k (fun r => { r with lexp := lexp, releaseAt := some b, rejoin := true })
    { s with reset_ := { s.reset_ with rsReady := none } }
  else s.onPart p (fun t => { t with tasks := onFirst (fun u => tdSlot u.desc == k) (fun u => { u with rejoinAt := some b }) t.tasks })

/-- RESYNC_COPY_DONE (R478 step 6): every range has been copied. The package takes L, and tells its partner and every member;
its own MEMBER_UP ends its own hold too. -/
def resyncCopyDoneStep (s : State) : State :=
  match s.reset_.rsState.toNat, s.reset_.rsLeft, s.reset_.rsReady with
  | 2, [], some (step, lexp) =>
    let j := rsJob s.reset_.rsCtl
    let b := s.rejoinBeat j s.beat
    let s := { s with reset_ := { s.reset_ with rsState := 3, rsHolding := s.reset_.rsHolding && !s.holdEnds j s.ownId } }
    let s := (s.tellTwin 0x15 j).sendMemberUp j b step
    s.adoptLoss (s.partOf (rsQuad s.reset_.rsCtl)) (rsSlot s.reset_.rsCtl) b lexp
  | _, _, _ => s

/-- RESYNC_DONE (R478 step 6): the partner's resync has ended, and no request of its waits any more. -/
def resyncDoneStep (a : Arrival) (s : State) : State :=
  s.receive a (fun s => { s with reset_ := { s.reset_ with rsAsked := none } })

/-! ## The meanings -/

/-- What the loss and the return of a member change. -/
def State.recoverFrame (s t : State) : State :=
  { s.taskFrame t with stw := { s.stw with events := t.stw.events, errlog := t.stw.errlog }, reset_ := t.reset_ }

def execLinkDown (l : LinkId) (last : BitVec 12) (s : State) : Host.Outcome State Fault Refusal :=
  .next (s.recoverFrame (linkDownStep l.val last s).settle)

def execMemberDown (a : Arrival) (s : State) : Host.Outcome State Fault Refusal :=
  systemRow 0x10 a s (s.recoverFrame (memberDownStep a s).settle)

def execMemberDownProxy (a : Arrival) (s : State) : Host.Outcome State Fault Refusal :=
  systemRow 0x11 a s (s.resetFrame (memberDownProxyStep a s).settle)

def execMemberUp (a : Arrival) (s : State) : Host.Outcome State Fault Refusal :=
  systemRow 0x12 a s (s.recoverFrame (memberUpStep a s).settle)

def execRejoinRelease (j : JobId) (s : State) : Host.Outcome State Fault Refusal :=
  .next (s.recoverFrame (rejoinReleaseStep j.val s).settle)

def execResyncArm (v : W64) (s : State) : Host.Outcome State Fault Refusal :=
  .next (s.recoverFrame (resyncArmStep v s).settle)

def execResyncReq (a : Arrival) (s : State) : Host.Outcome State Fault Refusal :=
  systemRow 0x13 a s (s.recoverFrame (resyncReqStep a s).settle)

def execResyncReady (a : Arrival) (s : State) : Host.Outcome State Fault Refusal :=
  systemRow 0x14 a s (s.recoverFrame (resyncReadyStep a s).settle)

def execResyncCopyDone (s : State) : Host.Outcome State Fault Refusal :=
  .next (s.recoverFrame (resyncCopyDoneStep s).settle)

def execResyncDone (a : Arrival) (s : State) : Host.Outcome State Fault Refusal :=
  systemRow 0x15 a s (s.recoverFrame (resyncDoneStep a s).settle)

end Sys2Proof.Machine
end

