-- ==== Sys2Proof/Machine/Security.lean ====
section
/-!
DEFINITION. Feature negotiation, the partition layout, anti-rollback, attestation, the lifecycle, and the steward's attachment (R59,
R430, R446, R447, R453 to R461).
-/
namespace Sys2Proof.Machine

def State.onStw (s : State) (f : StewardSt → StewardSt) : State := { s with stw := f s.stw }

/-- The Custodian serves. -/
def State.custodianOn (s : State) : Bool := s.stw.custodian.st == .running && !s.dark

/-! ## Negotiation (R445 to R447) -/

/-- A partition's submission ring is enabled: writes that would repeat the evaluation are ignored (R447). -/
def State.ringsOn (s : State) : Bool := (List.range 4).any s.subqOn

/-- The evaluation of R447: AGREED when the majors are equal, else MISMATCH. -/
def StewardSt.evaluate (w : StewardSt) : StewardSt :=
  { w with neg := if fld w.hostIf 8 8 = fld w.ifVersion 8 8 then 1 else 2 }

/-- A write of STW_HOST_IF (R445, R447): evaluated again once the state is not OPEN. -/
def State.hostIfWrite (s : State) (v : W64) : State :=
  if s.stw.romOnly || s.ringsOn then s
  else s.onStw (fun w =>
    let w := { w with hostIf := BitVec.ofNat 64 (fld v 0 16) }
    if w.neg = 0 then w else w.evaluate)

/-- A write of word `i` of STW_FEAT_ACCEPT (R446, R447): reserved bits are ignored (R7); with the last word the agreed set is computed
and the state changes. -/
def State.acceptWrite (s : State) (i : Nat) (v : W64) : State :=
  if s.stw.romOnly || s.ringsOn then s
  else
    let s := s.onStw (fun w => { w with accept := BitVec.ofNat 256 (setFld w.accept.toNat (64 * i) 64 v.toNat % 2 ^ 71) })
    if i = 3 then s.onStw (fun w => { w with agreed := s.offer &&& w.accept }.evaluate) else s

def featAcceptStep (v : W64) (s : State) : State :=
  s.writeRow (some .custodian) (negPage + 0x58) 8 v (fun s => s.acceptWrite 3 v)

/-! ## STW_MEMCFG (R59) -/

/-- A write of STW_MEMCFG (R59): taken at the next package reset; a reserved layout is ignored whole and logged. -/
def State.memcfgWrite (s : State) (v : W32) : State :=
  if 4 < fld v 0 3 then s.hostError 5 (pkgPage + 0x50)
  else s.onStw (fun w => { w with memcfg := BitVec.ofNat 32 (fld v 0 10) })

def memcfgWriteStep (v : W32) (s : State) : State :=
  s.writeRow (some .custodian) (pkgPage + 0x50) 4 (BitVec.ofNat 64 v.toNat) (fun s => s.memcfgWrite v)

/-! ## Anti-rollback (R453, R454) -/

/-- A write of STW_SVN_COMMIT (R454): the commit runs; one made while another runs joins it (DESIGN CHOICE, log 44). -/
def State.svnCommit (s : State) (v : W64) : State :=
  let m : BitVec 3 := BitVec.ofNat 3 (fld v 0 3)
  if m = 0 then s else s.onStw (fun w => { w with svnBusy := some (m ||| w.svnBusy.getD 0) })

def svnCommitStep (v : W64) (s : State) : State :=
  s.writeRow (some .custodian) (pkgPage + 0x180) 8 v (fun s => s.svnCommit v)

/-- Raise the counters of a commit (R453, R454): none falls. -/
def raised (m : BitVec 3) (ctr svn : List Nat) : List Nat :=
  [0, 1, 2].map (fun c => if bit m c then max (ctr.getD c 0) (svn.getD c 0) else ctr.getD c 0)

/-- SVN_COMMIT_DONE (R454): the fuses are blown, and M4 is extended. -/
def svnDoneStep (s : State) : State :=
  match s.stw.svnBusy with
  | none => s
  | some m =>
    if !s.custodianOn then s
    else s.onStw (fun w =>
      let ctr := raised m w.ctr w.svn
      let d := Config.bootDigest 4 (fuseNumber w.lifecycle w.transitions ctr)
      { w with svnBusy := none, ctr := ctr, meas := w.meas.set 4 (extend (w.meas.getD 4 0) d) })

/-! ## Attestation (R455 to R458) -/

/-- The write of a non-zero op (R456): the operation starts, unless one runs, with the nonce and the buffer as they stand. -/
def State.attestStart (s : State) (op : BitVec 2) : State :=
  if s.stw.attBusy.isSome || op = 0 then s
  else s.onStw (fun w => { w with attOp := op, attBusy := some (op, w.nonce, fld w.attBuf 0 48, s.now) })

/-- A write of STW_ATTEST_CTL (R456): done is cleared by a 1; writes of op are ignored while an operation runs. -/
def State.attestCtlWrite (s : State) (v : W64) : State :=
  let s := s.onStw (fun w => { w with attDone := w.attDone && !bit v 3 })
  if s.stw.attBusy.isSome then s
  else (s.onStw (fun w => { w with attOp := BitVec.ofNat 2 (fld v 0 2) })).attestStart (BitVec.ofNat 2 (fld v 0 2))

/-- The write of an op code to STW_ATTEST_CTL. -/
def attestStep (op : BitVec 2) (s : State) : State :=
  let v : W64 := BitVec.ofNat 64 op.toNat
  s.writeRow (some .custodian) (pkgPage + 0x100) 8 v (fun s => s.attestCtlWrite v)

/-- attest has been agreed (R446, R456). -/
def State.attestAgreed (s : State) : Bool := bit s.stw.agreed 69

/-- Body of a report (R457). -/
def State.reportBody (s : State) (nonce : BitVec 384) (time : Nat) : List Byte :=
  let w := s.stw
  let seq := (if s.panel.useB then s.panel.copyB else s.panel.copyA).elim 0 (fun c => c.seq.toNat)
  let svn (c : Nat) : Nat := w.svn.getD c 0 % 256
  let m (i : Nat) : Nat := (w.meas.getD i 0).toNat * 2 ^ (896 + 384 * i)
  leBytes (1 + s.serial.toNat * 2 ^ 32 + w.lifecycle.toNat * 2 ^ 96 + svn 0 * 2 ^ 128 + svn 1 * 2 ^ 136 + svn 2 * 2 ^ 144 +
    seq * 2 ^ 160 + time % 2 ^ 64 * 2 ^ 192 + nonce.toNat * 2 ^ 256 + w.agreed.toNat * 2 ^ 640 +
    (m 0 + m 1 + m 2 + m 3 + m 4 + m 5)) 512

/-- A report (R457): body and both signatures over it. -/
def State.reportBytes (s : State) (nonce : BitVec 384) (time : Nat) : List Byte :=
  let body := s.reportBody nonce time
  body ++ leBytes (Config.signRsa body) 384 ++ leBytes (Config.signSlh body) 16224

/-- Output of an operation to its buffer: false where the buffer lies outside the carve-out, or the write is not done (R456). -/
def State.attestOut (s : State) (buf : Nat) (bs : List Byte) : State × Bool :=
  if s.inCarve buf bs.length then s.writeAck ownerHost buf bs else (s, false)

/-- What an operation does, and whether it succeeded (R455 to R458). -/
def State.attestRun (s : State) (op : BitVec 2) (nonce : BitVec 384) (buf time : Nat) : State × Bool :=
  if !s.attestAgreed then (s, false)
  else if op = 1 then
    if s.stw.lifecycle = 1 ∨ s.stw.lifecycle = 2 then s.attestOut buf (s.reportBytes nonce time) else (s, false)
  else if op = 2 then (s.onStw (fun w => { w with meas := w.meas.set 5 (extend (w.meas.getD 5 0) nonce) }), true)
  else if s.stw.certsHeld then s.attestOut buf Config.certChain
  else (s, false)

/-- ATTEST_OP_DONE (R456). -/
def attestDoneStep (s : State) : State :=
  match s.stw.attBusy with
  | none => s
  | some (op, nonce, buf, time) =>
    if !s.custodianOn then s
    else
      let (s, ok) := s.attestRun op nonce buf time
      s.onStw (fun w => { w with attBusy := none, attDone := true, attError := !ok })

/-! ## Lifecycle (R459 to R461) -/

/-- A transition that R460 lists, and whether it needs a token. -/
def lifecycleEdge (a b : Nat) : Option Bool :=
  if a = 1 ∧ b = 2 then some false
  else if a = 2 ∧ b = 3 then some true
  else if a = 3 ∧ b = 1 then some true
  else if (a = 1 ∨ a = 2 ∨ a = 3) ∧ b = 4 then some false
  else none

/-- The token at an address of the carve-out allows the transition (R460). -/
def State.tokenOk (s : State) (a dest : Nat) : Bool :=
  s.inCarve a 1 && (sget none s.stw.tokens a).any (fun t =>
    t.sigOk && t.serial == s.serial && t.fromSt == s.stw.lifecycle && t.toSt.toNat == dest && t.count == s.stw.transitions)

/-- The result of a request (R461): 1 ACCEPTED, 2 TOKEN_BAD, 3 NOT_ALLOWED, 4 LIMIT, 5 BUSY. -/
def State.lifecycleResult (s : State) (dest a : Nat) : BitVec 3 :=
  if s.stw.lcBusy.isSome then 5
  else match lifecycleEdge s.stw.lifecycle.toNat dest with
    | none => 3
    | some token =>
      if s.stw.lifecycle = 3 ∧ dest = 1 ∧ s.stw.redeploys = 0 then 4
      else if token && !s.tokenOk a dest then 2
      else 1

/-- The fuses of a transition are blown (R460, R461). -/
def StewardSt.blow (w : StewardSt) (dest : BitVec 3) : StewardSt :=
  { w with
    lifecycle := dest, transitions := w.transitions + 1, lcBusy := some dest
    redeploys := if w.lifecycle = 3 ∧ dest = 1 then w.redeploys - 1 else w.redeploys
    certsHeld := w.certsHeld && dest != 4, secretOk := w.secretOk && dest != 4 }

/-- A write of STW_LIFECYCLE (R461): with request, the transition is judged; an accepted one starts a package reset at once. -/
def State.lifecycleWrite (s : State) (v : W64) : State :=
  if s.stw.romOnly then s
  else
    let dest : BitVec 3 := BitVec.ofNat 3 (fld v 4 3)
    let s := s.onStw (fun w => { w with lcTarget := dest, lcToken := BitVec.ofNat 48 (fld v 16 48) })
    if !bit v 7 then s
    else
      let r := s.lifecycleResult dest.toNat (fld v 16 48)
      let s := s.onStw (fun w => { w with lcResult := r })
      if r = 1 then (s.onStw (fun w => w.blow dest)).startPkg 4 else s

def lifecycleStep (v : W64) (s : State) : State :=
  s.writeRow (some .custodian) (negPage + 0x90) 8 v (fun s => s.lifecycleWrite v)

/-! ## The steward's attachment (R430) -/

/-- UCIE_MODULE_DOWN (R430, R464, R486): ucie_degraded is set. -/
def ucieDownStep (m : Nat) (s : State) : State :=
  if !bit s.stw.ucie m then s
  else ((s.onStw (fun w => { w with ucie := clearBit w.ucie m })).countBeyond).event (2 ^ 6)

/-! ## The meanings -/

/-- What the Custodian's registers change beside a reset that they start. -/
def State.stewardFrame (s t : State) : State :=
  { s with stw := t.stw, host := t.host, mem := t.mem, panel := t.panel, parts := t.parts, clusters := t.clusters
           reset_ := { s.reset_ with fcBeyond := t.reset_.fcBeyond } }

def execFeatAcceptWrite (v : W64) (s : State) : Host.Outcome State Fault Refusal := .next (s.stewardFrame (featAcceptStep v s))

def execMemcfgWrite (v : W32) (s : State) : Host.Outcome State Fault Refusal := .next (s.stewardFrame (memcfgWriteStep v s))

def execSvnCommit (v : W64) (s : State) : Host.Outcome State Fault Refusal := .next (s.stewardFrame (svnCommitStep v s))

def execSvnCommitDone (s : State) : Host.Outcome State Fault Refusal := .next (s.stewardFrame (svnDoneStep s))

def execReport (s : State) : Host.Outcome State Fault Refusal := .next (s.stewardFrame (attestStep 1 s))

def execExtend (s : State) : Host.Outcome State Fault Refusal := .next (s.stewardFrame (attestStep 2 s))

def execCerts (s : State) : Host.Outcome State Fault Refusal := .next (s.stewardFrame (attestStep 3 s))

def execAttestOpDone (s : State) : Host.Outcome State Fault Refusal := .next (s.stewardFrame (attestDoneStep s).settle)

def execLifecycleRequest (v : W64) (s : State) : Host.Outcome State Fault Refusal := .next (s.resetFrame (lifecycleStep v s))

def execUcieModuleDown (m : Fin 2) (s : State) : Host.Outcome State Fault Refusal :=
  .next (s.stewardFrame (ucieDownStep m.val s))

end Sys2Proof.Machine
end

