-- ==== Sys2Proof/Machine/Registers.lean ====
section
/-!
DEFINITION. Host, steward and PCI Express accesses: registers by their pages and blocks, and the memories (R6, R7, R58, R61, R277,
R386, R430, R431, R435, R438 to R442, R471).
-/
namespace Sys2Proof.Machine

/-! ## Writes of registers (R6, R7, R439) -/

/-- Clear the bits of a word that a write names among those of `mask` (W1C). -/
def w1c (old v : W64) (mask : Nat) : W64 := old &&& ~~~(v &&& BitVec.ofNat 64 mask)

/-- Registers whose fields end at bit 31, and neighbours of 32 bits: a 4-byte write applies at once (R440). -/
def narrowReg (a : Addr) : Bool :=
  let o := a % 0x1000
  let t := (a - tileBase) % 0x100000
  let h := (a - hubBase) % 0x1000000
  if a < hubBase then 0x30000 ≤ t && t < 0x30200
  else if a < edgeBase then h == 0x10100 || h == 0x30020
  else if pkgPage ≤ a ∧ a < partPage 0 then o == 0x20 || o == 0x50
  else if partPage 0 ≤ a ∧ a < partPage 4 then o == 0x10 || o == 0x180 || (0x200 ≤ o && o < 0x240)
  else false

/-- A write of a 32-bit register of a page (R39, R59, R212, R325, R331). -/
def State.putPage4 (s : State) (a : Addr) (v : W32) : State :=
  let o := a % 0x1000
  if a < partPage 0 then
    if o = 0x20 then
      { s with time := { s.time with cfg := BitVec.ofNat 32 (fld v 0 14 + fld v 16 13 * 2 ^ 16) } }
    else if o = 0x50 then s.memcfgWrite v
    else s
  else
    let p := (a - partPage 0) / 0x1000
    if o = 0x10 then s.onPart p (fun t => { t with autoPromote := bit v 0 })
    else if o = 0x180 then
      let now := s.parkReg p
      s.onPart p (fun t => { t with park := now, parkNext := some (s.beat + 1, BitVec.ofNat 32 (fld v 0 17)) })
    else if 0x200 ≤ o ∧ o < 0x240 then s.onPart p (fun t => { t with slotsStg := sset 0 t.slotsStg ((o - 0x200) / 4) v })
    else s

/-- A write of a register of the negotiation page (R445, R446, R461). -/
def State.putNeg (s : State) (o : Nat) (v : W64) : State :=
  if o = 0x08 then s.hostIfWrite v
  else if 0x40 ≤ o ∧ o < 0x60 then s.acceptWrite ((o - 0x40) / 8) v
  else if o = 0x90 then s.lifecycleWrite v
  else s

/-- A write of word `i` of STW_ATTEST_NONCE (R440, R456). -/
def StewardSt.putNonce (w : StewardSt) (i : Nat) (v : W64) : StewardSt :=
  let stg := BitVec.ofNat 384 (setFld w.nonceStg.toNat (64 * i) 64 v.toNat)
  { w with nonceStg := stg, nonce := if i = 5 then stg else w.nonce }

/-- A write of a 64-bit register of the package page. -/
def State.putPkg (s : State) (o : Nat) (v : W64) : State :=
  if o = 0x28 then { s with time := { s.time with refLost := s.time.refLost && !bit v 3 } }
  else if o = 0x30 then s.timeSet v
  else if o = 0x40 then s.powerCap v
  else if o = 0x60 then s.onStw (fun w => { w with events := w1c w.events v 0x1DF })
  else if o = 0x68 then s.onStw (fun w => { w with errlog := w1c w.errlog v (2 ^ 51) })
  else if o = 0x100 then s.attestCtlWrite v
  else if 0x108 ≤ o ∧ o < 0x138 then s.onStw (fun w => w.putNonce ((o - 0x108) / 8) v)
  else if o = 0x140 then s.onStw (fun w => { w with attBuf := BitVec.ofNat 64 (fld v 0 48) })
  else if o = 0x180 then s.svnCommit v
  else if o = 0x300 then { s with fabric := { s.fabric with planStg := v } }
  else if o = 0x380 then s.stageCtl .pkg v
  else if o = 0x390 then s.setStage .pkg (fun g => { g with at_ := v })
  else s

/-- The set of staging registers of a partition page. -/
def stagePart (p : Nat) : StageSet := if p = 0 then .part 0 else if p = 1 then .part 1 else if p = 2 then .part 2 else .part 3

/-- A write of a 64-bit register of a partition page. -/
def State.putPart (s : State) (p o : Nat) (v : W64) : State :=
  if o = 0x100 then s.ringConfig p false v
  else if o = 0x108 then s.ringConfig p true v
  else if o = 0x240 then s.onPart p (fun t => { t with anchorStg := v })
  else if o = 0x280 then s.stageCtl (stagePart p) v
  else if o = 0x290 then s.setStage (stagePart p) (fun g => { g with at_ := v })
  else if o = 0x2C0 then s.onPart p (fun t => { t with updListStg := v })
  else if 0x400 ≤ o ∧ o < 0x600 ∧ o % 0x40 = 0 then
    s.onPart p (fun t => { t with policyStg := sset polReset t.policyStg ((o - 0x400) / 0x40) v })
  else if 0x400 ≤ o ∧ o < 0x600 ∧ o % 0x40 = 8 then
    s.onSrec p ((o - 0x400) / 0x40) (fun r => { r with floorHit := r.floorHit && !bit v 25 })
  else s

/-- A write of a register of the reset controller (R467, R479, R484, R500). -/
def State.putRst (s : State) (o : Nat) (v : W64) : State :=
  let r := s.reset_
  if o = 0 then s.resetCtl v
  else if o = 0x40 then s.archiveCtlWrite v
  else if o = 0x48 then { s with reset_ := { r with arBuf := BitVec.ofNat 64 (fld v 0 48) } }
  else if o = 0x60 then s.resyncCtl v
  else if o = 0x68 then { s with reset_ := { r with rsList := BitVec.ofNat 64 (fld v 6 58 * 2 ^ 6) } }
  else if o = 0x78 then { s with reset_ := { r with rsHoldStg := BitVec.ofNat 64 (fld v 0 24) } }
  else if o = 0x80 then { s with reset_ := { r with rsStepStg := v } }
  else if o = 0xA0 then { s with power := { s.power with env := w1c s.power.env v (0x1F * 2 ^ 44) } }
  else s

/-- A write of a 64-bit register of a tile block (R285), and of a hub block (R285, R390, R416). -/
def State.putTile (s : State) (c o : Nat) (v : W64) : State :=
  if o = 0x50008 then s.onMem (fun m => { m with errlog := sset 0 m.errlog c (w1c (sget 0 m.errlog c) v (2 ^ 48)) }) else s

def State.putHub (s : State) (h o : Nat) (v : W64) : State :=
  if 0x10000 ≤ o ∧ o < 0x10060 ∧ o % 0x10 = 8 then
    let st := 520 + 6 * h + (o - 0x10000) / 0x10
    s.onMem (fun m => { m with errlog := sset 0 m.errlog st (w1c (sget 0 m.errlog st) v (2 ^ 48)) })
  else if o = 0x30010 then s.onHub h (fun b => { b with failLog := w1c b.failLog v (2 ^ 26) })
  else if o = 0x40010 then s.onHub h (fun b => { b with skewLog0 := w1c b.skewLog0 v (2 ^ 48) })
  else s

/-- A write of a 32-bit register of a tile block (R203), and of a hub block (R286, R387). -/
def State.putTile4 (s : State) (c o : Nat) (v : W32) : State :=
  if 0x30100 ≤ o ∧ o < 0x301C0 then s.hostClaspAdd c ((o - 0x30100) / 4) v.toNat else s

def State.putHub4 (s : State) (h o : Nat) (v : W32) : State :=
  if o = 0x10100 then s.onMem (fun m => { m with scrubCfg := sset scrubCfgReset m.scrubCfg h (BitVec.ofNat 32 (fld v 0 9)) })
  else if o = 0x30020 then s.onHub h (fun b => { b with ledgerCfg := BitVec.ofNat 32 (fld v 0 12) })
  else s

/-! ## Places of registers -/

/-- Cluster of an address of the tile register blocks, and offset in its block (R57, R127). -/
def tileAt (a : Addr) : Nat × Nat :=
  let x := a - tileBase
  (16 * (x / 0x1000000) + x % 0x1000000 / 0x100000, x % 0x100000)

/-- Hub of an address of the hub register blocks, and offset in its block (R57). -/
def hubAt (a : Addr) : Nat × Nat := ((a - hubBase) / 0x1000000, (a - hubBase) % 0x1000000)

/-- The 8-byte value of the registers at `a`, a multiple of 8. -/
def State.regAt (s : State) (a : Addr) : W64 :=
  if a < hubBase then s.tileReg (tileAt a).1 (tileAt a).2
  else if a < edgeBase then s.hubReg (hubAt a).1 (hubAt a).2
  else if a < ctlBase then (if a % 0x1000 = 0 then s.edgeReg ((a - edgeBase) / 0x1000) else 0)
  else if a < pkgPage then s.negReg (a - negPage)
  else if a < partPage 0 then s.pkgReg (a - pkgPage)
  else if a < partPage 4 then s.partReg ((a - partPage 0) / 0x1000) (a % 0x1000)
  else s.rstReg (a - rstPage)

/-- A whole write of the 64-bit register at `a`. -/
def State.put8 (s : State) (a : Addr) (v : W64) : State :=
  if a < hubBase then s.putTile (tileAt a).1 (tileAt a).2 v
  else if a < edgeBase then s.putHub (hubAt a).1 (hubAt a).2 v
  else if a < ctlBase then s
  else if a < pkgPage then s.putNeg (a - negPage) v
  else if a < partPage 0 then s.putPkg (a - pkgPage) v
  else if a < partPage 4 then s.putPart ((a - partPage 0) / 0x1000) (a % 0x1000) v
  else s.putRst (a - rstPage) v

/-- A write of the 32-bit register at `a`. -/
def State.put4 (s : State) (a : Addr) (v : W32) : State :=
  if a < hubBase then s.putTile4 (tileAt a).1 (tileAt a).2 v
  else if a < edgeBase then s.putHub4 (hubAt a).1 (hubAt a).2 v
  else if a < ctlBase then s
  else s.putPage4 a v

/-- Keep or drop the low word of a register whose high word is still to come (R440). -/
def State.keepLow (s : State) (a : Addr) (v : Option W32) : State :=
  { s with host := { s.host with low := sset none s.host.low a v } }

/-- A write of 4 or 8 aligned bytes of registers (R440): a 64-bit register takes effect with its high word. -/
def State.putReg (s : State) (r : HostReq) : State :=
  let v := leNat r.data
  let base := r.addr / 8 * 8
  if narrowReg base then
    if r.size = 8 then (s.put4 base (BitVec.ofNat 32 v)).put4 (base + 4) (BitVec.ofNat 32 (v / 2 ^ 32))
    else s.put4 r.addr (BitVec.ofNat 32 v)
  else if r.size = 8 then (s.keepLow base none).put8 base (BitVec.ofNat 64 v)
  else if r.addr = base then s.keepLow base (some (BitVec.ofNat 32 v))
  else
    let lo := ((sget none s.host.low base).getD 0).toNat
    (s.keepLow base none).put8 base (BitVec.ofNat 64 (lo + v * 2 ^ 32))

/-- The access writes. -/
def hostWrites (r : HostReq) : Bool := !r.data.isEmpty

/-- A register access that is served (R6, R439). -/
def State.serveReg (s : State) (r : HostReq) : State :=
  if hostWrites r then (s.putReg r).respond (.done 0)
  else s.respond (.done (halfOf (s.regAt (r.addr / 8 * 8)) r.size r.addr).toNat)

/-- The processor that serves the register at `a` of a page (R439); none: hardware, or an offset not listed. -/
def pageProc (a : Addr) : Option Proc :=
  let o := a % 0x1000
  if a < pkgPage then (if o < 0x98 then some .custodian else none)
  else if a < partPage 0 then
    if 0x20 ≤ o ∧ o < 0x38 then some .registrar
    else if 0x40 ≤ o ∧ o < 0x48 then some .bursar
    else if (0x50 ≤ o ∧ o < 0x70) ∨ (0x100 ≤ o ∧ o < 0x148) ∨ (0x180 ≤ o ∧ o < 0x188) then some .custodian
    else if (0x300 ≤ o ∧ o < 0x308) ∨ (0x380 ≤ o ∧ o < 0x398) then some .registrar
    else none
  else if a < partPage 4 then
    if 0x10 ≤ o ∧ o < 0x18 then some .custodian
    else if (0x100 ≤ o ∧ o < 0x298) ∨ (0x2C0 ≤ o ∧ o < 0x2C8) ∨ (0x400 ≤ o ∧ o < 0x600) then some .registrar
    else none
  else none

/-! ## Accesses (R58, R277, R431) -/

/-- An access that R58 turns away: logged (R442), and answered with an error completion. -/
def State.refuseAccess (s : State) (r : HostReq) : State :=
  (s.hostError 0 r.addr).respond (match r.agent with
    | .pcieRead => .unsupported
    | .pcieWrite => .unsupported
    | _ => .error)

/-- A block of registers outside the pages: hardware answers an aligned access of 4 or 8 bytes (R439, R440). -/
def State.blockAccess (s : State) (r : HostReq) (mapped : Bool) : State :=
  if !mapped then s.refuseAccess r
  else if !pageAccessOk r then (s.hostError 5 r.addr).respond .error
  else s.serveReg r

/-- The hub registers at `a` answer (R58, R466, R471): the link layer's throughout a partition reset, unless the hub stays in
reset-idle (R14). -/
def State.hubAnswers (s : State) (a : Addr) : Bool :=
  let (h, o) := hubAt a
  if 0x20000 ≤ o ∧ o < 0x30000 then !s.panel.strapBad.contains (36 + h) else s.panel.inService.contains (36 + h) && !s.inReset h

/-- The bytes [a, a + n) of the memories may be read, or written, by the host (R57, R58, R61, R386). Memory of a partition in reset
does not answer (R61; DESIGN CHOICE for the rest of it, log 45). -/
def State.hostRange (s : State) (a n : Nat) (wr : Bool) : Bool :=
  if a < hbmEnd then
    inside a n 0 hbmEnd && (span (a / quadBytes) ((a + n - 1) / quadBytes - a / quadBytes + 1)).all (fun q =>
      s.serves (s.partOf q) && !s.inReset q)
  else if a < ledgerBase then
    inside a n carrelBase (512 * carrelSize) && (carrelsOf a n).all s.tileAnswers
  else
    let h := (a - ledgerBase) / ledgerSize
    let o := (a - ledgerBase) % ledgerSize
    inside a n (ledgerBase + h * ledgerSize) ledgerSize && h < 4 && s.panel.inService.contains (36 + h) && !s.inReset h &&
      (!wr || ((s.scratch h).1 ≤ o && o + n ≤ (s.scratch h).2))

/-- What an uncorrectable block means to an access (R277, R442). -/
def State.badBlock (s : State) (r : HostReq) : State :=
  match r.agent with
  | .load => (s.hostError 1 r.addr).respond .exception
  | .fetch => (s.hostError 1 r.addr).respond .exception
  | .store => (s.hostError 2 r.addr).respond .dropped
  | .pcieRead => (s.hostError 3 r.addr).respond .poisoned
  | .pcieWrite => (s.hostError 4 r.addr).respond .dropped

/-- An access to HBM, carrels or ledger SRAM (R58, R61, R277). One to a pseudo-channel that the aged request of another source blocks
is not granted yet (R69). -/
def State.memAccess (s : State) (r : HostReq) : State :=
  if !s.hostRange r.addr r.size (hostWrites r) then s.refuseAccess r
  else if r.addr < hbmEnd && s.mem.heldAt s.layout r.addr sourceSteward then s
  else
  let s := s.onMem (fun m => m.grant sourceSteward)
  if hostWrites r then
    let (s, ok) := s.writeAck ownerHost r.addr r.data
    if ok then s.respond (.done 0) else s.badBlock r
  else match s.read r.addr r.size with
    | (s, some bs) => s.respond (.done (leNat bs))
    | (s, none) => s.badBlock r

/-- A device's access (R431): HBM only; register space, carrels and ledger SRAM are an Unsupported Request. -/
def isDma : HostAgent → Bool
  | .pcieRead => true
  | .pcieWrite => true
  | _ => false

/-- The hub behind which the address of another die lies (R54, R57): the steward reaches it over the ring from H2 (R11). -/
def State.hubBehind (s : State) (a : Addr) : Nat :=
  if a < hbmEnd then (stackOf s.layout a).1 / 6
  else if a < ledgerBase then clusterQuad ((a - carrelBase) / carrelSize)
  else if a < tileBase then (a - ledgerBase) / ledgerSize
  else if a < hubBase then clusterQuad (tileAt a).1
  else if a < edgeBase then (hubAt a).1
  else dieQuad (edgeEnds ((a - edgeBase) / 0x1000)).1

/-- An access of the host, the steward or a device. Nobody makes one while the package is dark, but for the page that the boot ROM
serves (R452); with both UCIe modules down none reaches another die, and it gets no answer (R430), nor does one to a die behind a hub that the ring
does not join to H2 (R11, R54; log 78). -/
def State.access (s : State) (r : HostReq) : State :=
  let a := r.addr
  let other := decide (a < ctlBase)
  if s.dark && !(s.stw.romOnly && !other && decide (a < pkgPage)) then s
  else if other && (s.stw.ucie == 0 || !s.ringReach 2 (s.hubBehind a % 4)) then s.respond .none
  else if isDma r.agent && decide (hbmEnd ≤ a) then
    if inside a r.size carrelBase (512 * carrelSize) || inside a r.size ledgerBase (4 * ledgerSize) || decide (tileBase ≤ a) then
      s.respond .unsupported
    else s.refuseAccess r
  else if a < hbmEnd ∨ (carrelBase ≤ a ∧ a < carrelBase + 512 * carrelSize) ∨ (ledgerBase ≤ a ∧ a < ledgerBase + 4 * ledgerSize) then
    s.memAccess r
  else if tileBase ≤ a ∧ a < tileBase + 0x20000000 then s.blockAccess r (s.tileAnswers (tileAt a).1)
  else if hubBase ≤ a ∧ a < hubBase + 0x4000000 then s.blockAccess r (s.hubAnswers a)
  else if edgeBase ≤ a ∧ a < edgeBase + 0x4C000 then s.blockAccess r true
  else if ctlBase ≤ a ∧ a < ctlBase + 0x10000000 then s.gated (pageProc a) r (fun s => s.serveReg r)
  else s.refuseAccess r

/-- An access of the host: a write is of as many bytes as its data, and a read brings none. -/
def wholeReq (r : HostReq) : HostReq := if hostWrites r then { r with size := r.data.length } else { r with data := [] }

/-- A write of a register by the host (R6). -/
def regWriteReq (w : RegWrite) : HostReq := pageWrite w.addr w.size w.value

/-! ## The meanings -/

def execRegisterWrite (w : RegWrite) (s : State) : Host.Outcome State Fault Refusal :=
  .next (s.resetFrame (s.access (regWriteReq w)).settle)

def execHostAccess (r : HostReq) (s : State) : Host.Outcome State Fault Refusal :=
  .next (s.resetFrame (s.access (wholeReq r)).settle)

end Sys2Proof.Machine
end

