-- ==== Sys2Proof/Machine/Firmware.lean ====
section
/-!
DEFINITION. Restarts and failures of the firmware processors (R434 to R437, R440, R469, R486, R504).
-/
namespace Sys2Proof.Machine

/-- The state of a processor, and a change of it. -/
def State.proc (s : State) : Proc → FwProc
  | .custodian => s.stw.custodian
  | .bursar => s.stw.bursar
  | .registrar => s.stw.registrar
  | .curator c => sget {} s.stw.curators c.val

def State.onProc (s : State) (p : Proc) (f : FwProc → FwProc) : State :=
  s.onStw (fun w => match p with
    | .custodian => { w with custodian := f w.custodian }
    | .bursar => { w with bursar := f w.bursar }
    | .registrar => { w with registrar := f w.registrar }
    | .curator c => { w with curators := sset {} w.curators c.val (f (sget {} w.curators c.val)) })

/-- Watchdog expiry in ns (R434). -/
def procExpiry : Proc → Nat
  | .custodian => 1000000
  | _ => 4000

/-- Interruption bound in ns (R434). -/
def procBound : Proc → Nat
  | .curator _ => 15000
  | .custodian => 50000000
  | _ => 20000

/-- The processor exists and is powered: a Curator lies in each active cluster (R433), outside a reset of its quadrant. -/
def State.procUp (s : State) (p : Proc) : Bool :=
  !s.dark && (match p with
    | .curator c => s.tileAnswers c.val
    | _ => true)

/-- Accesses held for processors are tried again, in arrival order (R440). -/
def State.serveHeld (s : State) : State :=
  let rs := s.host.held
  rs.foldl State.access { s with host := { s.host with held := [] } }

/-- A FAILED Curator halts its task, and its die counts as failed (R437, R466, R503). Its own task, of the program whose context its
cluster holds, names the cluster (R437); every other task that uses a cluster of the slot names the slot's lowest (R503; log 95). -/
def State.curatorFailed (s : State) (c : Nat) : State :=
  let h : HaltInfo := { code := ffFetch, cmdAddr := 0, flags := 0, due := s.time.ticks }
  let s := s.onPart (s.clPart c) (fun p => { p with tasks := p.tasks.map (fun t =>
    if t.live && t.clusters.contains c && tdSlot t.desc == (s.cl c).prog then t.firstHalt c h else t) })
  (s.haltCluster c ffFetch 0 0).markFailed (clusterSlot c) ffFetch

/-- A processor becomes FAILED (R434, R437, R443, R464, R469). -/
def State.failProc (s : State) (p : Proc) : State :=
  let s := ((s.onProc p (fun k => { k with st := .failed })).countBeyond).event (2 ^ 7)
  let s := match p with
    | .curator c => s.curatorFailed c.val
    | .bursar => s.onPower (fun w => { w with beFraction := 0 })
    | .registrar => s.startPkg 2
    | .custodian => s.startPkg 3
  s.serveHeld

/-- WATCHDOG_EXPIRE (R434, R435): the processor last served at this instant; its restart begins when the watchdog expires. The third
restart within 1 s makes it FAILED. A restarting Bursar holds best-effort issue at 0/16. -/
def watchdogStep (p : Proc) (s : State) : State :=
  if !s.procUp p || (s.proc p).st != .running then s
  else
    let last := s.time.ticks
    let s := s.runTo (last + procExpiry p * nsT)
    let now := s.time.ticks
    let recent := (s.proc p).restarts.filter (fun t => decide (now < t + 1000000000 * nsT)) ++ [now]
    let s := s.onProc p (fun k => { k with st := .restarting, restarts := recent, since := last, expiries := k.expiries + 1 })
    let s := { s with reset_ := { s.reset_ with fcFw := satAdd s.reset_.fcFw 1 } }
    let s := (s.onStw (fun w => { w with restarts := satAdd w.restarts 1 })).event (2 ^ 7)
    let s := if p = .bursar then s.onPower (fun w => { w with beFraction := 0 }) else s
    if 3 ≤ recent.length then s.failProc p else s

/-- TIME_NOW in ns at an earlier clock, slewing apart. -/
def State.nowAt (s : State) (clock : Nat) : Nat := s.now - (s.time.ticks - clock) / nsT

/-- The Registrar serves again (R436): descriptors that were read and not decided count as read at the next beat, sets that it decides
as root and whose beat D fell in the restart are abandoned, owed records are written (R224), and verdicts that waited are acted on
(R435). -/
def State.registrarBack (s : State) (from_ : Nat) : State :=
  let t0 := s.nowAt from_
  let b := s.beat + 1
  let covered (a : RootRec) : Bool :=
    let d := 1024 * (a.commit - 4 - a.dg)
    decide (t0 < d ∧ d ≤ s.now)
  let s := { s with roots := s.roots.map (fun a => if covered a then { a with failed := true } else a) }
  (s.partitions.foldl (fun s p => (s.onPart p (fun t =>
    { t with tasks := t.tasks.map (fun k => if k.st = .read then { k with beat := b } else k) })).payAborted p) s).afterHub

/-- A halt from the Registrar that waited for the Curator of cluster `c` (R197, R435). -/
def State.lateHalt (s : State) (c : Nat) : State :=
  match (s.prt (s.clPart c)).tasks.find? (fun t => t.st == .reported && t.clusters.contains c && tdSlot t.desc == (s.cl c).prog) with
  | some t => match t.halt with
    | some (_, h) => if (s.cl c).halt.isSome then s else (s.haltCluster c h.code h.cmdAddr h.flags).reap (s.clPart c)
    | none => s
  | none => s

/-- The Custodian serves again (R435): the dies found failed meanwhile are marked. -/
def State.custodianBack (s : State) : State :=
  s.panel.marks.foldl (fun s m => s.dieFailed m.1 m.2) { s with panel := { s.panel with marks := [] } }

/-- RESTART_COMPLETE (R434 to R436, R440): within the bound the processor serves again; past it, it is FAILED. -/
def restartStep (p : Proc) (s : State) : State :=
  let k := s.proc p
  if !s.procUp p || k.st != .restarting then s
  else if k.since + procBound p * nsT < s.time.ticks then s.failProc p
  else
    let s := s.onProc p (fun k => { k with st := .running })
    let s := match p with
      | .registrar => s.registrarBack k.since
      | .curator c => s.lateHalt c.val
      | .custodian => s.custodianBack
      | _ => s
    s.serveHeld

/-- RESTART_EXCEEDS_BOUND (R434). -/
def restartExceedsStep (p : Proc) (s : State) : State :=
  let k := s.proc p
  if !s.procUp p || k.st != .restarting then s
  else (s.runTo (k.since + procBound p * nsT)).failProc p

/-! ## The meanings -/

def execWatchdogExpire (p : Proc) (s : State) : Host.Outcome State Fault Refusal :=
  .next (s.resetFrame (watchdogStep p s).settle)

def execRestartComplete (p : Proc) (s : State) : Host.Outcome State Fault Refusal :=
  .next (s.resetFrame (restartStep p s).settle)

def execRestartExceedsBound (p : Proc) (s : State) : Host.Outcome State Fault Refusal :=
  .next (s.resetFrame (restartExceedsStep p s).settle)

end Sys2Proof.Machine
end

