-- ==== Sys2Proof/Machine/Dispatch.lean ====
section
/-!
DEFINITION. The dispatch: one arm per command, each one direct call of its meaning.
-/
namespace Sys2Proof.Machine

/-- The effect of a command on everything but the queue. -/
def exec (i : Instr) (s : State) : Host.Outcome State Fault Refusal :=
  match i with
  | .powerOn => Sys2Proof.Machine.execPowerOn s
  | .vinSample a b => Sys2Proof.Machine.execVinSample a b s
  | .pkgResetPin => Sys2Proof.Machine.execPkgResetPin s
  | .thermalSample e => Sys2Proof.Machine.execThermalSample e s
  | .partitionResetRequest v => Sys2Proof.Machine.execPartitionResetRequest v s
  | .packageResetRequest v => Sys2Proof.Machine.execPackageResetRequest v s
  | .partitionResetPhaseEnd q o => Sys2Proof.Machine.execPartitionResetPhaseEnd q o s
  | .packageResetPhaseEnd o => Sys2Proof.Machine.execPackageResetPhaseEnd o s
  | .archiveUnitTimeout pkg q before scanOk => Sys2Proof.Machine.execArchiveUnitTimeout pkg q before scanOk s
  | .flitReceive e slice dir f => Sys2Proof.Machine.execFlitReceive e slice dir f s
  | .laneFailure e slice dir lane => Sys2Proof.Machine.execLaneFailure e slice dir lane s
  | .laneReplaced e slice dir => Sys2Proof.Machine.execLaneReplaced e slice dir s
  | .sliceRetire e slice => Sys2Proof.Machine.execSliceRetire e slice s
  | .reweightDrainEnd router => Sys2Proof.Machine.execReweightDrainEnd router s
  | .laneRepairRecord => Sys2Proof.Machine.execLaneRepairRecord s
  | .requestAgeBlock a stamp source => Sys2Proof.Machine.execRequestAgeBlock a stamp source s
  | .mergeCommit block => Sys2Proof.Machine.execMergeCommit block s
  | .carrelScrubRow st bank => Sys2Proof.Machine.execCarrelScrubRow st bank s
  | .hbmScrubBlock m => Sys2Proof.Machine.execHbmScrubBlock m s
  | .folioFetch c => Sys2Proof.Machine.execFolioFetch c s
  | .curatorDispatch c => Sys2Proof.Machine.execCuratorDispatch c s
  | .mma c => Sys2Proof.Machine.execMma c s
  | .mmaComputeEnd c => Sys2Proof.Machine.execMmaComputeEnd c s
  | .mmaEpilogueEnd c => Sys2Proof.Machine.execMmaEpilogueEnd c s
  | .vop c => Sys2Proof.Machine.execVop c s
  | .vfunc c => Sys2Proof.Machine.execVfunc c s
  | .funcLoadResident c => Sys2Proof.Machine.execFuncLoadResident c s
  | .vrowstat c => Sys2Proof.Machine.execVrowstat c s
  | .vnormFwd c => Sys2Proof.Machine.execVnormFwd c s
  | .vnormBwd c => Sys2Proof.Machine.execVnormBwd c s
  | .vsoftmaxFwd c => Sys2Proof.Machine.execVsoftmaxFwd c s
  | .vsoftmaxBwd c => Sys2Proof.Machine.execVsoftmaxBwd c s
  | .vconv c => Sys2Proof.Machine.execVconv c s
  | .copy c => Sys2Proof.Machine.execCopy c s
  | .copy2d c => Sys2Proof.Machine.execCopy2d c s
  | .copyt c => Sys2Proof.Machine.execCopyt c s
  | .reblock c => Sys2Proof.Machine.execReblock c s
  | .gather c => Sys2Proof.Machine.execGather c s
  | .scatter c => Sys2Proof.Machine.execScatter c s
  | .wait c => Sys2Proof.Machine.execWait c s
  | .signal c => Sys2Proof.Machine.execSignal c s
  | .fence c => Sys2Proof.Machine.execFence c s
  | .fenceSatisfied c => Sys2Proof.Machine.execFenceSatisfied c s
  | .call c => Sys2Proof.Machine.execCall c s
  | .timeat c => Sys2Proof.Machine.execTimeat c s
  | .timeatResume c => Sys2Proof.Machine.execTimeatResume c s
  | .end_ c => Sys2Proof.Machine.execEnd c s
  | .clusterPartEnd c => Sys2Proof.Machine.execClusterPartEnd c s
  | .redOpen c => Sys2Proof.Machine.execRedOpen c s
  | .redContrib c => Sys2Proof.Machine.execRedContrib c s
  | .redContribTopk c => Sys2Proof.Machine.execRedContribTopk c s
  | .redWait c => Sys2Proof.Machine.execRedWait c s
  | .ringPass c => Sys2Proof.Machine.execRingPass c s
  | .send c => Sys2Proof.Machine.execSend c s
  | .recv c => Sys2Proof.Machine.execRecv c s
  | .updApply c => Sys2Proof.Machine.execUpdApply c s
  | .waitingBindingCheck desc => Sys2Proof.Machine.execWaitingBindingCheck desc s
  | .updInstall c => Sys2Proof.Machine.execUpdInstall c s
  | .commandComplete c x => Sys2Proof.Machine.execCommandComplete c x s
  | .haltReport c => Sys2Proof.Machine.execHaltReport c s
  | .claspAdd c k n => Sys2Proof.Machine.execClaspAdd c k n s
  | .tileClaspAdd c k n => Sys2Proof.Machine.execTileClaspAdd c k n s
  | .signalRelease h => Sys2Proof.Machine.execSignalRelease h s
  | .clusterPark c => Sys2Proof.Machine.execClusterPark c s
  | .clusterWake c => Sys2Proof.Machine.execClusterWake c s
  | .ringConfigWrite q cq v => Sys2Proof.Machine.execRingConfigWrite q cq v s
  | .submissionRingRead q => Sys2Proof.Machine.execSubmissionRingRead q s
  | .admissionDecision q => Sys2Proof.Machine.execAdmissionDecision q s
  | .taskStart q => Sys2Proof.Machine.execTaskStart q s
  | .deadlineMiss q => Sys2Proof.Machine.execDeadlineMiss q s
  | .programSwitch q => Sys2Proof.Machine.execProgramSwitch q s
  | .switchComplete q => Sys2Proof.Machine.execSwitchComplete q s
  | .stepCloseBegin q p => Sys2Proof.Machine.execStepCloseBegin q p s
  | .bindingClose q => Sys2Proof.Machine.execBindingClose q s
  | .powerCapWrite v => Sys2Proof.Machine.execPowerCapWrite v s
  | .bursarPowerMeasure w => Sys2Proof.Machine.execBursarPowerMeasure w s
  | .stageCheck r v => Sys2Proof.Machine.execStageCheck r v s
  | .stageDecision id => Sys2Proof.Machine.execStageDecision id s
  | .stageApply r => Sys2Proof.Machine.execStageApply r s
  | .stageReport a => Sys2Proof.Machine.execStageReport a s
  | .stageGo a => Sys2Proof.Machine.execStageGo a s
  | .stageAbandon a => Sys2Proof.Machine.execStageAbandon a s
  | .epochGraceEnd j => Sys2Proof.Machine.execEpochGraceEnd j s
  | .timeSyncSend => Sys2Proof.Machine.execTimeSyncSend s
  | .timeSync a => Sys2Proof.Machine.execTimeSync a s
  | .ppsEdge ts => Sys2Proof.Machine.execPpsEdge ts s
  | .ptpMeasurement offset => Sys2Proof.Machine.execPtpMeasurement offset s
  | .timeSet v => Sys2Proof.Machine.execTimeSet v s
  | .syncLossHoldover => Sys2Proof.Machine.execSyncLossHoldover s
  | .holdoverExpire => Sys2Proof.Machine.execHoldoverExpire s
  | .refLossTimeout => Sys2Proof.Machine.execRefLossTimeout s
  | .linkDown l last => Sys2Proof.Machine.execLinkDown l last s
  | .linkRejoinDrainEnd l => Sys2Proof.Machine.execLinkRejoinDrainEnd l s
  | .beaconSend l => Sys2Proof.Machine.execBeaconSend l s
  | .beacon l b crcOk => Sys2Proof.Machine.execBeacon l b crcOk s
  | .trainingTimeout l => Sys2Proof.Machine.execTrainingTimeout l s
  | .absentRetrain l => Sys2Proof.Machine.execAbsentRetrain l s
  | .write a => Sys2Proof.Machine.execWrite a s
  | .readReq a => Sys2Proof.Machine.execReadReq a s
  | .readRsp a => Sys2Proof.Machine.execReadRsp a s
  | .remoteSignal a => Sys2Proof.Machine.execRemoteSignal a s
  | .credit a => Sys2Proof.Machine.execCredit a s
  | .contrib a => Sys2Proof.Machine.execContrib a s
  | .contribTopk a => Sys2Proof.Machine.execContribTopk a s
  | .fragment a => Sys2Proof.Machine.execFragment a s
  | .result a => Sys2Proof.Machine.execResult a s
  | .twin a => Sys2Proof.Machine.execTwin a s
  | .loggedUnitRetake h => Sys2Proof.Machine.execLoggedUnitRetake h s
  | .preopenExpire h => Sys2Proof.Machine.execPreopenExpire h s
  | .contextDeadline q => Sys2Proof.Machine.execContextDeadline q s
  | .memberDown a => Sys2Proof.Machine.execMemberDown a s
  | .memberDownProxy a => Sys2Proof.Machine.execMemberDownProxy a s
  | .memberUp a => Sys2Proof.Machine.execMemberUp a s
  | .rejoinRelease j => Sys2Proof.Machine.execRejoinRelease j s
  | .resyncArm v => Sys2Proof.Machine.execResyncArm v s
  | .resyncReq a => Sys2Proof.Machine.execResyncReq a s
  | .resyncReady a => Sys2Proof.Machine.execResyncReady a s
  | .resyncCopyDone => Sys2Proof.Machine.execResyncCopyDone s
  | .resyncDone a => Sys2Proof.Machine.execResyncDone a s
  | .watchdogExpire p => Sys2Proof.Machine.execWatchdogExpire p s
  | .restartComplete p => Sys2Proof.Machine.execRestartComplete p s
  | .ucieModuleDown m => Sys2Proof.Machine.execUcieModuleDown m s
  | .featAcceptWrite v => Sys2Proof.Machine.execFeatAcceptWrite v s
  | .memcfgWrite v => Sys2Proof.Machine.execMemcfgWrite v s
  | .svnCommit v => Sys2Proof.Machine.execSvnCommit v s
  | .svnCommitDone => Sys2Proof.Machine.execSvnCommitDone s
  | .report => Sys2Proof.Machine.execReport s
  | .extend => Sys2Proof.Machine.execExtend s
  | .certs => Sys2Proof.Machine.execCerts s
  | .attestOpDone => Sys2Proof.Machine.execAttestOpDone s
  | .lifecycleRequest v => Sys2Proof.Machine.execLifecycleRequest v s
  | .archiveRead v => Sys2Proof.Machine.execArchiveRead v s
  | .archiveCopyDone => Sys2Proof.Machine.execArchiveCopyDone s
  | .registerWrite w => Sys2Proof.Machine.execRegisterWrite w s
  | .pkgResetNRelease => Sys2Proof.Machine.execPkgResetNRelease s
  | .referenceLost => Sys2Proof.Machine.execReferenceLost s
  | .restartExceedsBound p => Sys2Proof.Machine.execRestartExceedsBound p s
  | .hostAccess r => Sys2Proof.Machine.execHostAccess r s

end Sys2Proof.Machine
end

