-- ==== Sys2Proof/Safety.lean ====
section
/-!
DEFINITION. What counts as a safe step: it answers a next state.
-/
namespace Sys2Proof

/-- The outcome is a next state. -/
def Goes (o : Host.Outcome Machine.State Machine.Fault Machine.Refusal) : Prop := ∃ t, o = .next t

/-- A step of `s` goes on. -/
def SafeStep (s : Machine.State) : Prop := Goes (Machine.step s)

/-- The numbers of a table rise strictly: each is listed once, and reading finds what was written last. -/
def Rising {α : Type} (m : Sparse α) : Prop := m.Pairwise (fun a b => a.1 < b.1)

/-- A command of the hubs does `u` to state `s`, and what follows every change of the collective engines and update units
follows: contexts complete, bindings are served, waits end, verdicts are acted on, uncorrectable events are handled. -/
def HubGoes (i : Instr) (s u : Machine.State) : Prop := Machine.exec i s = .next (s.taskFrame u.afterHub.settle)

/-- No evaluation of clasp `k` that this cycle made could be taken back by a further add of the cycle, and the waits of the queue heads of
cluster `c` have begun (R194, R199). -/
def FirstAdd (s : Machine.State) (c k : Nat) : Prop :=
  (s.cl c).arm s.cycle = s.cl c ∧ ∀ e, (s.cl c).lastEval = some e → e.cycle = s.cycle → e.clasp ≠ k

/-- An add of `n` to clasp `k` of cluster `c` may arrive: it is the host's or the steward's, no signal in flight being such an add, or one in
flight is for the running program and no earlier signal of its stream is in flight (R202, R207, R335). -/
def Arrives (s : Machine.State) (c k : Nat) (n : BitVec 16) : Prop :=
  s.inFlight c k n = [] ∨ ∃ l x r, s.fabric.signals = l ++ x :: r ∧ x ∈ s.inFlight c k n ∧ x.prog = (s.cl c).prog ∧
    (x.stream = none ∨ ∀ y ∈ l, y.stream ≠ x.stream)

/-- An access to a page register at `a` is taken at once by its processor `p`: the package is not dark, the page is mapped and not in
reset, and the processor runs with nothing of the page held (R435, R440, R448, R471). -/
def PageServes (s : Machine.State) (p : Proc) (a : Addr) : Prop :=
  s.dark = false ∧ s.pageMapped a = true ∧ s.pageInReset a = false ∧ s.procSt p = .running ∧ s.pageBusy a = false

/-- What the link layer does with a packet that passes its check: the code's counts, and the acknowledgement it carries (R288). -/
def acked (s : Machine.State) (a : Arrival) : Machine.State :=
  (s.onLink a.link (fun k => { k with
    fecCorrected := Machine.satAdd k.fecCorrected a.fixed, fecUncorrectable := Machine.satAdd k.fecUncorrectable a.bad })).ackLink a.link a.pkt.ack

/-- The link layer accepts the packet: the link is up, the check passed, and it is the next in order (R288). -/
def Accepted (s : Machine.State) (a : Arrival) : Prop :=
  (s.link a.link).up = true ∧ a.crcOk = true ∧ a.bad = 0 ∧ a.pkt.seq = ((acked s a).link a.link).rxSeq + 1

/-- The state in which an accepted packet is looked at: its number is the last received. -/
def heard (s : Machine.State) (a : Arrival) : Machine.State :=
  ((acked s a).onLink a.link (fun k => { k with rxSeq := a.pkt.seq })).portGranted a.link a.pkt

/-- The state `u` that a packet led to, with the CREDIT packet that acknowledges it if nothing else left on its link (R288). -/
def withCredit (s : Machine.State) (a : Arrival) (u : Machine.State) : Machine.State :=
  if (u.link a.link).up && (u.link a.link).txSeq == ((heard s a).link a.link).txSeq then u.transmit a.link (u.creditPacket a.link) else u

/-- The packet of row `i` does `u`. -/
def PacketDoes (i : Instr) (a : Arrival) (s u : Machine.State) : Prop :=
  Machine.exec i s = .next (s.packetFrame (withCredit s a u).settle)

/-- A SYSTEM packet is accepted and has reached the package it is for (R310, R314). -/
def SystemHere (s : Machine.State) (a : Arrival) : Prop :=
  Accepted s a ∧ a.pkt.job = 0 ∧ a.pkt.len.toNat ≤ 8 ∧
  (heard s a).nextHop (a.link / 5) (some ((heard s a).plan.portOf a.link)) a.pkt = .land

/-- What a receiver reads from the packets of one chunk's fragment, in order (R366, R367): every present element; none where a packet
is malformed, or where any but the last says that it is the last. -/
def readChunk : Option Nat → List (Nat × List Byte) → Option (List (Nat × Machine.Ledger))
  | _, [] => some []
  | prev, (aux, bs) :: rest =>
    match Machine.readFragment prev (BitVec.ofNat 32 aux) bs with
    | none => none
    | some r => if r.last = rest.isEmpty then (readChunk (r.group <|> prev) rest).map (fun es => r.elems ++ es) else none

/-- An FP32 contribution in units of 2^-160, an infinity or a NaN as 0 (R356). -/
def ledgerUnits (w : W32) : Int :=
  if Machine.nonFinite w then 0 else if w.msb then -(Machine.ledgerMag w : Int) else Machine.ledgerMag w

end Sys2Proof
end

