-- ==== Sys2Proof/Certificates/Slice0/Obligations.lean ====
section
/-!
DEFINITION. The statements about the block. Each docstring names the rules it rests on; where a clause rests on a choice of the
model's, the docstring names its log entry.
-/

open Sys2Proof Sys2Proof.Machine

/-- For every command c and state s: a step of s with c at the front of its queue is exec of c on s with the rest of the queue. On an
empty queue the clock runs on by one nanosecond and nothing else is done. What a step does on an empty queue is the model's choice (log
2). (R1, R5) -/
def Obligations.StepRunsTheCommandAtTheFront : Prop :=
  (∀ (c : Instr) (rest : List Instr) (s : State), s.pending = c :: rest → step s = exec c { s with pending := rest }) ∧
  (∀ s : State, s.pending = [] → step s = .next (s.runTo (s.time.ticks + 21)))

/-- For every command, every operand and every state, exec answers a next state that leaves the queue as it was: no command faults or
is refused, and ordinary data ends no run. A command whose operands fail their check names nothing that the part can meet, and leaves
the state as it was. That such a command changes nothing is the model's choice (log 1). (R1, R6, R7) -/
def Obligations.EveryWellFormedCommandGoesOn : Prop :=
  ∀ (i : Instr) (s : State),
    (∃ t, exec i s = .next t ∧ t.pending = s.pending) ∧ (i.wellFormed = false → exec i s = .next s)

/-- POWER_ON of an unpowered package whose input allows a start begins the power-on reset, phase 4, cause 0, with memories and clusters
cleared and TIME_NOW 0. VIN_SAMPLE of a good input shows it, and one below 40.0 V loses power: phase 3, cause 5. PKG_RESET_PIN begins a
package reset of cause 0, and PKG_RESET_N_RELEASE takes the pin back. THERMAL_SAMPLE of cool dies clears the trip, and one with a die
at 110 degrees trips and begins a package reset of cause 5. A confirmed request begins the partition's or the package's reset with
cause 1, counted and answered. A phase's end leads to the next phase, and a package reset's last phase leaves no reset and PCIE_PERST_N
high. ARCHIVE_UNIT_TIMEOUT passes the unit on in phase 2 of a reset of either kind. That a drive of PCIE_PERST_N counts as high with
the last phase is the model's choice (log 94). (R467, R468, R469, R470, R481, R485, R487, R488, R493, R494, R499) -/
def Obligations.PowerAndResetCommandsComplete : Prop :=
  (∀ s : State, s.power.on = false → s.power.mayStart = true → ∃ t r, exec .powerOn s = .next t ∧
    t.power.on = true ∧ t.reset_.pkg = some r ∧ r.phase = 4 ∧ r.cause = 0 ∧ t.time.now = 0 ∧ t.clusters = [] ∧ t.mem.bytes = []) ∧
  (∀ (a b : Nat) (s : State), s.power.on = true → 440 ≤ min a b → min a b ≤ 560 → exec (.vinSample a b) s =
    .next { s with power := (s.power.sample a b).envField 0 10 (min a b) }) ∧
  (∀ (a b : Nat) (s : State), s.power.on = true → min a b < 400 → ∃ t r, exec (.vinSample a b) s = .next t ∧
    t.power.on = false ∧ t.reset_.pkg = some r ∧ r.phase = 3 ∧ r.cause = 5) ∧
  (∀ s : State, s.power.on = true → s.reset_.pkg = none → ∃ t r, exec .pkgResetPin s = .next t ∧
    t.power.pinLow = true ∧ t.reset_.pkg = some r ∧ r.phase = 1 ∧ r.cause = 0) ∧
  (∀ s : State, exec .pkgResetNRelease s = .next { s with power := { s.power with pinLow := false } }) ∧
  (∀ (x e : EnvSample) (s : State) (p : PowerSt), e = wholeSample x → s.power.on = true → p = (s.power.warm e).hot e → p.tripped e = false →
    (∀ d ∈ e.dies, reading d < 85) → exec (.thermalSample x) s = .next { s with power := { p with trip := false } }) ∧
  (∀ (x : EnvSample) (s : State), s.power.on = true → s.reset_.pkg = none → (∃ d ∈ (wholeSample x).dies, 110 ≤ reading d) →
    ∃ t r, exec (.thermalSample x) s = .next t ∧ t.power.trip = true ∧ t.reset_.pkg = some r ∧ r.phase = 1 ∧ r.cause = 5) ∧
  (∀ (v : W64) (s : State) (p : Nat), p = s.partOf (fld v 0 2) → s.dark = false → fld v 8 8 = 0xD5 → bit v 3 = false → bit v 2 = true →
    s.inReset p = false → Sys2Proof.Rising s.reset_.parts → ∃ t r, exec (.partitionResetRequest v) s = .next t ∧
    t.host.resp = .done 0 ∧ sget none t.reset_.parts p = some r ∧ r.phase = 1 ∧ r.cause = 1 ∧ t.reset_.resets = satAdd s.reset_.resets 1) ∧
  (∀ (v : W64) (s : State), s.dark = false → s.power.on = true → s.reset_.pkg = none → fld v 8 8 = 0xD5 → bit v 3 = true →
    ∃ t r, exec (.packageResetRequest v) s = .next t ∧ t.host.resp = .done 0 ∧ t.reset_.pkg = some r ∧ r.phase = 1 ∧ r.cause = 1) ∧
  (∀ (q : Quad) (o : PhaseObs) (s : State) (r : PartReset), sget none s.reset_.parts q = some r → r.phase = 1 → s.mem.newPoison = [] →
    Sys2Proof.Rising s.reset_.parts → ∃ t, exec (.partitionResetPhaseEnd q o) s = .next t ∧
    sget none t.reset_.parts q = some { r with phase := 2, since := t.time.ticks }) ∧
  (∀ (o : PhaseObs) (s : State) (r : PartReset), s.reset_.pkg = some r → s.mem.newPoison = [] → ∃ t, exec (.packageResetPhaseEnd o) s = .next t ∧
    (r.phase = 1 → t.reset_.pkg = some { r with phase := 2, since := t.time.ticks }) ∧
    (r.phase = 7 → (s.runTo (r.since + o.durationUs.toNat * 1000 * nsT)).power.mayBoot = true → t.reset_.pkg = none ∧ t.reset_.perstN = true)) ∧
  (∀ (q : Quad) (n : Nat) (scan : Bool) (s : State) (r : PartReset), r.phase = 2 →
    (sget none s.reset_.parts q = some r → exec (.archiveUnitTimeout false q n scan) s = .next { s with reset_ := { s.reset_ with
      parts := sset none s.reset_.parts q (some (s.dumpTimeout r n scan)) } }) ∧
    (s.reset_.pkg = some r → exec (.archiveUnitTimeout true q n scan) s = .next { s with reset_ := { s.reset_ with
      pkg := some (s.dumpTimeout r n scan) } }))

/-- ARCHIVE_READ starts a copy, and ARCHIVE_COPY_DONE writes the slot to the carve-out and ends it with done, and with error only where
the write was not acknowledged well. WATCHDOG_EXPIRE restarts its processor with fw_restart set; RESTART_COMPLETE of the Custodian or
the Bursar in time makes it serve again; RESTART_EXCEEDS_BOUND fails it. The last word of STW_FEAT_ACCEPT computes the agreed set;
STW_MEMCFG is kept; a UCIe module that goes down is gone, counted, with ucie_degraded set. SVN_COMMIT runs and SVN_COMMIT_DONE raises
the named counters. REPORT, EXTEND and CERTS start, and ATTEST_OP_DONE ends each with its output, or with error where that could not be
written, or with its measurement. A permitted lifecycle request moves the lifecycle on and is answered. A write of STW_EVENTS clears
the bits written, and a read of HBM delivers its bytes. (R6, R58, R59, R430, R434, R446, R447, R454, R456, R460, R461, R484) -/
def Obligations.StewardAndHostCommandsComplete : Prop :=
  (∀ (v : W64) (s : State), s.dark = false → bit v 2 = true → s.reset_.arBusy = none → exec (.archiveRead v) s = .next { s with
    reset_ := { s.reset_ with arSlot := BitVec.ofNat 2 (fld v 0 2), arDone := s.reset_.arDone && !bit v 4
                              arBusy := some (BitVec.ofNat 2 (fld v 0 2), fld s.reset_.arBuf 0 48) }
    host := { s.host with resp := .done 0 } }) ∧
  (∀ (s u : State) (slot : BitVec 2) (buf : Nat) (x : ArchiveRec) (ok : Bool), s.reset_.arBusy = some (slot, buf) → s.inCarve buf archiveSlotBytes = true →
    s.stw.custodian.st = .running → s.dark = false → sget none s.reset_.archive slot.toNat = some x →
    s.writeAck ownerHost buf (padTo archiveSlotBytes x.bytes) = (u, ok) → exec .archiveCopyDone s = .next (s.archiveFrame (State.settle { u with
      reset_ := { u.reset_ with arBusy := none, arDone := true, arError := !ok } }))) ∧
  (∀ (p : Proc) (s : State), s.procUp p = true → (s.proc p).st = .running → (s.proc p).restarts.length < 2 → s.mem.newPoison = [] →
    ∃ t, exec (.watchdogExpire p) s = .next t ∧ (t.proc p).st = .restarting ∧ t.stw.restarts = satAdd s.stw.restarts 1 ∧ bit t.stw.events 7 = true) ∧
  (∀ (p : Proc) (s : State), s.procUp p = true → (s.proc p).st = .restarting →
    (s.time.ticks ≤ (s.proc p).since + procBound p * nsT → (p = .custodian ∨ p = .bursar) → s.host.held = [] → s.mem.newPoison = [] →
      exec (.restartComplete p) s = .next (s.onProc p (fun k => { k with st := .running }))) ∧
    exec (.restartExceedsBound p) s = .next (s.resetFrame ((s.runTo ((s.proc p).since + procBound p * nsT)).failProc p).settle)) ∧
  (∀ (v : W64) (s u : State), PageServes s .custodian (negPage + 0x58) → s.stw.romOnly = false → s.ringsOn = false →
    u = { s with stw := { s.stw with accept := BitVec.ofNat 256 (setFld s.stw.accept.toNat 192 64 v.toNat % 2 ^ 71) } } →
    exec (.featAcceptWrite v) s = .next { u with
      stw := { u.stw with agreed := u.offer &&& u.stw.accept, neg := if fld s.stw.hostIf 8 8 = fld s.stw.ifVersion 8 8 then 1 else 2 }
      host := { s.host with resp := .done 0 } }) ∧
  (∀ (v : W32) (s : State), PageServes s .custodian (pkgPage + 0x50) → fld v 0 3 ≤ 4 → exec (.memcfgWrite v) s = .next { s with
    stw := { s.stw with memcfg := BitVec.ofNat 32 (fld v 0 10) }, host := { s.host with resp := .done 0 } }) ∧
  (∀ (m : Fin 2) (s : State), bit s.stw.ucie m = true → ∃ t, exec (.ucieModuleDown m) s = .next t ∧
    t.stw.ucie = clearBit s.stw.ucie m ∧ bit t.stw.events 6 = true ∧ t.reset_.fcBeyond = satAdd s.reset_.fcBeyond 1) ∧
  (∀ (v : W64) (s : State), PageServes s .custodian (pkgPage + 0x180) → fld v 0 3 ≠ 0 → exec (.svnCommit v) s = .next { s with
    stw := { s.stw with svnBusy := some (BitVec.ofNat 3 (fld v 0 3) ||| s.stw.svnBusy.getD 0) }, host := { s.host with resp := .done 0 } }) ∧
  (∀ (s : State) (m : BitVec 3), s.custodianOn = true → s.stw.svnBusy = some m → ∃ t, exec .svnCommitDone s = .next t ∧ t.stw.svnBusy = none ∧
    ∀ c, c < 3 → bit m c = true → t.stw.ctr.getD c 0 = max (s.stw.ctr.getD c 0) (s.stw.svn.getD c 0)) ∧
  (∀ (i : Instr) (op : BitVec 2) (s : State), (i, op) ∈ [(Instr.report, 1#2), (.extend, 2#2), (.certs, 3#2)] →
    PageServes s .custodian (pkgPage + 0x100) → s.stw.attBusy = none → exec i s = .next { s with
      stw := { s.stw with attOp := op, attBusy := some (op, s.stw.nonce, fld s.stw.attBuf 0 48, s.now) }, host := { s.host with resp := .done 0 } }) ∧
  (∀ (s : State) (nonce : BitVec 384) (buf time : Nat), s.custodianOn = true → s.mem.newPoison = [] → s.attestAgreed = true →
    s.stw.attBusy = some (2, nonce, buf, time) → exec .attestOpDone s = .next { s with stw := { s.stw with
      meas := s.stw.meas.set 5 (Sys2Proof.Machine.extend (s.stw.meas.getD 5 0) nonce), attBusy := none, attDone := true, attError := false } }) ∧
  (∀ (s u : State) (nonce : BitVec 384) (buf time : Nat) (bs : List Byte) (ok : Bool), s.custodianOn = true → s.attestAgreed = true →
    s.attestOut buf bs = (u, ok) →
    (s.stw.attBusy = some (1, nonce, buf, time) → s.stw.lifecycle = 1 → bs = s.reportBytes nonce time → exec .attestOpDone s =
      .next (s.stewardFrame (State.settle (u.onStw (fun w => { w with attBusy := none, attDone := true, attError := !ok }))))) ∧
    (s.stw.attBusy = some (3, nonce, buf, time) → s.stw.certsHeld = true → bs = Config.certChain → exec .attestOpDone s =
      .next (s.stewardFrame (State.settle (u.onStw (fun w => { w with attBusy := none, attDone := true, attError := !ok })))))) ∧
  (∀ (v : W64) (s : State), PageServes s .custodian (negPage + 0x90) → s.stw.romOnly = false → bit v 7 = true → fld v 4 3 = 2 → s.stw.lifecycle = 1 →
    s.stw.lcBusy = none → ∃ t, exec (.lifecycleRequest v) s = .next t ∧ t.stw.lifecycle = 2 ∧ t.stw.lcResult = 1 ∧
    t.stw.transitions = s.stw.transitions + 1 ∧ t.host.resp = .done 0) ∧
  (∀ (v : W64) (s : State), PageServes s .custodian (pkgPage + 0x60) → s.mem.newPoison = [] →
    exec (.registerWrite { addr := pkgPage + 0x60, size := 8, value := v }) s = .next { s with
      stw := { s.stw with events := s.stw.events &&& ~~~(v &&& 0x1DF) }
      host := { s.host with low := sset none s.host.low (pkgPage + 0x60) none, resp := .done 0 } }) ∧
  (∀ (x r : HostReq) (s u : State) (bs : List Byte), r = wholeReq x → s.dark = false → s.stw.ucie ≠ 0 →
    s.ringReach 2 (s.hubBehind r.addr % 4) = true → r.addr < hbmEnd → s.hostRange r.addr r.size false = true →
    s.mem.heldAt s.layout r.addr sourceSteward = false → r.data = [] → (s.onMem (fun m => m.grant sourceSteward)).read r.addr r.size = (u, some bs) →
    exec (.hostAccess x) s = .next (s.resetFrame (u.respond (.done (leNat bs))).settle))

/-- Whenever exec answers next t from s: an engine command (matrix, vector, function load, copy) changes only memories, clusters,
clock, free-value count, the die health account, partitions and the count of beyond-class faults; a Curator command also the signals
and streams; an edge event only the mesh, the health account and three fault counts; a link event only the fabric, clock and two fault
counts; an edge event also the clock and the busy-cycle counts; a time event only time, the busy-cycle counts, the fabric, the host's
answer and event bits; a power-cap event only power, the answer and event bits; a Custodian register only the steward, the answer, and
what an attestation buffer write touches. Every other part of t equals that of s; where memory is not named, every byte of it reads as
before. (R99, R187, R45, R299, R324, R343, R429) -/
def Obligations.FamiliesChangeOnlyTheirOwnState : Prop :=
  (∀ (c : ClusterId) (s t : State) (i : Instr),
    i ∈ [Instr.mma c, .mmaComputeEnd c, .mmaEpilogueEnd c, .vop c, .vfunc c, .funcLoadResident c, .vrowstat c, .vnormFwd c, .vnormBwd c,
      .vsoftmaxFwd c, .vsoftmaxBwd c, .vconv c, .copy c, .copy2d c, .copyt c, .reblock c, .gather c, .scatter c] → exec i s = .next t →
    t = { s with mem := t.mem, clusters := t.clusters, time := t.time, fresh := t.fresh, panel := t.panel, parts := t.parts
                 reset_ := { s.reset_ with fcBeyond := t.reset_.fcBeyond } }) ∧
  (∀ (c : ClusterId) (s t : State) (i : Instr),
    i ∈ [Instr.folioFetch c, .curatorDispatch c, .wait c, .signal c, .fence c, .fenceSatisfied c, .call c, .timeat c, .timeatResume c, .end_ c] →
    exec i s = .next t →
    t = { s with mem := t.mem, clusters := t.clusters, time := t.time, fabric := t.fabric, panel := t.panel, parts := t.parts, red := t.red
                 reset_ := { s.reset_ with fcBeyond := t.reset_.fcBeyond } }) ∧
  (∀ (e : EdgeId) (sl : Fin 16) (d : Bool) (lane : Fin 66) (f : Flit) (r : DieId) (s t : State) (i : Instr),
    i ∈ [Instr.flitReceive e sl d f, .laneFailure e sl d lane, .laneReplaced e sl d, .sliceRetire e sl, .reweightDrainEnd r, .laneRepairRecord] →
    exec i s = .next t →
    t = { s with mesh := t.mesh, panel := t.panel, time := t.time, clusters := t.clusters
                 reset_ := { s.reset_ with fcLanes := t.reset_.fcLanes, fcSlices := t.reset_.fcSlices, fcBeyond := t.reset_.fcBeyond } }) ∧
  (∀ (l : LinkId) (b : Block) (ok : Bool) (j : JobId) (s t : State) (i : Instr),
    i ∈ [Instr.beaconSend l, .beacon l b ok, .trainingTimeout l, .absentRetrain l, .linkRejoinDrainEnd l, .epochGraceEnd j] → exec i s = .next t →
    t = { s with fabric := t.fabric, time := t.time, fresh := t.fresh, clusters := t.clusters
                 reset_ := { s.reset_ with fcBeyond := t.reset_.fcBeyond, fcLinks := t.reset_.fcLinks } }) ∧
  (∀ (v : W64) (off : Int) (n : Nat) (s t : State) (i : Instr),
    i ∈ [Instr.timeSyncSend, .ppsEdge n, .ptpMeasurement off, .timeSet v, .syncLossHoldover, .holdoverExpire, .refLossTimeout, .referenceLost] →
    exec i s = .next t →
    t = { s with time := t.time, clusters := t.clusters, fabric := t.fabric, host := t.host
                 stw := { s.stw with events := t.stw.events, errlog := t.stw.errlog } }) ∧
  (∀ (v : W64) (n : Nat) (s t : State) (i : Instr), i ∈ [Instr.powerCapWrite v, .bursarPowerMeasure n] → exec i s = .next t →
    t = { s with power := t.power, host := t.host, stw := { s.stw with events := t.stw.events, errlog := t.stw.errlog } }) ∧
  (∀ (v : W64) (w : W32) (m : Fin 2) (s t : State) (i : Instr),
    i ∈ [Instr.featAcceptWrite v, .memcfgWrite w, .svnCommit v, .svnCommitDone, .report, .extend, .certs, .attestOpDone, .ucieModuleDown m] →
    exec i s = .next t →
    t = { s with stw := t.stw, host := t.host, mem := t.mem, panel := t.panel, parts := t.parts, clusters := t.clusters
                 reset_ := { s.reset_ with fcBeyond := t.reset_.fcBeyond } })

/-- After reset no command waits; memory is zero and in canonical form; every clasp is 0; every cluster is idle with empty queues and
return stack, invalid accumulators, no resident function, no halt, not parked; both rings of every partition are disabled, PART_PARK is
0x107D0, every loss policy is 0x000003E8019F7F8F, no task is held and program slot 0 is active; every link reads class 0, port 7, down;
no context or binding is open; TIME_NOW is 0; the power cap is 5,000 W and best-effort issue 16/16; staging is IDLE; no event is set;
the negotiation is OPEN with nothing agreed; the hubs hold nothing. That the time state is ACQUIRE is read from the reset role (log
14). (R173, R198, R190, R121, R138, R212, R213, R320, R324, R344, R345, R347) -/
def Obligations.ResetLeavesTheStatedValues : Prop :=
  State.reset.pending = [] ∧ State.reset.mem.wf = true ∧ State.reset.mem.bytes = [] ∧
  (∀ c k : Nat, (State.reset.cl c).clasp k = 0) ∧
  (∀ c : Nat, (State.reset.cl c).cur.mode = .idle ∧ (State.reset.cl c).cur.stack = [] ∧ (State.reset.cl c).mxq = [] ∧
    (State.reset.cl c).vxq = [] ∧ (State.reset.cl c).cxq = [] ∧ (State.reset.cl c).acc0.valid = false ∧ (State.reset.cl c).acc1.valid = false ∧
    (State.reset.cl c).funcs = [] ∧ (State.reset.cl c).halt = none ∧ (State.reset.cl c).parked = false) ∧
  (∀ p : Nat, (State.reset.prt p).subq = 0 ∧ (State.reset.prt p).cq = 0 ∧ (State.reset.prt p).park = 0x107D0 ∧
    (State.reset.prt p).tasks = [] ∧ (State.reset.prt p).active = some 0 ∧ ∀ k : Nat, (State.reset.prt p).pol k = 0x000003E8019F7F8F) ∧
  (∀ l : Nat, (State.reset.link l).up = false ∧ (State.reset.link l).cls = 0 ∧ (State.reset.link l).port = 7) ∧
  State.reset.red.ctxs = [] ∧ State.reset.bindings = [] ∧
  State.reset.time.now = 0 ∧ State.reset.time.state = .acquire ∧
  State.reset.power.capW = 5000 ∧ State.reset.power.beFraction = 16 ∧
  State.reset.stage.state = 0 ∧ State.reset.stw.events = 0 ∧ State.reset.stw.neg = 0 ∧ State.reset.stw.agreed = 0 ∧
  (∀ h : Nat, (State.reset.hub h).ledgerCfg = 0 ∧ (State.reset.hub h).preopen = [] ∧ (State.reset.hub h).heldSignals = [])

/-- For every state whose memory is in canonical form (addresses and block numbers strictly rising, no entry equal to what an unlisted
one reads as), if a step answers next t then the memory of t is in canonical form, whatever the command and its operands. (R57, R270,
R273, R279) -/
def Obligations.EveryStepKeepsTheMemoryCanonical : Prop :=
  ∀ s t : State, s.mem.wf = true → step s = .next t → t.mem.wf = true

/-- For every step from s to t: each of the three anti-rollback counters of t is at least that of s; if every counter and every running
svn of s lies within 0 to 63, so do those of t; DECOMMISSIONED is never left; the number of transitions made never falls; and if the
lifecycle state changes, it changes along one of the six transitions that the table of lifecycle transitions lists. (R453) -/
def Obligations.FusesNeverGoBack : Prop :=
  ∀ s t : State, step s = .next t →
    (∀ c, c < 3 → s.stw.ctr.getD c 0 ≤ t.stw.ctr.getD c 0) ∧
    ((∀ c, c < 3 → s.stw.ctr.getD c 0 ≤ 63 ∧ s.stw.svn.getD c 0 ≤ 63) → ∀ c, c < 3 → t.stw.ctr.getD c 0 ≤ 63 ∧ t.stw.svn.getD c 0 ≤ 63) ∧
    (s.stw.lifecycle = 4 → t.stw.lifecycle = 4) ∧
    s.stw.transitions ≤ t.stw.transitions ∧
    (t.stw.lifecycle ≠ s.stw.lifecycle →
      (s.stw.lifecycle.toNat, t.stw.lifecycle.toNat) ∈ [(1, 2), (2, 3), (3, 1), (1, 4), (2, 4), (3, 4)])

/-- For every block and stored code whose state reads as valid, with the four syndromes sr, sc, kr and kc as the rule defines them:
each row of the table of the rule gives its action, and any other combination is uncorrectable. For every 512-bit block with its fresh
code: it reads as free of error; with any one of the 585 covered bits inverted it is mended to the original data; with any two
different ones inverted it is uncorrectable, and so never miscorrected. (R271) -/
def Obligations.SecdedMendsOneErrorAndDetectsTwo : Prop :=
  (∀ (d : Nat) (c : BitVec 80) (i j sr sc : Nat) (kr kc : Bool), codePoisoned c = false →
    sr = fld c 64 8 ^^^ rowParity d → sc = fld c 0 64 ^^^ colParity d →
    kr = (bit c 72 != parityOf (fld c 64 8) 8) → kc = (bit c 72 != parityOf (fld c 0 64) 64) →
    (sr = 0 → sc = 0 → kr = false → kc = false → decodeBlock d c = .ok) ∧
    (i < 8 → j < 64 → sr = 2 ^ i → sc = 2 ^ j → kr = false → kc = false → decodeBlock d c = .mend (d ^^^ 2 ^ (64 * i + j))) ∧
    (sr = 2 ^ i → sc = 0 → kr = true → kc = false → decodeBlock d c = .mend d) ∧
    (sr = 0 → sc = 2 ^ j → kr = false → kc = true → decodeBlock d c = .mend d) ∧
    (sr = 0 → sc = 0 → kr = true → kc = true → decodeBlock d c = .mend d) ∧
    (¬ (sr = 0 ∧ sc = 0 ∧ kr = kc) → ¬ (∃ i j, sr = 2 ^ i ∧ sc = 2 ^ j ∧ kr = false ∧ kc = false) → ¬ (∃ i, sr = 2 ^ i ∧ sc = 0 ∧ kr = true ∧ kc = false) →
      ¬ (∃ j, sr = 0 ∧ sc = 2 ^ j ∧ kr = false ∧ kc = true) → decodeBlock d c = .bad)) ∧
  (∀ d x y : Nat, ∀ flip : Nat → Nat × BitVec 80 → Nat × BitVec 80,
    (∀ k p, flip k p = if k < 512 then (p.1 ^^^ 2 ^ k, p.2) else (p.1, p.2 ^^^ BitVec.ofNat 80 (2 ^ (k - 512)))) →
    d < 2 ^ 512 → x < 585 → y < 585 → x ≠ y →
    decodeBlock d (codeFor d) = .ok ∧
    decodeBlock (flip x (d, codeFor d)).1 (flip x (d, codeFor d)).2 = .mend d ∧
    decodeBlock (flip y (flip x (d, codeFor d))).1 (flip y (flip x (d, codeFor d))).2 = .bad)

/-- For every memory in canonical form, block number b and 512-bit value d: after block b is written whole it holds d with the code of
d and decodes without error; every other block keeps its data and code; every byte outside the block reads as before; open merge
entries and new poisonings are unchanged. (R3, R259, R270, R273) -/
def Obligations.BlocksReadBackAndStayApart : Prop :=
  ∀ (m : MemSt) (x : MemX) (b d : Nat), m.wf = true → d < 2 ^ 512 →
    (m.writeWhole x b d).blockNat b = d ∧ (m.writeWhole x b d).code b = codeFor d ∧
    decodeBlock ((m.writeWhole x b d).blockNat b) ((m.writeWhole x b d).code b) = .ok ∧
    (∀ a, a ≠ b → (m.writeWhole x b d).blockNat a = m.blockNat a ∧ (m.writeWhole x b d).code a = m.code a) ∧
    (∀ a, a < 64 * b ∨ 64 * b + 64 ≤ a → sget 0 (m.writeWhole x b d).bytes a = sget 0 m.bytes a) ∧
    (m.writeWhole x b d).merge = m.merge ∧ (m.writeWhole x b d).newPoison = m.newPoison

/-- For a partition of 1, 2 or 4 quadrants and every address of its range: the stack lies among its own stacks, the within-stack offset
lies within a stack, and the model's inverse gives the address back, so no two addresses share a place. (R60, R62) -/
def Obligations.InterleaveIsOneToOne : Prop :=
  ∀ (b q0 n a : Nat), (n = 1 ∨ n = 2 ∨ n = 4) → b ≤ a → b % 512 = 0 → a < b + n * quadBytes →
    6 * q0 ≤ (interleave b q0 n a).1 ∧ (interleave b q0 n a).1 < 6 * q0 + 6 * n ∧
    (interleave b q0 n a).2 < quadBytes / 6 ∧
    unInterleave b q0 n (interleave b q0 n a).1 (interleave b q0 n a).2 = a

/-- For FP32, FP16, BF16, E4M3, E5M2, E3M2, E2M3 and E2M1 and every code of the format, whether or not overflow is held at the largest
finite value: a finite value, a signed zero included, rounds back to its own code with no flag; an infinity to its own code; a NaN to
the canonical NaN. (R72, R73, R78, R81) -/
def Obligations.FormatValuesRoundBackToTheirCodes : Prop :=
  ∀ (F : Fmt) (hold : Bool) (c : Nat), F ∈ [fp32, fp16, bf16, e4m3, e5m2, e3m2, e2m3, e2m1] → c < 2 ^ F.w →
    (vFinite (decode F c) = true → (roundTo F hold (decode F c)).run 0 = (c, 0)) ∧
    (vIsNan (decode F c) = true → (roundTo F hold (decode F c)).run 0 = (F.nan.getD 0, 0)) ∧
    (∀ sg, decode F c = .inf sg → (roundTo F hold (decode F c)).run 0 = (c, 0))

/-- Adding an FP32 contribution x to a ledger: a finite x adds the integer x times 2^160 to N; a zero adds nothing; each infinity and a
NaN set their flag and leave N. A ledger is added into a ledger by adding N and ORing the flags. The ledger of any list of
contributions is the same in every order, splitting a list and joining the two ledgers gives the ledger of the whole, and below 2^31
contributions N is the exact integer sum. (R356, R357) -/
def Obligations.LedgersAddExactlyInAnyOrder : Prop :=
  (∀ (l : Ledger) (w : W32),
    (fld w 23 8 ≠ 255 → l.add w = { l with n := l.n + BitVec.ofInt 320 (ledgerUnits w) }) ∧
    (∀ sg n d e, decode fp32 w.toNat = .num sg n d e → d = 1 ∧ -160 ≤ e ∧ ledgerUnits w = (if sg then -1 else 1) * ((n * 2 ^ (e + 160).toNat : Nat) : Int)) ∧
    (∀ sg, decode fp32 w.toNat = .zero sg → l.add w = l) ∧
    (decode fp32 w.toNat = .inf false → l.add w = { l with pinf := true }) ∧
    (decode fp32 w.toNat = .inf true → l.add w = { l with ninf := true }) ∧
    (decode fp32 w.toNat = .nan → l.add w = { l with nan := true })) ∧
  (∀ a b : Ledger, a.join b = { n := a.n + b.n, nan := a.nan || b.nan, pinf := a.pinf || b.pinf, ninf := a.ninf || b.ninf }) ∧
  (∀ (ws vs : List W32), ws.Perm vs → ws.foldl Ledger.add {} = vs.foldl Ledger.add {}) ∧
  (∀ (ws vs : List W32), (ws ++ vs).foldl Ledger.add {} = (ws.foldl Ledger.add {}).join (vs.foldl Ledger.add {})) ∧
  (∀ ws : List W32, ws.length < 2 ^ 31 → (ws.foldl Ledger.add {}).n.toInt = (ws.map ledgerUnits).sum)

/-- For every chunk whose present elements lie at rising offsets below 256 with magnitudes below 2^319: a receiver that reads the
sender's packets in order finds none malformed, finds last on the last packet only, and obtains exactly the present elements with their
ledgers, N being dropped where a flag is set. (R366, R367) -/
def Obligations.FragmentsCarryEveryPresentElement : Prop :=
  ∀ sums : Sparse Ledger, Sys2Proof.Rising sums → (∀ e ∈ sums, e.1 < 256 ∧ e.2.present = true ∧ e.2.mag < 2 ^ 319) →
    readChunk none (fragPackets sums) = some (sums.map (fun e => (e.1, if e.2.flagged then { e.2 with n := 0 } else e.2)))

/-- For CLASP_ADD of n to clasp k of a mapped cluster outside reset, not parked and not halted, with no wait pending on that clasp, the
first add to it in its cycle, and either no signal in flight that it could be or the next of its stream: if the sum lies below 2^31 the
clasp holds it and no other cluster state changes; the signal that brought it is in flight no more; else the clasp keeps its value and
the folio halts with CLASP_RANGE (0x0103): dispatch stops, the queues and waits are discarded, both accumulator buffers become invalid,
and the report is due within 1 microsecond. Memory, time, collective state, host and steward are unchanged. (R198, R200, R196) -/
def Obligations.ClaspAddAddsOrHalts : Prop :=
  ∀ (c : ClusterId) (k : ClaspId) (n : BitVec 16) (s : State) (v : W32),
    v = (s.cl c).clasp k + BitVec.ofNat 32 n.toNat →
    Rising (s.cl c).clasps → s.slotMapped (clusterSlot c) = true → s.inReset (clusterQuad c) = false →
    (s.cl c).parked = false → (s.cl c).halt = none → (∀ w ∈ (s.cl c).waiters, w.clasp.toNat ≠ k.val) →
    FirstAdd s c k → Arrives s c k n →
    ∃ t, exec (.claspAdd c k n) s = .next t ∧ t.mem = s.mem ∧ t.time = s.time ∧ t.red = s.red ∧ t.host = s.host ∧ t.stw = s.stw ∧
      t.fabric = { s.fabric with signals := t.fabric.signals } ∧
      t.fabric.signals.length + (if s.inFlight c k n = [] then 0 else 1) = s.fabric.signals.length ∧
      (v.toNat < 2 ^ 31 → ∃ e, t.clusters = (s.setCl c { (s.cl c).setClasp k v with lastEval := e }).clusters) ∧
      (2 ^ 31 ≤ v.toNat → t.parts = s.parts ∧
        t.clusters = (s.onCl c (fun r => { r with
          cur := { r.cur with mode := .halted, prefetch := [], current := none }
          mxq := [], vxq := [], cxq := [], mxIssued := none, waiters := [], granted := []
          acc0 := { r.acc0 with valid := false }, acc1 := { r.acc1 with valid := false }
          halt := some { code := 0x0103, cmdAddr := 0, flags := 0, due := s.time.ticks + 21000 }
          wake := true })).clusters)

/-- For a write of n to TILE_CLASP_ADD_k of a mapped cluster outside reset and not parked, with no wait pending on the clasp, the first
add to it in its cycle: a sum below 2^31 becomes the clasp's value; a sum outside the range is not applied, sets clasp_range in
STW_EVENTS and halts nothing; a write of 0 does nothing. The write is answered, and memory, fabric and collective state are unchanged.
(R203, R200) -/
def Obligations.HostAddToClasp : Prop :=
  ∀ (c : ClusterId) (k : ClaspId) (n : W32) (s : State) (v : W32),
    v = (s.cl c).clasp k + n → Rising (s.cl c).clasps →
    s.slotMapped (clusterSlot c) = true → s.inReset (clusterQuad c) = false →
    (s.cl c).parked = false → (∀ w ∈ (s.cl c).waiters, w.clasp.toNat ≠ k.val) → FirstAdd s c k →
    ∃ t, exec (.tileClaspAdd c k n) s = .next t ∧ t.mem = s.mem ∧ t.fabric = s.fabric ∧ t.red = s.red ∧ t.host.resp = .done 0 ∧
      (n ≠ 0 → v.toNat < 2 ^ 31 → (∃ e, t.clusters = (s.setCl c { (s.cl c).setClasp k v with lastEval := e }).clusters) ∧ t.stw = s.stw) ∧
      (n ≠ 0 → 2 ^ 31 ≤ v.toNat → t.clusters = s.clusters ∧ t.stw = { s.stw with events := s.stw.events ||| 1 }) ∧
      (n = 0 → t.clusters = s.clusters ∧ t.stw = s.stw)

/-- With two wait-and-takes pending on clasp k, in either order of arrival, the first CLASP_ADD of the cycle evaluates the older first:
both are satisfied when the sum covers both thresholds; only the older when the rest does not cover the younger; only the younger when
the sum covers it and not the older; none when it covers neither. The clasp loses exactly the thresholds taken, and a waiter not
satisfied stays. (R198, R199, R67) -/
def Obligations.TakesRunOldestFirst : Prop :=
  ∀ (c : ClusterId) (k : ClaspId) (n : BitVec 16) (s : State) (v : W32) (w1 w2 : Waiter),
    v = (s.cl c).clasp k + BitVec.ofNat 32 n.toNat → v.toNat < 2 ^ 31 →
    Rising s.clusters → Rising (s.cl c).clasps → s.slotMapped (clusterSlot c) = true → s.inReset (clusterQuad c) = false →
    (s.cl c).parked = false → FirstAdd s c k → Arrives s c k n →
    ((s.cl c).waiters = [w1, w2] ∨ (s.cl c).waiters = [w2, w1]) →
    w1.clasp.toNat = k.val → w2.clasp.toNat = k.val → w1.take = true → w2.take = true →
    w1.who = .mx → w2.who = .vx → stampLt w1.stamp w2.stamp = true → stampLt w2.stamp w1.stamp = false →
    w1.thr.toNat < 2 ^ 31 → w2.thr.toNat < 2 ^ 31 → (s.cl c).granted = [] →
    ∃ t, exec (.claspAdd c k n) s = .next t ∧
      (w1.thr.toNat + w2.thr.toNat ≤ v.toNat →
        (t.cl c).clasp k = v - w1.thr - w2.thr ∧ (t.cl c).waiters = [] ∧ (t.cl c).granted = [.mx, .vx]) ∧
      (w1.thr.toNat ≤ v.toNat → v.toNat < w1.thr.toNat + w2.thr.toNat →
        (t.cl c).clasp k = v - w1.thr ∧ (t.cl c).waiters = [w2] ∧ (t.cl c).granted = [.mx]) ∧
      (v.toNat < w1.thr.toNat → w2.thr.toNat ≤ v.toNat →
        (t.cl c).clasp k = v - w2.thr ∧ (t.cl c).waiters = [w1] ∧ (t.cl c).granted = [.vx]) ∧
      (v.toNat < w1.thr.toNat → v.toNat < w2.thr.toNat → (t.cl c).clasp k = v ∧ (t.cl c).waiters = [w1, w2] ∧ (t.cl c).granted = [])

/-- A hub that holds one signal, whose stream has landed as many bytes as the signal names and whose job is not suspended, lets it go
with SIGNAL_RELEASE: it is held no longer, its add is on its way to the clasp, and clusters, memory and partitions are unchanged.
(R202, R207) -/
def Obligations.HeldSignalIsReleased : Prop :=
  ∀ (h : Quad) (s : State) (x : HeldSignal), (s.hub h).heldSignals = [x] →
    (streamCount (s.hub h).inStreams x.stream).getD 0 = x.count →
    s.suspendedJob x.stream.dstCl.toNat x.job.toNat = false →
    ∃ t, exec (.signalRelease h) s = .next t ∧ t.red = (s.onHub h (fun b => { b with heldSignals := [] })).red ∧
      t.fabric = (s.releasedSignal (s.slotOfJob x.stream.dstCl.toNat x.job.toNat) x).fabric ∧
      t.clusters = s.clusters ∧ t.mem = s.mem ∧ t.parts = s.parts

/-- A cluster that is still, in a partition that enables parking, is parked by CLUSTER_PARK once park_after nanoseconds (at least 500)
have passed; a parked cluster that an event has roused runs again at CLUSTER_WAKE. Memory, and in parking the partitions, are
unchanged. That CLUSTER_PARK runs the clock is the model's choice (log 2). (R210, R212) -/
def Obligations.ClusterParksAndWakes : Prop :=
  (∀ (c : ClusterId) (s : State), (s.cl c).still = true → (s.cl c).parked = false → s.mayRun c = true →
    bit (s.parkReg (s.clPart c)) 16 = true →
    ∃ t u, u = s.runTo ((s.cl c).movedAt + max 500 (fld (s.parkReg (s.clPart c)) 0 16) * 21) ∧
      exec (.clusterPark c) s = .next t ∧ t.time = u.time ∧
      t.clusters = (u.onCl c (fun r => { r with parked := true, wake := false })).clusters ∧ t.mem = s.mem ∧ t.parts = s.parts) ∧
  (∀ (c : ClusterId) (s : State), sok 0 (s.cl c).clasps = true → (s.cl c).parked = true → (s.cl c).wake = true → (s.cl c).waiters = [] →
    ∃ t, exec (.clusterWake c) s = .next t ∧ t.mem = s.mem ∧ t.time = s.time ∧
      t.clusters = (s.onCl c (fun r => { r with parked := false, wake := false, movedAt := s.time.ticks })).clusters)

/-- When the Curator of a cluster fetches: at an address of its folio places whose block is sound, the block's 64 bytes join its
prefetch, with their address, and the fetch address goes on by 64; at any other address, with nothing fetched or under way, the folio
halts with FETCH_FAULT (0x0102). Nothing else changes. (R190, R191, R196) -/
def Obligations.FolioFetchReadsOneCommand : Prop :=
  ∀ (c : ClusterId) (s : State) (a : Nat), (s.cl c).cur.fetch = a → a % 64 = 0 →
    s.mayRun c = true → (s.cl c).cur.fetches = true → s.mem.newPoison = [] →
    (s.folioAt c a = true → (∀ e ∈ s.mem.merge, e.block ≠ a) → (∀ r ∈ s.mem.vague, ¬ (r.1 ≤ a / 64 ∧ a / 64 < r.1 + r.2.1)) →
      decodeBlock (s.mem.blockNat (a / 64)) (s.mem.code (a / 64)) = .ok →
      exec (.folioFetch c) s = .next (s.onCl c (fun r => { r with cur := { r.cur with
        prefetch := r.cur.prefetch ++ [{ cmd := BitVec.ofNat 512 (s.mem.blockNat (a / 64)), addr := a, stamp := 0 }]
        fetch := a + 64 } }))) ∧
    (s.folioAt c a = false → (s.cl c).cur.prefetch = [] → (s.cl c).cur.current = none →
      exec (.folioFetch c) s = .next (s.haltCluster c 0x0102 a 0))

/-- When the Curator may dispatch: a command whose header is bad halts the folio with COMMAND_BAD (0x0100); a matrix, vector or copy
command joins its engine's queue while that holds fewer than 32, stamped and ready at its dispatch slot's cycle, which lies at least
eight cycles after the slot before; a control or hub command without a wait becomes the Curator's current one. A current hub command is
forwarded while fewer than four of the cluster's are outstanding, those of a suspended program among them, and otherwise stays. (R187,
R188, R193) -/
def Obligations.CommandsAreDispatchedByClass : Prop :=
  (∀ (c : ClusterId) (s u : State) (q d : QCmd) (rest : List QCmd) (go : Cluster → Cluster), s.mayRun c = true → (s.cl c).cur.mode = .running →
    s.issueHeld c = false → (s.cl c).cur.current = none → (s.cl c).cur.prefetch = q :: rest → u = s.toSlot c →
    d = { q with stamp := u.stamp, ready := u.cycle } →
    (∀ r, go r = { r.slotUsed u.cycle with movedAt := u.time.ticks }) →
    (∀ x, (s.cl c).dispatched.head? = some x → x + 8 ≤ u.cycle) ∧
    (s.headerGood c q.cmd = false → exec (.curatorDispatch c) s = .next (s.haltCluster c 0x0100 q.addr 0)) ∧
    (s.headerGood c q.cmd = true →
      (hClass q.cmd = 0 → (s.cl c).mxCount < 32 → exec (.curatorDispatch c) s =
        .next (u.onCl c (fun r => go (({ r with cur := { r.cur with prefetch := rest }, mxq := r.mxq ++ [d] } : Cluster).arm u.cycle)))) ∧
      (hClass q.cmd = 1 → (s.cl c).vxCount < 32 → exec (.curatorDispatch c) s =
        .next (u.onCl c (fun r => go (({ r with cur := { r.cur with prefetch := rest }, vxq := r.vxq ++ [d] } : Cluster).arm u.cycle)))) ∧
      (hClass q.cmd = 2 → (s.cl c).cxCount < 32 → exec (.curatorDispatch c) s =
        .next (u.onCl c (fun r => go (({ r with cur := { r.cur with prefetch := rest }, cxq := r.cxq ++ [d] } : Cluster).arm u.cycle)))) ∧
      (hClass q.cmd = 3 → hWait q.cmd = false → exec (.curatorDispatch c) s =
        .next (u.onCl c (fun r => go { r with
          cur := { r.cur with prefetch := rest, current := some d, mode := .running }
          granted := r.granted ++ [.curator] }))))) ∧
  (∀ (c : ClusterId) (s : State) (q : QCmd), s.mayRun c = true → (s.cl c).cur.mode = .running →
    s.issueHeld c = false → (s.cl c).cur.current = some q → 0xD0 ≤ hOpcode q.cmd → (s.cl c).granted = [.curator] →
    ((s.cl c).hubq.length < 4 → exec (.curatorDispatch c) s = .next (s.onCl c (fun r => { r with
      granted := [], cur := { r.cur with current := none, mode := .running }, movedAt := s.time.ticks
      hubq := r.hubq ++ [{ q := q, prog := r.prog }] }))) ∧
    (4 ≤ (s.cl c).hubq.length → exec (.curatorDispatch c) s = .next s))

/-- A WAIT, a SIGNAL, a FENCE whose engines are drained and a TIMEAT whose time has passed finish at once, sending a local signal when
the command names one. A FENCE not yet satisfied stops dispatch until its engines are drained, and FENCE_SATISFIED then resumes it and
does nothing before; a TIMEAT ahead of its time stops dispatch, and TIMEAT_RESUME resumes it once TIME_NOW has reached it. That
TIMEAT_RESUME runs the clock to its time is the model's choice (log 2). (R254, R256, R202) -/
def Obligations.ControlCommandsFinishStopAndResume : Prop :=
  (∀ (c : ClusterId) (s : State) (q : QCmd) (i : Instr), s.mayRun c = true → (s.cl c).cur.mode = .running →
    (s.cl c).cur.current = some q → (s.cl c).granted = [.curator] →
    ((i = .wait c ∧ hOpcode q.cmd = 0xC0) ∨ (i = .signal c ∧ hOpcode q.cmd = 0xC1) ∨
      (i = .fence c ∧ hOpcode q.cmd = 0xC2 ∧ (s.cl c).fenced (wfld q.cmd 5 0 4) = true) ∨
      (i = .timeat c ∧ hOpcode q.cmd = 0xC4 ∧ nfld q.cmd.toNat 160 64 ≤ s.now)) →
    hRemote q.cmd = false →
    ∃ u, u = s.onCl c (fun r => { r with granted := [], cur := { r.cur with current := none, mode := .running }, movedAt := s.time.ticks }) ∧
      (hSignal q.cmd = true →
        exec i s = .next (u.localSignal (s.cl c).prog (hTarget q.cmd) (hTargetClasp q.cmd) (hInc q.cmd))) ∧
      (hSignal q.cmd = false → exec i s = .next u)) ∧
  (∀ (c : ClusterId) (s : State) (q : QCmd), s.mayRun c = true → (s.cl c).cur.current = some q → hSignal q.cmd = false →
    ((s.cl c).cur.mode = .running → (s.cl c).granted = [.curator] → hOpcode q.cmd = 0xC2 →
      (s.cl c).fenced (wfld q.cmd 5 0 4) = false →
      exec (.fence c) s = .next (s.onCl c (fun r => { r with cur := { r.cur with mode := .stopFence (BitVec.ofNat 4 (wfld q.cmd 5 0 4)) } }))) ∧
    ((s.cl c).cur.mode = .running → (s.cl c).granted = [.curator] → hOpcode q.cmd = 0xC4 →
      s.now < nfld q.cmd.toNat 160 64 →
      exec (.timeat c) s = .next (s.onCl c (fun r => { r with cur := { r.cur with mode := .stopTime (nfld q.cmd.toNat 160 64) } }))) ∧
    (∀ m : BitVec 4, (s.cl c).cur.mode = .stopFence m → (s.cl c).fenced m.toNat = true → (s.cl c).granted = [.curator] →
      exec (.fenceSatisfied c) s = .next (s.onCl c (fun r => { r with
        granted := [], cur := { r.cur with current := none, mode := .running }, movedAt := s.time.ticks }))) ∧
    (∀ m : BitVec 4, (s.cl c).cur.mode = .stopFence m → (s.cl c).fenced m.toNat = false → exec (.fenceSatisfied c) s = .next s) ∧
    (∀ ns : Nat, (s.cl c).cur.mode = .stopTime ns → (s.cl c).granted = [.curator] → s.time.slew = 0 →
      ∃ u, u = s.runTo (s.time.ticks + (ns * 21 - s.time.now)) ∧ u.time.now = max s.time.now (ns * 21) ∧
        exec (.timeatResume c) s = .next (u.onCl c (fun r => { r with
          granted := r.granted.filter (fun w => w != .curator), cur := { r.cur with current := none, mode := .running }, movedAt := u.time.ticks }))))

/-- CALL below depth 8 pushes the address of the next command and fetches at its target; at depth 8 the folio halts with CALL_DEPTH
(0x0101). END with a return address resumes the caller there; at depth 0 it stops dispatch. CLUSTER_PART_END then, with all queues
empty, every command complete and no forwarded command outstanding, makes the cluster idle and counts it among those that have ended,
while others of the task run on. (R190, R222, R254, R255) -/
def Obligations.CallsReturnAndPartsEnd : Prop :=
  (∀ (c : ClusterId) (s : State) (q : QCmd), Rising s.clusters → s.mayRun c = true → (s.cl c).cur.mode = .running →
    (s.cl c).cur.current = some q → (s.cl c).granted = [.curator] → hSignal q.cmd = false →
    (hOpcode q.cmd = 0xC3 → (s.cl c).cur.stack.length < 8 →
      ∃ t, exec (.call c) s = .next t ∧ (t.cl c).cur.stack = (q.addr + 64) :: (s.cl c).cur.stack ∧
        (t.cl c).cur.fetch = wfld q.cmd 5 0 32 * 2 ^ 6 + wfld q.cmd 6 0 10 * 2 ^ 38 ∧ (t.cl c).cur.prefetch = [] ∧
        (t.cl c).cur.current = none ∧ (t.cl c).cur.mode = .running ∧ (t.cl c).clasps = (s.cl c).clasps ∧
        (∀ d : Nat, d ≠ c.val → t.cl d = s.cl d) ∧ t.mem = s.mem ∧ t.fabric = s.fabric) ∧
    (hOpcode q.cmd = 0xC3 → 8 ≤ (s.cl c).cur.stack.length → exec (.call c) s = .next (s.haltCluster c 0x0101 q.addr 0)) ∧
    (∀ (a : Addr) (rest : List Addr), hOpcode q.cmd = 0xC5 → (s.cl c).cur.stack = a :: rest →
      ∃ t, exec (.end_ c) s = .next t ∧ (t.cl c).cur.stack = rest ∧ (t.cl c).cur.fetch = a ∧ (t.cl c).cur.prefetch = [] ∧
        (t.cl c).cur.current = none ∧ (t.cl c).cur.mode = .running ∧ (t.cl c).clasps = (s.cl c).clasps ∧
        (∀ d : Nat, d ≠ c.val → t.cl d = s.cl d) ∧ t.mem = s.mem ∧ t.fabric = s.fabric) ∧
    (hOpcode q.cmd = 0xC5 → (s.cl c).cur.stack = [] → exec (.end_ c) s = .next (s.onCl c (fun r => { r with
        granted := [], movedAt := s.time.ticks, cur := { r.cur with mode := .ending, prefetch := [] } })))) ∧
  (∀ (c : ClusterId) (s : State) (q : QCmd) (t : Task), Rising s.clusters → (s.cl c).cur.mode = .ending → (s.cl c).cur.current = some q →
    hSignal q.cmd = false → (s.cl c).halt = none → s.regOn = true → s.mem.newPoison = [] → (s.cl c).mxCount = 0 → (s.cl c).vxCount = 0 →
    (s.cl c).cxCount = 0 → (s.cl c).forwarded = [] → s.taskOf c = some t →
    (∀ u, u ∈ (s.prt (s.clPart c)).tasks → u.index = t.index → u = t) → c.val ∉ t.ended →
    (∃ d, d ∈ t.clusters ∧ d ≠ c.val ∧ d ∉ t.ended) →
    exec (.clusterPartEnd c) s = .next ((s.onCl c (fun r => { r with movedAt := s.time.ticks, cur := { r.cur with mode := .idle, current := none } })).onPart
      (s.clPart c) (fun p => { p with tasks := p.tasks.map (fun u => if u.index = t.index then { t with ended := t.ended ++ [c.val] } else u) })))

/-- When a vector command of a cluster completes, with its narrow writes acknowledged, its completion register takes status, numeric
flags and command address; status OK sends the local signal that the command names, if any, and halts nothing; any other status halts
the folio with that code, address and flags, and sends no signal. (R195, R196, R227) -/
def Obligations.CommandCompletionSignalsOrHalts : Prop :=
  ∀ (c : ClusterId) (s : State) (d : DoneCmd), Rising s.clusters → (s.cl c).vxDone = some d → (s.cl c).load = none → d.due ≤ s.time.ticks →
    (∀ e ∈ s.mem.merge, ownerOf c .vx ∉ e.owners) → ownerOf c .vx ∉ s.mem.lost → s.mem.newPoison = [] → (s.cl c).vxq = [] → (s.cl c).mxq = [] →
    (s.cl c).cxq = [] → (s.cl c).mxIssued = none → (s.cl c).halt = none → (s.cl c).cur.mode ≠ .idle → d.q.addr < carrelBase → hRemote d.q.cmd = false →
    ∃ t, exec (.commandComplete c .vx) s = .next t ∧ (t.cl c).vxDone = none ∧ t.mem = s.mem.grant c ∧ t.time = s.time ∧
      (t.cl c).cplVx = BitVec.ofNat 64 (d.status.toNat + d.flags.toNat * 2 ^ 16 + d.q.addr / 64 * 2 ^ 27) ∧
      (d.status = 0 → hSignal d.q.cmd = true → (t.cl c).halt = none ∧
        t.fabric = (s.localSignal (s.cl c).prog (hTarget d.q.cmd) (hTargetClasp d.q.cmd) (hInc d.q.cmd)).fabric) ∧
      (d.status = 0 → hSignal d.q.cmd = false → (t.cl c).halt = none ∧ t.fabric = s.fabric) ∧
      (d.status ≠ 0 → t.fabric = s.fabric ∧ (t.cl c).cur.mode = .halted ∧
        (t.cl c).halt = some { code := d.status, cmdAddr := d.q.addr, flags := d.flags, due := s.time.ticks + 21000 })

/-- For an MMA at the head of the matrix queue, its turn come, whose descriptors are sound: it issues when it is ready and the compute
before it has started, and is checked in the spec's order. One that passes starts once the array and its accumulator buffer are free,
48 cycles after its issue where the array was idle, and computes for as many cycles as its K-groups take and its bank conflicts cost;
while the array or the buffer is not free it stays issued. One that does not pass completes 48 cycles after its issue with the failing
status and no effect. No other cluster changes. The bank conflicts are a free value, drawn at the issue (log 16). (R105, R123, R230,
R231) -/
def Obligations.MmaStartsOrIsRefused : Prop :=
  ∀ (c : ClusterId) (s w u : State) (q : QCmd) (k : Cluster) (d : MmaDescs) (st : BitVec 16) (issue : Nat), Rising s.clusters →
    w = s.mxTurn c → k = w.cl c → k.head .mx 0x01 = some q →
    u = w.onMem (fun m => m.touchAll w.mx ((mmaTds q.cmd).map (tdBlock c))) → u.mem.newPoison = [] →
    u.mem.sound ((mmaTds q.cmd).map (tdBlock c)) = true → d = mmaDescs u.mem c q.cmd → st = u.mmaCheck c q.cmd d →
    issue = max q.ready k.mxStart →
    ∃ t, exec (.mma c) s = .next t ∧ t = { u with clusters := t.clusters, fresh := t.fresh } ∧ (∀ e : Nat, e ≠ c.val → t.cl e = w.cl e) ∧
      (st = stOk → t.fresh = s.fresh + 1 ∧ ∃ j : MxJob, j = {
          q := q, da := d.a, db := d.b, dc := d.c, dr := d.r, dp := d.p
          start := issue + (if k.mxCompFree ≤ issue then 48 else 0), conf := Config.bankConflicts s.fresh } ∧
        ((k.mxComp.isSome = true ∨ k.bufFree (mmBuf q.cmd) = false) → t.cl c = { k.pop .mx with mxIssued := some j }) ∧
        (k.mxComp = none → k.bufFree (mmBuf q.cmd) = true → ∃ start fin : Nat,
          start = max (max k.mxCompFree (sget 0 k.mxBufFree (mmBuf q.cmd))) j.start ∧
          fin = start + kGroups (mmK q.cmd) * groupCycles (tFmt d.a) (tFmt d.b) + Config.bankConflicts s.fresh ∧
          (t.cl c).mxComp = some { j with start := start, computeEnd := fin } ∧ (t.cl c).mxIssued = none ∧
          (t.cl c).mxStart = start ∧ (t.cl c).mxCompFree = fin)) ∧
      (st ≠ stOk → t.fresh = s.fresh ∧
        t.cl c = ((k.pop .mx).mxFinish q st 0 ((issue + 48) * 10)).arm u.cycle)

/-- When the computation of an MMA ends and every K-group could be read, its product stands in its accumulator buffer with its M and N,
valid from the completion on; with write 0 the command finishes with the flags met; with write 1 its epilogue begins when the path is
free and takes the cycles of its rows. The conflict count rises by the command's bank conflicts. The bank conflicts are a free value
(log 16). (R121, R122, R123, R125, R128) -/
def Obligations.MmaComputationEnds : Prop :=
  ∀ (c : ClusterId) (s : State) (m : MemSt) (j : MxJob) (vals : List W32) (fl : Flags),
    Rising s.clusters → (s.cl c).mxComp = some j → j.computeEnd * 10 ≤ s.time.ticks → (s.cl c).mxIssued = none →
    s.mem.readGroups s.mx c j (kGroups (mmK j.q.cmd)) 0 = (m, kGroups (mmK j.q.cmd)) → m.newPoison = [] →
    (m.product c j ((s.cl c).acc (mmBuf j.q.cmd)) (mmK j.q.cmd)).run 0 = (vals, fl) →
    ∃ t k, exec (.mmaComputeEnd c) s = .next t ∧
      t = { s with mem := m, clusters := t.clusters } ∧ (∀ e : Nat, e ≠ c.val → t.cl e = s.cl e) ∧
      k = ({ s.cl c with mxComp := none, mxCompFree := j.computeEnd
                         mxConflicts := (s.cl c).mxConflicts + BitVec.ofNat 64 j.conf } : Cluster) ∧
      (mmWrite j.q.cmd = false → t.cl c = (k.setAcc (mmBuf j.q.cmd)
          { (s.cl c).acc (mmBuf j.q.cmd) with m := mmM j.q.cmd, n := mmN j.q.cmd, vals := vals }).mxFinish j.q stOk fl (j.computeEnd * 10)) ∧
      (mmWrite j.q.cmd = true → ∃ e0 e1 : Nat, e0 = max j.computeEnd (s.cl c).mxEpiFree ∧
        e1 = e0 + epiCycles j.q.cmd { a := j.da, b := j.db, c := j.dc, r := j.dr, p := j.dp } ∧
        (t.cl c).mxEpi = (s.cl c).mxEpi ++ [{ j with epiStart := e0, epiEnd := e1, flags := fl }] ∧
        (t.cl c).mxEpiFree = e1 ∧ (t.cl c).mxDone = (s.cl c).mxDone ∧ (t.cl c).mxComp = none ∧
        (t.cl c).mxBufFree = sset 0 (s.cl c).mxBufFree (mmBuf j.q.cmd) e1 ∧
        (t.cl c).acc (mmBuf j.q.cmd) = { (s.cl c).acc (mmBuf j.q.cmd) with m := mmM j.q.cmd, n := mmN j.q.cmd, vals := vals })

/-- When an epilogue without function, residual or saved copy, into a result that is neither delayed-scaled nor block-scaled, ends:
each accumulator goes through the epilogue stages and is converted, the rows are written at the result descriptor's places, and the
command finishes with the flags met. Nothing else changes. (R117, R119, R120, R123, R125) -/
def Obligations.MmaEpilogueWritesItsRows : Prop :=
  ∀ (c : ClusterId) (s : State) (m : MemSt) (j : MxJob) (rest : List MxJob) (out : List OutRow) (fl : Flags),
    Rising s.clusters → (s.cl c).mxEpi = j :: rest → j.epiEnd * 10 ≤ s.time.ticks →
    mmFunc j.q.cmd = false → mmRes j.q.cmd = false → mmSave j.q.cmd = false → tDelayed j.dc = false → fmtBlocked (tFmt j.dc) = false →
    ((mapF (fun (a : W32) => epiElem j none a none) ((s.cl c).acc (mmBuf j.q.cmd)).vals) >>= fun ps =>
      convRows j.dc (chunkRows (mmN j.q.cmd) (mmM j.q.cmd) (ps.map (fun p => p.2)))).run j.flags = (out, fl) →
    m = s.mem.putRows s.mx (ownerCmd c .mx j.q) (carrelAt c (tBase j.dc)) (tPitch j.dc) 0 (carrelAt c (tBezBase j.dc)) (tBezPitch j.dc) 0 0 out →
    m.newPoison = [] →
    ∃ t, exec (.mmaEpilogueEnd c) s = .next t ∧ t = { s with mem := m, clusters := t.clusters } ∧
      t.cl c = ({ s.cl c with mxEpi := rest } : Cluster).mxFinish j.q stOk fl (j.epiEnd * 10) ∧ (∀ e : Nat, e ≠ c.val → t.cl e = s.cl e)

/-- For each of the eight vector commands and the six copy commands at the head of its queue, with sound descriptors: if its checks
pass, memory becomes what the command's work makes of it and the command awaits completion with the status and flags of that work after
the command's cost; else memory is as the descriptor reads left it and the command awaits completion with the failing status. No other
cluster changes and nothing outside memory and the cluster does. (R231, R234, R237, R239, R240, R241, R242, R243) -/
def Obligations.EngineCommandsRunOrAreRefused : Prop :=
  (∀ (c : ClusterId) (s u : State) (q : QCmd) (i : Instr) (op : Nat) (tds : Block → List Nat) (plan : State → Block → VPlan) (p : VPlan),
    (i, op, tds, plan) ∈ [(.vop c, 0x40, vopTds, vopPlan c), (.vfunc c, 0x41, vfuncTds, vfuncPlan c),
      (.vrowstat c, 0x42, vrTds, vrowstatPlan c), (.vnormFwd c, 0x43, vnfTds, vnormFwdPlan c), (.vnormBwd c, 0x44, vnbTds, vnormBwdPlan c),
      (.vsoftmaxFwd c, 0x45, vsfTds, vsoftmaxFwdPlan c), (.vsoftmaxBwd c, 0x46, vsbTds, vsoftmaxBwdPlan c), (.vconv c, 0x47, vconvTds, vconvPlan c)] →
    Rising s.clusters → (s.cl c).head .vx op = some q → (op = 0x41 → vfMode q.cmd ≠ 0) →
    u = (s.onMem (fun m => m.touchAll s.mx ((tds q.cmd).map (tdBlock c)))).onCl c (fun k => k.pop .vx) → u.mem.newPoison = [] →
    u.mem.sound ((tds q.cmd).map (tdBlock c)) = true → p = plan u q.cmd →
    (p.check = stOk → (p.work u.mem).1.newPoison = []) →
    ∃ t, exec i s = .next t ∧ t = { s with mem := t.mem, clusters := t.clusters } ∧ (∀ e : Nat, e ≠ c.val → t.cl e = s.cl e) ∧
      (p.check = stOk → t.mem = (p.work u.mem).1 ∧ t.cl c = { (s.cl c).pop .vx with
        vxDone := some { q := q, status := (p.work u.mem).2.2, flags := (p.work u.mem).2.1, due := (s.cycle + p.cost) * 10 } }) ∧
      (p.check ≠ stOk → t.mem = u.mem ∧ t.cl c = { (s.cl c).pop .vx with
        vxDone := some { q := q, status := p.check, flags := 0, due := (s.cycle + 24) * 10 } })) ∧
  (∀ (c : ClusterId) (s u : State) (q : QCmd) (i : Instr) (op : Nat) (tds : Block → List Nat) (plan : State → Block → CPlan) (p : CPlan),
    (i, op, tds, plan) ∈ [(.copy c, 0x80, fun _ => [], copyPlan c), (.copy2d c, 0x81, fun _ => [], copy2dPlan c),
      (.copyt c, 0x82, fun _ => [], copytPlan c), (.reblock c, 0x83, fun q => [rbDst q, rbSrc q], reblockPlan c),
      (.gather c, 0x84, fun _ => [], gatherPlan c), (.scatter c, 0x85, fun _ => [], scatterPlan c)] →
    Rising s.clusters → (s.cl c).head .cx op = some q →
    u = (s.onMem (fun m => m.touchAll s.mx ((tds q.cmd).map (tdBlock c)))).onCl c (fun k => k.pop .cx) → u.mem.newPoison = [] →
    u.mem.sound ((tds q.cmd).map (tdBlock c)) = true → p = plan u q.cmd →
    (p.check = stOk → (p.work u.mem).1.newPoison = []) →
    ∃ t, exec i s = .next t ∧ t = { s with mem := t.mem, clusters := t.clusters } ∧ (∀ e : Nat, e ≠ c.val → t.cl e = s.cl e) ∧
      (p.check = stOk → t.mem = (p.work u.mem).1 ∧ t.cl c = { (s.cl c).pop .cx with
        cxDone := some { q := q, status := (p.work u.mem).2.2, flags := (p.work u.mem).2.1, due := (s.cycle + p.cost) * 10 } }) ∧
      (p.check ≠ stOk → t.mem = u.mem ∧ t.cl c = { (s.cl c).pop .cx with
        cxDone := some { q := q, status := p.check, flags := 0, due := (s.cycle + 32) * 10 } }))

/-- A VFUNC of mode LOAD with a good header and a readable image empties the slot and loads the image; FUNC_LOAD_RESIDENT at its time
makes the image resident in that slot, and the command awaits completion with status OK. No other cluster changes. (R138, R139) -/
def Obligations.FunctionImageLoadsAndBecomesResident : Prop :=
  (∀ (c : ClusterId) (s : State) (q : QCmd) (d : Block) (a : Nat), Rising s.clusters → (s.cl c).head .vx 0x41 = some q → vfMode q.cmd = 0 →
    vfuncOpOk q.cmd = true → vRsvOk q.cmd = true → d = s.mem.td c (vS0 q.cmd) → a = carrelAt c (tBase d) →
    tOwnOk d = true → tBase d % 64 = 0 → tBase d + 12352 ≤ carrelSize → s.mem.newPoison = [] →
    (∀ b ∈ tdBlock c (vS0 q.cmd) :: blocksOf a 12352, s.mem.touch s.mx b = s.mem ∧ s.mem.poisoned b = false) →
    headerOk (BitVec.ofNat 512 (s.mem.blockNat (a / 64))) s.numerics = true →
    ∃ t, exec (.vfunc c) s = .next t ∧ t = { s with clusters := t.clusters } ∧ (∀ e : Nat, e ≠ c.val → t.cl e = s.cl e) ∧
      t.cl c = { (s.cl c).pop .vx with
        funcs := sset none (s.cl c).funcs (vfSlot q.cmd) none
        load := some { q := q, slot := vfSlot q.cmd, img := s.mem.image a, due := (s.cycle + 224) * 10 } }) ∧
  (∀ (c : ClusterId) (s : State) (j : LoadJob), (s.cl c).load = some j →
    exec (.funcLoadResident c) s = .next ((s.runTo j.due).onCl c (fun k => { k with
      load := none, funcs := sset none k.funcs j.slot (some j.img)
      vxDone := some { q := j.q, status := stOk, flags := 0, due := j.due } })))

/-- MERGE_COMMIT commits the entry of its block 128 ns after it opened. CARREL_SCRUB_ROW reads the next row of a bank that is on, at
its time in the pass, through the code, and goes on to the next row; HBM_SCRUB_BLOCK does the same for the next block of a stack whose
scrubbing is enabled. REQUEST_AGE_BLOCK records the oldest aged request of its pseudo-channel, by issue stamp and then source, and
changes nothing else. That the record of an aged request stays is the model's choice (log 17). (R69, R279, R281, R282) -/
def Obligations.MemoryUnitsCommitScrubAndAge : Prop :=
  ((∀ (s u : State) (e : MergeEntry) (block : Nat), block % 64 = 0 → s.mem.merge.find? (fun e => e.block == block) = some e →
    u = s.runTo (e.since + 128 * nsT) → (u.mem.commitOut u.mx e).newPoison = [] →
    exec (.mergeCommit block) s = .next (u.onMem (fun m => m.commitOut u.mx e)) ∧ max s.time.ticks (e.since + 128 * nsT) = u.time.ticks) ∧
  (∀ (st : SramStore) (bank : Fin 512) (s u : State) (n row from_ : Nat), st.bankOk bank = true → s.sramOn st = true →
    n = sramBankNo st bank → row = sget 0 s.mem.scrubRow n → row + 1 < bankRows →
    from_ = max (sget 0 s.mem.scrubFrom n) (sget 0 s.mem.scrubBase (sramQuad st)) → u = s.runTo (from_ + ceilDiv (row * passT) bankRows) →
    (u.mem.scrub u.mx (sramRowAt st bank row / 64)).newPoison = [] →
    exec (.carrelScrubRow st bank) s = .next (u.onMem (fun m =>
      let m := m.scrub u.mx (sramRowAt st bank row / 64)
      { m with scrubRow := sset 0 m.scrubRow n (row + 1) }))) ∧
  (∀ (stack : StackId) (s u : State) (m : MemSt) (k b : Nat), s.inReset (stack / 6) = false → bit s.reset_.pd (36 + stack) = true →
    bit (sget scrubCfgReset s.mem.hbmCfg stack) 8 = true → k = sget 0 s.mem.hbmNext stack → k + 1 < stackBlocks →
    u = s.runTo (sget 0 s.mem.hbmFrom stack + ceilDiv (k * scrubPeriod (sget scrubCfgReset s.mem.hbmCfg stack)) stackBlocks) →
    b = u.stackAt stack (64 * k) / 64 → m = (u.mem.commitBlock u.mx b).reveal b →
    decodeBlock (m.blockNat b) (m.code b) = .ok → m.newPoison = [] → (∀ r ∈ m.vague, ¬ (r.1 ≤ b ∧ b < r.1 + r.2.1)) →
    exec (.hbmScrubBlock stack) s = .next (u.onMem (fun _ => { m with hbmNext := sset 0 m.hbmNext stack (k + 1) })))) ∧
  (∀ (r : MemReq) (s : State) (k : Nat), reqOk r.addr = true → k = pseudoNo s.layout r.addr →
    ∃ t, exec (.requestAgeBlock r.addr r.stamp r.source) s = .next t ∧ t = { s with mem := { s.mem with aged := t.mem.aged } } ∧
      ((∀ x ∈ s.mem.aged, x.1 ≠ k) → t.mem.aged = s.mem.aged ++ [(k, r)]) ∧
      (∀ x, s.mem.aged = [(k, x)] → t.mem.aged = [(k, if memReqBefore r x then r else x)]))

/-- When the Registrar takes the report of a halted cluster, the halt first seen becomes the task's, and every cluster of the task that
has not halted, and whose Curator does not restart, halts with the same code, command address and flags: dispatch stops, its queues and
waits are discarded, its clasps keep their values. (R196, R197) -/
def Obligations.HaltReportHaltsEveryCluster : Prop :=
  ∀ (c : ClusterId) (s u : State) (t t' : Task) (h : HaltInfo) (fc : BitVec 9) (fh : HaltInfo) (p : Nat),
    s.haltOf c = some (t, h) → s.regOn = true → p = s.clPart c → t' = t.firstHalt c h → t'.halt = some (fc, fh) →
    s.ctxsOf p (tdSlot t.desc) = [] → s.bindings = [] →
    u = (s.haltAll t' fh).onPart p (fun q => { q with
      tasks := q.tasks.map (fun x => if x.index = t.index then { t' with st := .reported } else x) }) →
    exec (.haltReport c) s = .next (s.taskFrame ((u.endRecvs t.clusters (tdSlot t.desc)).serveAll.settleWaits.reap p).settle) ∧
    (∀ e : Nat, e ∈ t'.clusters → s.haltWaits t' e = false → (s.cl e).prog = tdSlot t.desc → (s.cl e).halt = none → Rising s.clusters →
      t'.clusters.Nodup → (u.cl e).cur.mode = .halted ∧ (u.cl e).halt = some { code := fh.code, cmdAddr := fh.cmdAddr, flags := fh.flags, due := s.time.ticks + 21000 } ∧
      (u.cl e).mxq = [] ∧ (u.cl e).vxq = [] ∧ (u.cl e).cxq = [] ∧ (u.cl e).waiters = [] ∧ (u.cl e).clasps = (s.cl e).clasps)

/-- The oldest RED_OPEN that a hub has not begun: bad operands, a plan out of range, an unreadable plan, or a plan that breaks the
rules or finds no room end it with the status of the rule; else a context with the command's operands and the plan read is open and the
command ends with OK. (R244, R361) -/
def Obligations.RedOpenOpensAContextOrIsRefused : Prop :=
  ∀ (c : ClusterId) (s : State) (h : HubCmd) (q : Block) (p job : Nat), s.hubNext c 0xD0 = some h → q = h.q.cmd → p = s.clPart c →
    job = s.jobOfHub c h →
    (s.openBad c h = true → HubGoes (.redOpen c) s (s.endHub c 0xD0 stContext)) ∧
    (s.openBad c h = false → s.rangeOk p (roPlan q) 64 = false → HubGoes (.redOpen c) s (s.endHub c 0xD0 stAddr)) ∧
    (s.openBad c h = false → s.rangeOk p (roPlan q) 64 = true → ∀ u : State, s.hubRead job (roPlan q) 64 = (u, none) →
      HubGoes (.redOpen c) s (u.endHub c 0xD0 stMem)) ∧
    (s.openBad c h = false → s.rangeOk p (roPlan q) 64 = true → ∀ (u : State) (bs : List Byte) (plan : Block),
      s.hubRead job (roPlan q) 64 = (u, some bs) → plan = BitVec.ofNat 512 (leNat bs) → pLogSize plan = 0 → roResult q = 0 →
      ((u.planOk job plan 0 (roTwin q) = true ∧ u.roomFor p (pWindow plan) = true) →
        HubGoes (.redOpen c) s ((u.endHub c 0xD0 stOk).openCtx {
          part := p, prog := h.prog, job := BitVec.ofNat 10 job, registrar := false, ctx := BitVec.ofNat 12 (roCtx q)
          gradient := roGradient q, topk := roTopk q, k := roKm1 q + 1, twin := roTwin q
          step := BitVec.ofNat 20 (roStep q), elements := roElements q, deadline := roDeadline q, plan := plan, result := 0 })) ∧
      (¬ (u.planOk job plan 0 (roTwin q) = true ∧ u.roomFor p (pWindow plan) = true) →
        HubGoes (.redOpen c) s (u.endHub c 0xD0 stContext)))

/-- A contribution to a context that is not open, or that breaks a check, ends with CONTEXT_BAD; one whose source is out of range ends
with ADDR_FAULT; one bound for another package over a stream without a counter ends with STREAM_LIMIT; else its pieces are delivered
here or sent there, the residue written for the sparse form, and it ends with OK or with MEM_UNCORRECTABLE where a block could not be
read: at once here, and when the last packet has left the hub there. (R245, R372) -/
def Obligations.ContributionsAreCheckedThenDelivered : Prop :=
  ∀ (c : ClusterId) (s : State) (i : Instr) (op p job : Nat) (h : HubCmd) (q : Block) (j : ContribJob),
    ((i = .redContrib c ∧ op = 0xD1) ∨ (i = .redContribTopk c ∧ op = 0xD2)) → s.hubNext c op = some h → q = h.q.cmd → p = s.clPart c →
    job = s.jobOfHub c h →
    (s.ctx? job 0 (rcCtx q) = none → HubGoes i s (s.endHub c op stContext)) ∧
    (∀ x, s.ctx? job 0 (rcCtx q) = some x → s.contribBad c h x (op == 0xD2) = true → HubGoes i s (s.endHub c op stContext)) ∧
    (∀ x, s.ctx? job 0 (rcCtx q) = some x → s.contribBad c h x (op == 0xD2) = false → s.rangeOk p (rcSrc q) (4 * rcCount q) = false →
      HubGoes i s (s.endHub c op stAddr)) ∧
    (∀ x, s.ctx? job 0 (rcCtx q) = some x → s.contribBad c h x (op == 0xD2) = false → s.rangeOk p (rcSrc q) (4 * rcCount q) = true →
      (op = 0xD2 → s.rangeOk p (rcResidue q) (8 * rcCount q) = true) → hRemote q = true → s.streamOpen h.prog c j.k = false →
      j = { h := h, c := c, x := x, remote := true, dst := s.named job (hPackage q), dstCl := hTarget q
            k := s.streamTo c (s.named job (hPackage q)) (hTarget q) } → HubGoes i s (s.endHub c op stStream)) ∧
    (∀ (x : Ctx) (u w : State) (ok : Bool) (fl : Flags), s.ctx? job 0 (rcCtx q) = some x → s.contribBad c h x (op == 0xD2) = false →
      s.rangeOk p (rcSrc q) (4 * rcCount q) = true → (op = 0xD2 → s.rangeOk p (rcResidue q) (8 * rcCount q) = true) →
      ((hRemote q = false ∧ j = { h := h, c := c, x := x, remote := false, dst := s.ownId, dstCl := 0x1FF, k := s.streamTo c s.ownId (hTarget q) }) ∨
        (hRemote q = true ∧ s.streamOpen h.prog c j.k = true ∧
          j = { h := h, c := c, x := x, remote := true, dst := s.named job (hPackage q), dstCl := hTarget q
                k := s.streamTo c (s.named job (hPackage q)) (hTarget q) })) →
      (op = 0xD1 → s.densePieces j (rcSrc q) (rcFirst q) 0 (pieces 128 (rcCount q + 1) (rcFirst q) (rcCount q)) = (u, ok, fl)) →
      (op = 0xD2 → s.topkPieces j (rcSrc q) (rcFirst q) (rcResidue q + 4 * rcCount q * ((x.step.toNat + 1) % 2))
        (rcResidue q + 4 * rcCount q * (x.step.toNat % 2)) 0 (pieces 256 (rcCount q + 1) (rcFirst q) (rcCount q)) = (u, ok, fl)) →
      w = u.completeCtxs →
      HubGoes i s (if hRemote q then w.sentHub c op (if ok then stOk else stMem) fl else w.endHub c op (if ok then stOk else stMem) fl))

/-- A RED_WAIT on no context ends with CONTEXT_BAD; a good one on an open context waits; when the context settles, the wait ends with
OK, or with CONTEXT_FAILED when it failed and the task is not under step control, and with the context's flags. (R246, R247) -/
def Obligations.RedWaitWaitsForItsContext : Prop :=
  ∀ (c : ClusterId) (s : State) (h : HubCmd) (q : Block), s.hubNext c 0xD3 = some h → q = h.q.cmd →
    (s.ctx? (s.jobOfHub c h) 0 (rcCtx q) = none → HubGoes (.redWait c) s (s.endHub c 0xD3 stContext)) ∧
    (∀ x, s.ctx? (s.jobOfHub c h) 0 (rcCtx q) = some x → wz q 5 13 19 = true → wordsFrom q 6 = true →
      HubGoes (.redWait c) s (s.startHub c 0xD3)) ∧
    (∀ x, s.settledCtx c h = some x → (s.waitEnd c h).done =
      some (if x.st = .failed ∧ s.stepCtl c h = false then stCtxFailed else stOk, x.flags, s.time.ticks))

/-- A RING_PASS with bad operands, without the ring feature, or out of range, ends with its status; forwarding to a package under
notice ends with PEER_DOWN, and over a stream without a counter with its status; else the bytes read are written to the carrel named,
or sent as packets to the package named, and it ends, forwarding when its last packet has left the hub, with OK, or with
MEM_UNCORRECTABLE where a block could not be read or written. (R248, R250) -/
def Obligations.RingPassMulticastsAndForwards : Prop :=
  ∀ (c : ClusterId) (s : State) (h : HubCmd) (q : Block) (p job n dst : Nat) (k : Stream), s.hubNext c 0xD4 = some h → q = h.q.cmd →
    p = s.clPart c → job = s.jobOfHub c h → n = rpBytes q → dst = s.named job (hPackage q) → k = s.streamTo c dst (hTarget q) →
    ((ringPassOk q = false ∨ s.feature featRing = false) → HubGoes (.ringPass c) s (s.endHub c 0xD4 stContext)) ∧
    (ringPassOk q = true → s.feature featRing = true → s.rangeOk p (addrPair q 5) n = false → HubGoes (.ringPass c) s (s.endHub c 0xD4 stAddr)) ∧
    (ringPassOk q = true → s.feature featRing = true → s.rangeOk p (addrPair q 5) n = true → rpOff q + n ≤ carrelSize →
      (∀ d ∈ span (rpFirst q) (rpCount q), s.rangeOk p (carrelAt d (rpOff q)) n = true) →
      (rpFwd q = true → s.noticed job dst = true → HubGoes (.ringPass c) s (s.endHub c 0xD4 stPeer)) ∧
      (rpFwd q = true → s.noticed job dst = false → s.streamOpen h.prog c k = false → HubGoes (.ringPass c) s (s.endHub c 0xD4 stStream)) ∧
      (rpFwd q = false → rpCount q = 1 → ∀ (u v : State) (bs : List Byte) (whole ok : Bool), s.hubPrefix job (addrPair q 5) n = (u, bs, whole) →
        u.hubWrite job (ownerOf c .hub) (carrelAt (rpFirst q) (rpOff q)) bs = (v, ok) →
        HubGoes (.ringPass c) s (v.endHub c 0xD4 (if whole && ok then stOk else stMem))) ∧
      (rpFwd q = true → s.noticed job dst = false → s.streamOpen h.prog c k = true → rpCount q = 0 →
        ∀ (u : State) (bs : List Byte) (whole : Bool), s.hubPrefix job (addrPair q 5) n = (u, bs, whole) →
        HubGoes (.ringPass c) s ((u.sendData h c k (u.writePackets c job k (addrPair q 10) bs)).sentHub c 0xD4 (if whole then stOk else stMem))))

/-- A SEND or RECV with bad operands, or out of range, ends with its status, and one to a package under notice with PEER_DOWN. A remote
SEND sends the bytes of its range as packets counted on its stream, and ends when the last has left the hub; a local one writes them to
their destination. A RECV asks its package for the range and stays under way until the answers have come. (R249, R250) -/
def Obligations.SendAndRecvMoveBytesBetweenPackages : Prop :=
  (∀ (c : ClusterId) (s : State) (h : HubCmd) (q : Block) (p job n pk : Nat) (k : Stream), s.hubNext c 0xD5 = some h → q = h.q.cmd →
    p = s.clPart c → job = s.jobOfHub c h → n = srBytes q → pk = s.named job (hPackage q) → k = s.streamTo c pk (hTarget q) →
    ((sendRecvOk q && wordsFrom q 10) = false → HubGoes (.send c) s (s.endHub c 0xD5 stContext)) ∧
    (sendRecvOk q = true → wordsFrom q 10 = true → s.rangeOk p (addrPair q 5) n = false → HubGoes (.send c) s (s.endHub c 0xD5 stAddr)) ∧
    (sendRecvOk q = true → wordsFrom q 10 = true → s.rangeOk p (addrPair q 5) n = true → hRemote q = true →
      (s.noticed job pk = true → HubGoes (.send c) s (s.endHub c 0xD5 stPeer)) ∧
      (s.noticed job pk = false → s.streamOpen h.prog c k = false → HubGoes (.send c) s (s.endHub c 0xD5 stStream)) ∧
      (s.noticed job pk = false → s.streamOpen h.prog c k = true → ∀ (u : State) (bs : List Byte) (whole : Bool),
        s.hubPrefix job (addrPair q 5) n = (u, bs, whole) →
        HubGoes (.send c) s ((u.sendData h c k (u.writePackets c job k (addrPair q 7) bs)).sentHub c 0xD5 (if whole then stOk else stMem)))) ∧
    (sendRecvOk q = true → wordsFrom q 10 = true → s.rangeOk p (addrPair q 5) n = true → hRemote q = false → s.rangeOk p (addrPair q 7) n = true →
      ∀ (u v : State) (bs : List Byte) (whole ok : Bool), s.hubPrefix job (addrPair q 5) n = (u, bs, whole) →
        u.hubWrite job (ownerOf c .hub) (addrPair q 7) bs = (v, ok) →
        HubGoes (.send c) s (v.endHub c 0xD5 (if whole && ok then stOk else stMem)))) ∧
  (∀ (c : ClusterId) (s : State) (h : HubCmd) (q : Block) (job n pk : Nat), s.hubNext c 0xD6 = some h → q = h.q.cmd →
    job = s.jobOfHub c h → n = srBytes q → pk = wfld q 10 0 13 →
    ((sendRecvOk q = false ∨ wz q 10 13 19 = false ∨ hRemote q = true ∨ pk = s.ownId ∨ s.plan.member job pk = false) →
      HubGoes (.recv c) s (s.endHub c 0xD6 stContext)) ∧
    (sendRecvOk q = true → wz q 10 13 19 = true → hRemote q = false → pk ≠ s.ownId → s.plan.member job pk = true →
      (s.rangeOk (s.clPart c) (addrPair q 7) n = false → HubGoes (.recv c) s (s.endHub c 0xD6 stAddr)) ∧
      (s.rangeOk (s.clPart c) (addrPair q 7) n = true → s.noticed job pk = true → HubGoes (.recv c) s (s.endHub c 0xD6 stPeer)) ∧
      (s.rangeOk (s.clPart c) (addrPair q 7) n = true → s.noticed job pk = false → HubGoes (.recv c) s
        ((s.onCl c (fun k => { k with hubq := onFirst (HubCmd.fresh 0xD6) (fun h => { h with started := true, left := n }) k.hubq })).inject
          (s.newPacket 1 0 job pk c 0x1FF (addrPair q 5) 0 (leBytes (addrPair q 7 + n * 2 ^ 64) 16))))))

/-- UPD_APPLY with reserved bits set, on no open context, or on one already bound ends with its status; else it binds, at once where no
binding of its descriptor stands, and waits where one of another step does; WAITING_BINDING_CHECK lets the waiting binding of a
descriptor with the oldest issue stamp bind when no binding of another step holds it. UPD_INSTALL with bad operands, of a rule without
a preconditioner, or beyond the region ends with its status; else its groups go to the buffer not selected and the installed count
rises. (R251, R252, R393, R401) -/
def Obligations.UpdateCommandsBindAndInstall : Prop :=
  ((∀ (c : ClusterId) (s : State) (h : HubCmd) (q : Block) (p : Nat), s.hubNext c 0xE0 = some h → q = h.q.cmd → p = s.clPart c →
    (updApplyRsv q = false → HubGoes (.updApply c) s ((s.updCount p HubSt.incDescBad).endHub c 0xE0 stDesc)) ∧
    (updApplyRsv q = true → s.ctx? (s.jobOfHub c h) 0 (uaCtx q) = none → HubGoes (.updApply c) s (s.endHub c 0xE0 stContext)) ∧
    (∀ x : Ctx, updApplyRsv q = true → s.ctx? (s.jobOfHub c h) 0 (uaCtx q) = some x →
      (x.bound = true → HubGoes (.updApply c) s (s.endHub c 0xE0 stContext)) ∧
      (∀ (b : Binding) (u : State), x.bound = false →
        b = { id := s.bindings.foldl (fun m b => max m (b.id + 1)) 0, part := p, cluster := c, cmdAddr := h.q.addr, cmd := q
              stamp := h.q.stamp, desc := uaDesc q, job := x.job, ctx := x.ctx, prog := h.prog, st := .waiting
              stepCtl := s.stepCtl c h, hstep := x.step, elements := x.elements, result := x.result, chunks := s.ownChunks x
              hubs := (s.ownChunks x).map (s.chunkHub x) } →
        u = ((s.startHub c 0xE0).setCtx { x with bound := true }).setBindings (s.bindings ++ [b]) →
        ((∃ y ∈ s.bindings, y.desc = uaDesc q ∧ (y.holds = true ∨ y.st = .waiting) ∧ y.hstep ≠ x.step) → HubGoes (.updApply c) s u) ∧
        ((∀ y ∈ s.bindings, y.desc ≠ uaDesc q) → HubGoes (.updApply c) s (u.bindNow b))))) ∧
  (∀ (desc : Addr) (s : State) (b : Binding) (ws : List Binding), ws = s.bindings.filter (fun b => b.desc == desc && b.st == .waiting) →
    (ws = [b] ∨ ∃ y, (ws = [b, y] ∨ ws = [y, b]) ∧ stampLt b.stamp y.stamp = true ∧ stampLt y.stamp b.stamp = false) →
    ((∃ y ∈ s.bindings, y.desc = desc ∧ y.holds = true ∧ y.hstep ≠ b.hstep) → HubGoes (.waitingBindingCheck desc) s s) ∧
    ((∀ y ∈ s.bindings, y.desc = desc → y.hstep ≠ b.hstep → y.holds = false) → HubGoes (.waitingBindingCheck desc) s (s.bindNow b)))) ∧
  (∀ (c : ClusterId) (s : State) (h : HubCmd) (q : Block) (p job : Nat), s.hubNext c 0xE1 = some h → q = h.q.cmd → p = s.clPart c →
    job = s.jobOfHub c h →
    (updInstallOk q = false → HubGoes (.updInstall c) s (s.endHub c 0xE1 stDesc)) ∧
    (updInstallOk q = true → s.rangeOk p (addrPair q 7) 320 = false → HubGoes (.updInstall c) s (s.endHub c 0xE1 stAddr)) ∧
    (updInstallOk q = true → s.rangeOk p (addrPair q 7) 320 = true → 
      ∀ (a : State) (bs : List Byte) (cf : UCfg) (us : UState), s.hubRead job (addrPair q 7) 320 = (a, some bs) →
        cf = BitVec.ofNat 1024 (leNat (bs.take 128)) → us = BitVec.ofNat 512 (leNat (bs.drop 256)) →
      ((uRule cf ≠ 3 ∨ s.feature featBlockpre = false ∨ uCount cf / 8 < cmdWord q 9 + cmdWord q 10) → HubGoes (.updInstall c) s (a.endHub c 0xE1 stDesc)) ∧
      (uRule cf = 3 → s.feature featBlockpre = true → cmdWord q 9 + cmdWord q 10 ≤ uCount cf / 8 → a.rangeOk p (addrPair q 5) (256 * cmdWord q 10) = true →
        a.rangeOk p (uAux cf + 512 * cmdWord q 9) (512 * cmdWord q 10) = true → 
        ∀ (b d : State) (ok : Bool),
          a.installGroups job (ownerOf c .hub) (addrPair q 5) (uAux cf + 512 * cmdWord q 9 + 256 * (1 - ustSel us)) (cmdWord q 10) = (b, true) →
          b.hubWrite job (ownerOf c .hub) (addrPair q 7 + 256) (leBytes (ustSet us 192 32 (ustInstalled us + cmdWord q 10)).toNat 64) = (d, ok) →
          HubGoes (.updInstall c) s (d.endHub c 0xE1 (if ok then stOk else stMem)))))

/-- When a closing binding's state block can be read and written, the last step becomes the binding's; a binding that is not frozen
counts one more update; and the UPD_APPLY that bound it ends with OK, or with MEM_UNCORRECTABLE where the write failed. A frozen one is
counted in frozen. (R409) -/
def Obligations.BindingClosesItsRegion : Prop :=
  ∀ (q : Quad) (s a d : State) (b : Binding) (bs : List Byte) (ok : Bool),
    s.bindings.find? (fun b => b.part == s.partOf q && b.st == .closing) = some b → uRow b.cfg = false →
    s.hubRead b.job.toNat (b.desc + 256) 64 = (a, some bs) →
    a.hubWrite b.job.toNat (ownerHub b.part) (b.desc + 256) (leBytes (b.closedState (BitVec.ofNat 512 (leNat bs))).toNat 64) = (d, ok) →
    ustLast (b.closedState (BitVec.ofNat 512 (leNat bs))) = b.step.toNat ∧
    (uFrozen b.cfg = true → HubGoes (.bindingClose q) s ((d.updCount b.part HubSt.incFrozen).updEnd b (if ok then stOk else stMem) (b.due + 21000))) ∧
    (uFrozen b.cfg = false → HubGoes (.bindingClose q) s (d.updEnd b (if ok then stOk else stMem) (b.due + 21000)) ∧
      ustCount (b.closedState (BitVec.ofNat 512 (leNat bs))) = (ustCount b.ust + 1) % 2 ^ 64)

/-- A step that is not ready to close is left alone. One that is ready, with no open context of the step, opens a verdict context of
two elements under the step's number, with a deadline of 1 ms, and contributes what the package has seen. (R167, R168, R380) -/
def Obligations.StepCloseOpensTheVerdictContext : Prop :=
  ∀ (q : Quad) (k : ProgSlot) (s u : State) (t : Task) (r : StepRec) (x : Ctx) (p n : Nat), p = s.partOf q → r = s.srec p k →
    s.taskInSlot p k = some t →
    (s.closeReady p k = false → HubGoes (.stepCloseBegin q k) s s) ∧
    (s.closeReady p k = true → s.stepCtxs p k r.step = [] → r.dlSeen = 0 → n = r.step.toNat % 4096 → sget 0 r.verdicts n = 0 →
      x = { part := p, prog := k, job := BitVec.ofNat 10 t.job, registrar := true, ctx := BitVec.ofNat 12 n, gradient := false, topk := false
            k := 1, twin := jTwin (s.jobEntry t.job), step := BitVec.ofNat 20 r.step.toNat, elements := 2, deadline := s.now + 1000000
            plan := verdictPlan (s.verdictStages t.job), result := 0 } →
      u = ((s.onSrec p k (fun r => { r with closing := true })).openCtx x).contributeVerdict x r.bSeen r.fSeen →
      HubGoes (.stepCloseBegin q k) s u.afterHub)

/-- PREOPEN_EXPIRE drops the oldest packet of a pre-open buffer 100 microseconds after it came and counts its units; LOGGED_UNIT_RETAKE
reads the oldest logged unit of a context that can take it from the log in HBM and takes it, or loses it where the log cannot be read;
CONTEXT_DEADLINE fails an open context whose deadline has passed. With nothing kept, logged or open, each does nothing. (R368, R370,
R375) -/
def Obligations.HubTimersActOnTheirOldest : Prop :=
  (∀ (h : Quad) (s : State), (∀ u rest, (s.hub h).preopen = u :: rest →
      HubGoes (.preopenExpire h) s (((s.runToNow (u.at_ + 100000)).onHub h (fun b => { b with preopen := b.preopen.tail })).lateDrop h (unitsOf u.pkt))) ∧
    ((s.hub h).preopen = [] → HubGoes (.preopenExpire h) s s)) ∧
  (∀ (h : Quad) (s : State), (∀ (c d : Ctx) (u : Unit_) (n a : Nat) (w : State) (bs : List Byte), s.retakable h = some (c, u) →
      n = 32 + u.pkt.payload.length → d = { c with log := c.log.tail, logBytes := c.logBytes - n } →
      a = (c.logAt + pLogSize c.plan - (d.logBytes + n)) % pLogSize c.plan → 0 < n → a + n ≤ pLogSize c.plan →
      ((s.setCtx d).read (pLogBase c.plan + a) n = (w, some bs) →
        HubGoes (.loggedUnitRetake h) s ((State.takeUnit 4 true u.hub w u.pkt u.at_).1).completeCtxs) ∧
      ((s.setCtx d).read (pLogBase c.plan + a) n = (w, none) → HubGoes (.loggedUnitRetake h) s (w.loseUnit d h u))) ∧
    (s.retakable h = none → HubGoes (.loggedUnitRetake h) s s)) ∧
  (∀ (q : Quad) (s : State), (∀ x : Ctx, s.red.ctxs = [x] → x.part = s.partOf q → x.st = .open_ → x.deadline ≤ (s.runToNow x.deadline).now →
      HubGoes (.contextDeadline q) s ((s.runToNow x.deadline).failCtx x 1)) ∧
    (s.red.ctxs = [] → HubGoes (.contextDeadline q) s s))

/-- For every packet of every kind: on a link that is down nothing happens; one that fails its check or lies in an uncorrectable
codeword is counted and replayed; one that is not the next in order only acknowledges; a CREDIT packet in order is taken. A replay is
counted, and the sixteenth within 1 ms takes the link down. (R288, R289) -/
def Obligations.LinkLayerChecksEveryPacket : Prop :=
  (∀ (a : Arrival) (s v : State) (i : Instr) (k : Nat), 
    (i, k) ∈ [(Instr.write a, 0), (.readReq a, 1), (.readRsp a, 2), (.contrib a, 4), (.contribTopk a, 5), (.fragment a, 6), (.result a, 7),
      (.twin a, 8), (.credit a, 10)] → a.pkt.wf k = true → s.commitDue = false → s.mem.newPoison = [] →
    v = s.onLink a.link (fun k => { k with
      fecCorrected := satAdd k.fecCorrected a.fixed, fecUncorrectable := satAdd k.fecUncorrectable a.bad }) →
    ((s.link a.link).up = false → exec i s = .next s) ∧
    ((s.link a.link).up = true → (a.crcOk = false ∨ a.bad ≠ 0) → exec i s = .next (v.replayed a.link)) ∧
    ((s.link a.link).up = true → a.crcOk = true → a.bad = 0 → a.pkt.seq ≠ ((acked s a).link a.link).rxSeq + 1 → exec i s = .next (acked s a)) ∧
    (Accepted s a → k = 10 → exec i s = .next (heard s a))) ∧
  (∀ (l : Nat) (s : State), Rising s.fabric.links → 
    ((s.replayed l).link l).replays = satAdd (s.link l).replays 1 ∧
    ((s.link l).up = true → 
      (15 ≤ ((s.link l).replayAt.filter (fun t => decide (s.time.ticks < t + 1000000 * nsT))).length → ((s.replayed l).link l).up = false) ∧
      (((s.link l).replayAt.filter (fun t => decide (s.time.ticks < t + 1000000 * nsT))).length < 15 → ((s.replayed l).link l).up = true)))

/-- For every accepted packet of a job, no commit being due: a reserved kind, too long a payload or SYSTEM with a job is counted in
other_drop; no valid job entry in job_drop; one undeliverable under the reset that a notice made, in land_drop; a wrong epoch in
epoch_drop; a wrong port, source or destination in member_drop; one that has a next hop goes out there if the port is used, and is else
dropped; one that has arrived but may not land is counted in land_drop. Each is acknowledged. (R310, R317, R318) -/
def Obligations.PacketsAreDroppedOrPassedOn : Prop :=
  ∀ (a : Arrival) (s v : State) (i : Instr) (k h : Nat), 
    (i, k) ∈ [(Instr.write a, 0), (.readReq a, 1), (.readRsp a, 2), (.remoteSignal a, 3), (.contrib a, 4), (.contribTopk a, 5),
      (.fragment a, 6), (.result a, 7), (.twin a, 8)] → a.pkt.wf k = true → s.commitDue = false → Accepted s a → v = heard s a →
    h = a.link.val / 5 →
    (k = 1 → a.pkt.srcCluster ≠ 0x1FF) → (k = 3 → s.signalsFull a.pkt = false) →
    ((11 ≤ a.pkt.kind.toNat ∨ 8 < a.pkt.len.toNat ∨ (a.pkt.kind = 9 ∧ a.pkt.job ≠ 0)) → PacketDoes i a s (v.drop h .other)) ∧
    (a.pkt.kind.toNat < 9 → a.pkt.len.toNat ≤ 8 → 
      (jValid (v.jobEntry a.pkt.job.toNat) = false → PacketDoes i a s (v.drop h .job)) ∧
      (jValid (v.jobEntry a.pkt.job.toNat) = true → v.noticeReset a.pkt.job.toNat = true →
        v.plan.member a.pkt.job.toNat a.pkt.srcPkg.toNat = true → a.pkt.dstPkg.toNat = v.ownId → PacketDoes i a s (v.drop h .land)) ∧
      (jValid (v.jobEntry a.pkt.job.toNat) = true → v.noticeReset a.pkt.job.toNat = false → v.epochOk a.pkt = false →
        PacketDoes i a s (v.drop h .epoch)) ∧
      (jValid (v.jobEntry a.pkt.job.toNat) = true → v.noticeReset a.pkt.job.toNat = false → v.epochOk a.pkt = true →
        (v.plan.usedPort a.pkt.job.toNat (v.plan.portOf a.link) = false ∨ v.plan.member a.pkt.job.toNat a.pkt.srcPkg.toNat = false ∨
          v.plan.member a.pkt.job.toNat a.pkt.dstPkg.toNat = false) → PacketDoes i a s (v.drop h .member)) ∧
      (v.linkDrop a.link a.pkt = none →
        (v.nextHop h (some (v.plan.portOf a.link)) a.pkt = .none → PacketDoes i a s (v.drop h .other)) ∧
        (∀ port p, v.nextHop h (some (v.plan.portOf a.link)) a.pkt = .go port p →
          (v.plan.usedPort p.job.toNat port = true → PacketDoes i a s (v.sendOn port h p)) ∧
          (v.plan.usedPort p.job.toNat port = false → PacketDoes i a s (v.drop h .other))) ∧
        (v.nextHop h (some (v.plan.portOf a.link)) a.pkt = .land → v.landOk a.pkt = false → PacketDoes i a s (v.drop h .land))))

/-- A WRITE writes its bytes and counts them on its stream; a READ_REQ is answered granule by granule; a READ_RSP is written for the
RECV that asked and counts toward it; a signal is held at its hub until its stream has landed; a unit of a collective that meets no
context is malformed, or kept in the pre-open buffer, or dropped where that is full, and else joins the context, a RESULT, a TWIN and a
contribution each as its rule says. (R206, R207, R249, R353, R356, R370) -/
def Obligations.PacketsLand : Prop :=
  ∀ (a : Arrival) (s v : State) (p : Packet) (h : Nat), p = a.pkt → s.commitDue = false → Accepted s a → v = heard s a → h = a.link.val / 5 →
    v.linkDrop a.link p = none → v.nextHop h (some (v.plan.portOf a.link)) p = .land → v.landOk p = true →
    (∀ u ok, p.wf 0 = true → p.kind = 0 → v.hubWrite p.job.toNat (ownerHub h) p.addr.toNat (filled p) = (u, ok) →
      PacketDoes (.write a) a s (if ok then u.landed p else u.drop h .land)) ∧
    (p.wf 1 = true → p.srcCluster ≠ 0x1FF →
      PacketDoes (.readReq a) a s (v.answerRead p (granuleCuts (reqLen p + 1) (reqDst p) (reqLen p)))) ∧
    (∀ k u ok, p.wf 2 = true → p.dstCluster ≠ 0x1FF → (v.cl p.dstCluster.toNat).hubq.find? (recvFor p) = some k → bit p.aux 31 = false →
      v.hubWrite p.job.toNat (ownerHub h) p.addr.toNat (filled p) = (u, ok) →
      PacketDoes (.readRsp a) a s ((if ok then u else u.drop h .land).onCl p.dstCluster.toNat (fun x => { x with
        hubq := onFirst (fun y => y == k) (fun y => y.take (filled p).length ok (if ok then u else u.drop h .land).time.ticks) x.hubq }))) ∧
    (p.wf 3 = true → s.signalsFull p = false → PacketDoes (.remoteSignal a) a s (v.onHub (hubOf p.dstCluster.toNat) (fun b => { b with
      heldSignals := b.heldSignals ++ [{
        stream := { srcPkg := p.srcPkg, srcCl := p.srcCluster, dstPkg := p.dstPkg, dstCl := p.dstCluster }, job := p.job, count := p.aux
        clasp := BitVec.ofNat 6 (fld p.addr 0 6), inc := BitVec.ofNat 16 (fld p.addr 6 16) }] }))) ∧
    (∀ i k, (i, k) ∈ [(Instr.contrib a, 4), (.contribTopk a, 5), (.fragment a, 6), (.result a, 7), (.twin a, 8)] → p.wf k = true →
      (v.ctx? p.job.toNat (aReg p) (aCtx p) = none →
        (redForm p = true → (v.hub (v.preHub p)).preopen.length < 2048 →
          PacketDoes i a s ((v.draw.onHub (v.preHub p) (fun b => { b with
            preopen := b.preopen ++ [{ pkt := p, at_ := v.now, hub := h }] })).completeCtxs.afterHub)) ∧
        (redForm p = true → 2048 ≤ (v.hub (v.preHub p)).preopen.length →
          PacketDoes i a s ((v.draw.lateDrop (v.preHub p) (unitsOf p)).completeCtxs.afterHub)) ∧
        (redForm p = false → PacketDoes i a s ((v.malDrop h).completeCtxs.afterHub))) ∧
      (∀ c, v.ctx? p.job.toNat (aReg p) (aCtx p) = some c → 
        (k = 7 → PacketDoes i a s (((v.takeResult h c p v.now).landed p).completeCtxs.afterHub)) ∧
        (k = 8 → c.twin = false → PacketDoes i a s ((v.malDrop h).completeCtxs.afterHub)) ∧
        (k < 7 → c.twin = false → ∀ u ok, State.takeUnit 4 false h v p v.now = (u, ok) →
          PacketDoes i a s ((if ok then u.landed p else u).completeCtxs.afterHub)) ∧
        (k ≠ 7 → c.twin = true → ∀ u ok, v.twinUnit h c p v.now = (u, ok) →
          PacketDoes i a s ((if ok then u.landed p else u).completeCtxs.afterHub))))

/-- BEACON_SEND sends a beacon at its time on a link that trains; a beacon that fails its check, comes to a dark link or names no plan
does nothing; one on a link in use sets the peer's identity and the class and reason that the comparison gives, keeps it up only if
both ends classify it MATCH, and touches no other link; a miswired link stays so until a beacon carries a new plan_id; a link that has
heard nothing 50 ms after training began is ABSENT, and is trained again 100 ms after. LINK_DOWN on a link that is up, or lost, counts
it, retrains a MATCH link, and resends what the neighbour has not received over the other links of its port ahead of every other
packet, if there are any; LINK_REJOIN_DRAIN_END lets a link rejoin when no packet is misplaced. (R289, R292, R293, R299, R300, R301) -/
def Obligations.LinksTrainAndLosePackets : Prop :=
  ((∀ (l : LinkId) (s u : State), (s.link l).training = true → s.linkPowered l = true → u = s.runTo (s.link l).beaconAt →
    exec (.beaconSend l) s = .next (u.onLink l (fun k => { k with
      beacons := u.beaconOf l :: k.beacons, beaconAt := k.beaconAt + 1000000 * nsT, training := !(k.up && k.cls == 1) }))) ∧
  (∀ (l : LinkId) (b : Block) (s : State), ((s.linkPowered l = false ∨ bcLoaded b = false) → exec (.beacon l b true) s = .next s) ∧
    exec (.beacon l b false) s = .next s) ∧
  (∀ (l : LinkId) (b : Block) (s : State), Rising s.fabric.links → s.linkPowered l = true → bcLoaded b = true → (s.link l).cls ≠ 2 →
    lUsed (s.plan.link l) = true → (s.link l).heard = true → (s.link l).up = true → ∃ t, exec (.beacon l b true) s = .next t ∧
      t = { s with fabric := t.fabric } ∧ (t.link l).peerId = BitVec.ofNat 13 (bcPkg b) ∧ (t.link l).peerSerial = bcSerial b ∧
      (t.link l).peerPlan = bcPlan b ∧ (t.link l).heard = true ∧ (∀ m : Nat, m ≠ l.val → t.link m = s.link m) ∧
      (s.beaconReason l b = 0 → (t.link l).cls = 1 ∧ (t.link l).reason = 0) ∧
      (s.beaconReason l b ≠ 0 → (t.link l).cls = 2 ∧ (t.link l).reason = s.beaconReason l b) ∧
      ((t.link l).up = true ↔ s.beaconReason l b = 0 ∧ bcClass b = 1)) ∧
  (∀ (l : LinkId) (b : Block) (s : State), s.linkPowered l = true → bcLoaded b = true → (s.link l).cls = 2 → bcPlan b = (s.link l).peerPlan →
    exec (.beacon l b true) s = .next (s.onLink l (fun k => k.hear b))) ∧
  (∀ (l : LinkId) (s : State), (s.link l).training = true → (s.link l).heard = false → lUsed (s.plan.link l) = true →
    exec (.trainingTimeout l) s = .next ((s.runTo ((s.link l).trainFrom + 50000000 * nsT)).onLink l (fun k => { k with training := false, cls := 3 }))) ∧
  (∀ (l : LinkId) (s u : State), (s.link l).training = false → (s.link l).cls = 3 → s.linkPowered l = true →
    u = s.runTo ((s.link l).trainFrom + 100000000 * nsT) →
    exec (.absentRetrain l) s = .next (u.onLink l (fun k => { k with
      training := true, trainFrom := u.time.ticks, beaconAt := u.time.ticks, up := false, cap := 0, cls := 0, reason := 0
      heard := false, lost := false, replayAt := [], rejoining := false, retrains := satAdd k.retrains 1 })))) ∧
  ((∀ (l : LinkId) (last : BitVec 12) (s v u : State), s.mem.newPoison = [] →
    ((s.link l).up = false → (s.link l).lost = false → exec (.linkDown l last) s = .next s) ∧
    (((s.link l).up = true ∨ (s.link l).lost = true) → (s.link l).named = false → v = s.acked l last →
      u = v.onLink l (fun k => { (if k.cls = 1 then k.train v.time.ticks else { k with up := false, lost := false, rejoining := false }) with
        downs := satAdd k.downs 1 }) →
      (u.upLinks (s.plan.portOf l) = [] →
        exec (.linkDown l last) s = .next { u with reset_ := { u.reset_ with fcBeyond := satAdd u.reset_.fcBeyond 1 } }) ∧
      (u.upLinks (s.plan.portOf l) ≠ [] →
        exec (.linkDown l last) s = .next (((v.link l).replay.filter (fun p => p.kind != 10)).foldl
          (fun s p => s.resend (u.plan.portOf l) p)
          (({ u with reset_ := { u.reset_ with fcLinks := satAdd u.reset_.fcLinks 1 } } : State).onLink l
            (fun k => { k with replay := [] }))).release))) ∧
  (∀ (l : LinkId) (s : State), (s.link l).up = true → (s.link l).rejoining = true → 
    (s.misplaced (s.plan.portOf l) = false →
      exec (.linkRejoinDrainEnd l) s = .next (s.onLink l (fun k => { k with rejoining := false })).release) ∧
    (s.misplaced (s.plan.portOf l) = true → exec (.linkRejoinDrainEnd l) s = .next s)))

/-- STW_TIME_SET counts only in ACQUIRE. A PTP measurement or a 1PPS edge of the reference in use is measured within 20 ns, and one of
another reference ignored; eight successive measurements within the bound lock, a worse one starts the count again, and while ever
locked TIME_NOW is slewed and never stepped. A reference lost for 1.5 s is shown as lost without a change of state; two missed syncs of
a follower start holdover, and 100 ms of holdover end in UNLOCKED. TIME_SYNC_SEND runs to the first multiple of 16 beats at which it
has not yet been sent; with no link that is up and carries TIME it sends nothing, and with one it sends the message to that link's
neighbour. A TIME_SYNC packet is ignored by the root and from any link but the parent's; from the parent with a usable state it renews
the sync and ends holdover. (R326, R327, R328, R495) -/
def Obligations.TimeFollowsItsReference : Prop :=
  ((∀ (v : W64) (s : State), s.dark = false → s.agreedNow = true → s.stw.registrar.st = .running → s.host.held = [] →
    (s.time.state = .acquire → exec (.timeSet v) s = .next { s with
      time := { s.time with setSecs := some (fld v 0 40) }, host := { s.host with resp := .done 0 } }) ∧
    (s.time.state ≠ .acquire → exec (.timeSet v) s = .next { s with host := { s.host with resp := .done 0 } })) ∧
  (∀ (off : Int) (s : State), s.isRoot = true → s.refSrc = 2 →
    exec (.ptpMeasurement off) s = .next { s with time := s.time.measure (off * nsT) (20 * nsT) }) ∧
  (∀ (ts : Nat) (s : State), (s.isRoot = false ∨ s.refSrc ≠ 1) → exec (.ppsEdge ts) s = .next s) ∧
  (∀ (ts k : Nat) (s u : State) (t : TimeSt), s.isRoot = true → s.refSrc = 1 → s.time.state = .acquire → s.time.setSecs = some k →
    u = s.runToNow ts →
    t = { u.time with refNext := some (k * 1000000000 + 1000000000), setSecs := none, lastPps := u.time.ticks } →
    exec (.ppsEdge ts) s = .next { u with time := t.measure ((((k * 1000000000 : Nat) : Int) - ts) * nsT) (20 * nsT) }) ∧
  (∀ (s u : State), s.isRoot = true → s.refSrc = 1 → u = s.runTo (s.time.lastPps + 1500000000 * nsT) →
    exec .refLossTimeout s = .next { u with time := { u.time with refLost := true, slew := 0 } } ∧ u.time.state = s.time.state) ∧
  (∀ s : State, s.isRoot = true → s.refSrc = 2 →
    exec .referenceLost s = .next { s with time := { s.time with refLost := true, slew := 0 } }) ∧
  (∀ (s u : State), s.isRoot = false → s.time.state = .locked → u = s.runTo (s.time.lastSync + 2 * 16 * 1024 * nsT) →
    exec .syncLossHoldover s = .next { u with time := { u.time with state := .holdover, heldFrom := u.time.lastSync, slew := 0 } }) ∧
  (∀ (s u : State), s.time.state = .holdover → u = s.runTo (s.time.heldFrom + 100000000 * nsT) →
    exec .holdoverExpire s = .next { u with time := { u.time with state := .unlocked, good := 0, predict := none } })) ∧
  (∀ (t : TimeSt) (off : Int) (b : Nat), t.state = .acquire → t.everLocked = true → 
    (off.natAbs ≤ b → 7 ≤ t.good → (t.measure off b).state = .locked ∧ (t.measure off b).slew = off ∧ (t.measure off b).now = t.now) ∧
    (off.natAbs ≤ b → t.good < 7 → (t.measure off b).state = .acquire ∧ (t.measure off b).good = t.good + 1) ∧
    (b < off.natAbs → (t.measure off b).state = .acquire ∧ (t.measure off b).good = 0)) ∧
  ((∀ (s u v : State) (k : Nat), k = (if s.beat % 16 = 0 ∧ s.time.syncSent ≠ some s.beat then s.beat else (s.beat / 16 + 1) * 16) →
    u = s.runToNow (1024 * k) → v = { u with time := { u.time with syncSent := some k } } → k % 16 = 0 ∧ s.beat ≤ k ∧
    (v.timeLinks = [] → exec .timeSyncSend s = .next v) ∧
    (∀ l : Nat, v.timeLinks = [l] → (v.link l).up = true ∧ bit (v.link l).cap 1 = true ∧
      exec .timeSyncSend s = .next (v.sendLink l (v.sysPacket (v.link l).peerId.toNat v.syncBytes)))) ∧
  (∀ (a : Arrival) (s v : State), a.pkt.wfSystem 1 = true → SystemHere s a → v = heard s a →
    exec (.timeSync a) s = .next (s.timeFrame
      (withCredit s a (v.takeSync a.link a.pkt.payload)))) ∧
  (∀ (l : Nat) (m : List Byte) (s : State), (s.isRoot = true ∨ s.parentLink ≠ some l) → s.takeSync l m = s) ∧
  (∀ (l : Nat) (m : List Byte) (s : State), s.isRoot = false → s.parentLink = some l → nfld (leNat m) 97 3 ∈ [0, 2, 3] →
    (s.time.state = .holdover → (s.takeSync l m).time.state = .locked) ∧
    (s.time.state = .locked → (s.takeSync l m).time.state = .locked) ∧
    (s.takeSync l m).time.lastSync = s.time.ticks))

/-- A MEMBER_DOWN of a member is taken once per job and member: it is noted, counted by whether a twin stands in, and fails what it
must; a second one changes nothing. A proxy notice that names this package starts the reset of the partition that runs the job.
MEMBER_UP ends the notice. REJOIN_RELEASE releases the steps that wait for their beat, and nothing when none does. (R474, R475, R476,
R477, R378) -/
def Obligations.MembersLeaveAndReturn : Prop :=
  ((∀ (a : Arrival) (s : State) (j m : Nat), SystemHere s a → j = nJob a.pkt.payload → m = nMember a.pkt.payload →
    (a.pkt.wfSystem 0x10 = true → exec (.memberDown a) s = .next (s.recoverFrame (withCredit s a ((heard s a).takeNotice j m)).settle)) ∧
    (a.pkt.wfSystem 0x11 = true → (heard s a).ownId ≠ m →
      exec (.memberDownProxy a) s = .next (s.resetFrame (withCredit s a ((heard s a).takeNotice j m)).settle)) ∧
    (∀ p, a.pkt.wfSystem 0x11 = true → (heard s a).ownId = m → (heard s a).jobPart j = some p → (heard s a).plan.member j m = true →
      exec (.memberDownProxy a) s = .next (s.resetFrame (withCredit s a ((heard s a).startPart p 6)).settle)) ∧
    (a.pkt.wfSystem 0x12 = true → (heard s a).plan.member j (heard s a).ownId = true →
      exec (.memberUp a) s = .next (s.recoverFrame (withCredit s a ((heard s a).takeMemberUp j m (nBeat a.pkt.payload))).settle))) ∧
  (∀ (s : State) (j m : Nat), s.noticed j m = true → s.takeNotice j m = s) ∧
  (∀ (s : State) (j m : Nat), s.noticed j m = false → s.plan.member j m = true → s.plan.member j s.ownId = true → m ≠ s.ownId →
    s.resyncWith j m = false →
    s.takeNotice j m = ((({ s with
      fabric := { s.fabric with notices := s.fabric.notices ++ [(j, m)] }
      reset_ := { s.reset_ with
        fcFailovers := if s.oneTwin j m then satAdd s.reset_.fcFailovers 1 else s.reset_.fcFailovers
        fcBeyond := if s.oneTwin j m then s.reset_.fcBeyond else satAdd s.reset_.fcBeyond 1 } } : State).failNoticed j).peerDown).afterHub) ∧
  (∀ (s : State) (j m b : Nat), (s.takeMemberUp j m b).noticed j m = false ∧ (s.takeMemberUp j m b).red = s.red ∧
    (s.takeMemberUp j m b).mem = s.mem)) ∧
  (∀ (j : JobId) (s : State), s.regOn = true → s.mem.newPoison = [] →
    (s.waitingRelease j = [] → exec (.rejoinRelease j) s = .next s) ∧
    (∀ p k b, s.waitingRelease j = [(p, k, b)] → exec (.rejoinRelease j) s = .next (s.recoverFrame
      (((s.runToNow (1024 * b)).onSrec p k (fun r => { r with releaseAt := none })).releaseStep p k).settle)))

/-- A write of STW_RESYNC_CTL is kept, and while a resync runs starts none and changes nothing of the one that runs; without arm it
starts none; armed without a twin partner it fails; armed with one it asks the partner. The partner's request, readiness and completion
are each taken; when every range is copied the resync is DONE, tells the partner, names the release beat and adopts the loss scale.
(R478, R479) -/
def Obligations.ResyncRunsThroughItsSteps : Prop :=
  (∀ (v : W64) (s : State), s.dark = false → exec (.resyncArm v) s = .next (s.recoverFrame ((s.resyncCtl v).respond (.done 0)).settle)) ∧
  (∀ (v w : W64) (s : State), w = BitVec.ofNat 64 (fld v 0 16) →
    ((s.reset_.rsState = 1 ∨ s.reset_.rsState = 2) → s.resyncCtl v = { s with reset_ := { s.reset_ with rsWritten := w } }) ∧
    (s.reset_.rsState ≠ 1 → s.reset_.rsState ≠ 2 → 
      (rsArm v = false → s.resyncCtl v = { s with reset_ := { s.reset_ with rsWritten := w, rsCtl := w } }) ∧
      (rsArm v = true → s.plan.twin = none → s.resyncCtl v = { s with reset_ := { s.reset_ with
        rsWritten := w, rsCtl := w, rsState := 4, rsLeft := [], rsReady := none } }) ∧
      (∀ t, rsArm v = true → s.plan.twin = some t → jTwin (s.jobEntry (rsJob v)) = true → s.plan.member (rsJob v) s.ownId = true →
        s.noticed (rsJob v) t = false → s.resyncCtl v = ({ s with reset_ := { s.reset_ with
          rsWritten := w, rsCtl := w, rsState := 1, rsLeft := [], rsReady := none } } : State).tellTwin 0x13 (rsJob v)))) ∧
  (∀ (a : Arrival) (s v : State), SystemHere s a → v = heard s a →
    (a.pkt.wfSystem 0x13 = true → exec (.resyncReq a) s = .next (s.recoverFrame (withCredit s a
      (State.answerResync { v with reset_ := { v.reset_ with rsAsked := some (BitVec.ofNat 10 (nJob a.pkt.payload), a.pkt.srcPkg) } })).settle)) ∧
    (a.pkt.wfSystem 0x14 = true → exec (.resyncReady a) s = .next (s.recoverFrame (withCredit s a
      (v.takeReady (nJob a.pkt.payload) a.pkt.srcPkg.toNat (nStep a.pkt.payload) (nLoss a.pkt.payload))).settle)) ∧
    (a.pkt.wfSystem 0x15 = true → exec (.resyncDone a) s = .next (s.recoverFrame (withCredit s a
      { v with reset_ := { v.reset_ with rsAsked := none } }).settle))) ∧
  (∀ (s : State) (step : W64) (lexp : BitVec 8) (j b : Nat), s.reset_.rsState = 2 → s.reset_.rsLeft = [] → s.reset_.rsReady = some (step, lexp) →
    j = rsJob s.reset_.rsCtl → b = s.rejoinBeat j s.beat →
    exec .resyncCopyDone s = .next (s.recoverFrame ((((({ s with reset_ := { s.reset_ with
      rsState := 3, rsHolding := s.reset_.rsHolding && !s.holdEnds j s.ownId } } : State).tellTwin 0x15 j).sendMemberUp j b step).adoptLoss
      (s.partOf (rsQuad s.reset_.rsCtl)) (rsSlot s.reset_.rsCtl) b lexp)).settle))

/-- A flit whose CRC holds is delivered once and in order, one ahead of its turn is kept, one that fails its CRC is replayed from the
sender's buffer, and a replayed one has the content that was kept. A lane that loses lock is counted and stops its slice until a spare
replaces it, which owes a record of the lane that failed; a slice beyond repair on a ring edge is retired and owes a record; a router
applies its new routes once the requests behind it are acknowledged; the running Custodian writes the oldest record owed. (R45, R46,
R47, R50, R56) -/
def Obligations.MeshCarriesFlitsAndRepairsItself : Prop :=
  (∀ (e : EdgeId) (sl : Fin 16) (f : Flit) (s : State), sliceOk e sl = true → (s.edge e).up = true → bit (s.edge e).sliceUp sl = true →
    (s.edge e).fwd.early = [] →
    ((∀ g ∈ (s.edge e).fwd.unacked, g.seq ≠ f.seq) → f.crcOk = true →
      (f.seq < (s.edge e).fwd.expect → exec (.flitReceive e sl false f) s = .next (s.onEdge e (fun k => k))) ∧
      (f.seq = (s.edge e).fwd.expect → exec (.flitReceive e sl false f) s =
        .next (s.onEdge e (fun k => { k with fwd := { k.fwd with expect := k.fwd.expect + 1, delivered := f.data :: k.fwd.delivered } }))) ∧
      ((s.edge e).fwd.expect < f.seq → exec (.flitReceive e sl false f) s =
        .next (s.onEdge e (fun k => { k with fwd := { k.fwd with early := [(f.seq, f.data)] } })))) ∧
    (∀ g, (s.edge e).fwd.unacked = [g] → g.seq = f.seq → g.slice = sl → f.crcOk = true → f.seq = (s.edge e).fwd.expect →
      exec (.flitReceive e sl false f) s = .next (s.onEdge e (fun k => { k with fwd := { k.fwd with
        expect := k.fwd.expect + 1, delivered := g.data :: k.fwd.delivered, unacked := [] } })))) ∧
  (∀ (e : EdgeId) (sl : Fin 16) (f : Flit) (s : State), sliceOk e sl = true → (s.edge e).up = true → bit (s.edge e).sliceUp sl = true →
    f.crcOk = false → f.laneError = [] → (s.edge e).back.early = [] → (∀ g ∈ (s.edge e).back.unacked, g.seq ≠ f.seq) →
    (f.seq < (s.edge e).back.expect → exec (.flitReceive e sl true f) s =
      .next (s.onEdge e (fun k => { k with back := { k.back with replays := k.back.replays + 1 } }))) ∧
    ((s.edge e).back.expect ≤ f.seq → exec (.flitReceive e sl true f) s = .next (s.onEdge e (fun k => { k with back := { k.back with
      replays := k.back.replays + 1, unacked := k.back.unacked ++ [{ seq := f.seq, data := f.data, slice := sl }] } })))) ∧
  (∀ (e : EdgeId) (sl : Fin 16) (dir : Bool) (lane : Fin 66) (s : State), sliceOk e sl = true → (s.edge e).live sl = true →
    ((s.edge e).dir sl dir).failed.contains lane.val = false → exec (.laneFailure e sl dir lane) s = .next (s.onEdge e (fun k =>
      ({ k.onDir sl dir (fun d => { d with failed := d.failed ++ [lane.val], errors := d.errors.filter (fun x => x.1 != lane.val) }) with
        laneEvents := satAdd k.laneEvents 1 } : Edge).refresh sl))) ∧
  (∀ (e : EdgeId) (sl : Fin 16) (dir : Bool) (l i : Nat) (s u : State), sliceOk e sl = true → (s.edge e).live sl = true →
    ((s.edge e).dir sl dir).pending = some l → ((s.edge e).dir sl dir).freeSpare = some i →
    u = s.onEdge e (fun k => (k.onDir sl dir (fun d => { d with replaced := d.replaced.filter (fun r => r.1 != l) ++ [(l, i)] })).refresh sl) →
    exec (.laneReplaced e sl dir) s = .next { u with
      mesh := { u.mesh with unrecorded := u.mesh.unrecorded ++
        [{ edge := e.val, slice := sl.val, lane := ((s.edge e).dir sl dir).carrier l, action := 0, spare := i, dir := dir, time := BitVec.ofNat 64 s.now }] }
      reset_ := { u.reset_ with fcLanes := satAdd u.reset_.fcLanes 1 } }) ∧
  (∀ (e : EdgeId) (sl : Fin 16) (s u : State), sliceOk e sl = true → (s.edge e).live sl = true → (s.edge e).beyondRepair sl = true →
    u = s.onEdge e (fun k => ({ k with retired := setBit k.retired sl } : Edge).stopSlice sl) →
    72 ≤ e.val → u.edgeBw e ≠ 0 → exec (.sliceRetire e sl) s = .next { u with
      mesh := { u.mesh with unrecorded := u.mesh.unrecorded ++
        [{ edge := e.val, slice := sl.val, lane := 0x7F, action := 1, spare := 0, dir := false, time := BitVec.ofNat 64 s.now }] }
      reset_ := { u.reset_ with fcSlices := satAdd u.reset_.fcSlices 1 } }) ∧
  (∀ (d : DieId) (s : State), exec (.reweightDrainEnd d) s = .next { s.runTo (s.drainedAt d) with mesh := { s.mesh with
    routes := s.mesh.routes.map (fun o => ((s.mesh.draining.filter (fun r => r.src == d.val)).find? (fun r => r.dst == o.dst && r.src == o.src)).getD o)
    draining := s.mesh.draining.filter (fun r => r.src != d.val) } }) ∧
  (∀ (s : State), (s.mesh.unrecorded = [] → exec .laneRepairRecord s = .next s) ∧
    (∀ r rest, s.mesh.unrecorded = r :: rest → s.stw.custodian.st = .running → s.dark = false → s.panel.catalogue.isSome = true →
      exec .laneRepairRecord s = .next (s.meshFrame { s.writeRecords [.lane r] with mesh := { s.mesh with unrecorded := rest } })))

/-- A write of STW_POWER_CAP clamps the cap to 2,500 to 5,000, keeps the cap in force at or above the reservation, and clears over_cap
by a 1; it is held while the Bursar restarts and errs when the Bursar has failed. A measurement sets be_fraction between 0 and 16, at
most one step up, lower while power exceeds the cap, and 0 while temperature holds; over_cap is set when issue is 0 and power still
exceeds the cap. Which lower step the Bursar takes is a free value (log 18). (R343, R344, R345, R435, R440) -/
def Obligations.PowerCapIsClampedAndSettled : Prop :=
  (∀ (v : W64) (s : State) (c : Nat), c = max 2500 (min 5000 (fld v 0 13)) →
    (PageServes s .bursar (pkgPage + 0x40) → exec (.powerCapWrite v) s = .next { s with
      power := { s.power with capW := c, capEff := max c s.reservation, capHeld := decide (c < max c s.reservation)
                              overCap := s.power.overCap && !bit v 30 }
      host := { s.host with resp := .done 0 } }) ∧
    (s.dark = false → s.agreedNow = true → s.stw.bursar.st = .restarting → exec (.powerCapWrite v) s = .next { s with
      host := { s.host with held := s.host.held ++ [pageWrite (pkgPage + 0x40) 8 v], resp := .held } }) ∧
    (s.dark = false → s.agreedNow = true → s.stw.bursar.st = .failed →
      exec (.powerCapWrite v) s = .next ((s.hostError 5 (pkgPage + 0x40)).respond .error))) ∧
  (∀ (w : Nat) (s : State), s.stw.bursar.st = .running → exec (.bursarPowerMeasure w) s = .next { s with power := { s.power with
      beFraction := nextFraction s.power w, overCap := s.power.overCap || (s.power.beFraction == 0 && decide (s.power.capEff < w)) } }) ∧
  (∀ (w : Nat) (p : PowerSt), nextFraction p w ≤ 16 ∧ nextFraction p w ≤ p.beFraction + 1 ∧ (p.thermalHold = true → nextFraction p w = 0) ∧
    (p.capEff < w → nextFraction p w ≤ p.beFraction - 1))

/-- POWER_ON with a good input starts the power-on reset with every register at its reset value, and else does nothing. A sample of the
blades above 60.0 V or below 40.0 V loses power at once; one between 42.0 V and 44.0 V for 1 ms resets the package with its flag;
others only show the voltage. The reset pin starts a reset of cause 0, and its release lets it go on. A temperature that trips resets
with cause 5; at 95 degrees best-effort issue is held at 0; below 85 everywhere the trip ends. (R487, R488, R494, R498, R499) -/
def Obligations.InputAndTemperatureAreWatched : Prop :=
  (∀ (s u : State), s.power.on = false → s.power.mayStart = true →
    u = { s.unpowered with reset_ := { s.unpowered.reset_ with pkg := some {
      quads := 15, phase := 4, cause := 0, from_ := s.time.ticks, since := s.time.ticks, units := [] } } } →
    exec .powerOn s = .next (s.resetFrame (u.onLast [0, 1, 2, 3] (fun l => l.begun 4 0 true)).boot)) ∧
  (∀ s : State, (s.power.on = true ∨ s.power.mayStart = false) → exec .powerOn s = .next s) ∧
  (∀ (a b v : Nat) (s u : State), v = min a b → s.power.on = true → u = { s with power := (s.power.sample a b).envField 0 10 v } →
    (440 ≤ v → v ≤ 560 → exec (.vinSample a b) s = .next u) ∧
    ((600 < v ∨ v < 400) → exec (.vinSample a b) s = .next (s.resetFrame u.powerLoss)) ∧
    (420 ≤ v → v < 440 → 1000 ≤ s.power.lowFor → exec (.vinSample a b) s = .next (s.resetFrame (u.trouble 44))) ∧
    (420 ≤ v → v < 440 → s.power.lowFor < 1000 → exec (.vinSample a b) s = .next u)) ∧
  (∀ s : State, exec .pkgResetPin s = .next (s.resetFrame (State.startPkg { s with power := { s.power with pinLow := true } } 0))) ∧
  (∀ s : State, exec .pkgResetNRelease s = .next { s with power := { s.power with pinLow := false } }) ∧
  (∀ (x e : EnvSample) (s : State) (p : PowerSt), e = wholeSample x → s.power.on = true → p = (s.power.warm e).hot e →
    (p.tripped e = true → exec (.thermalSample x) s = .next (s.resetFrame (State.startPkg { s with power := { p with trip := true } } 5))) ∧
    (p.tripped e = false → (∃ t ∈ e.dies, 85 ≤ reading t) → exec (.thermalSample x) s = .next { s with power := p }) ∧
    (p.tripped e = false → (∀ t ∈ e.dies, reading t < 85) → exec (.thermalSample x) s = .next { s with power := { p with trip := false } }) ∧
    ((∃ t ∈ e.dies, 95 ≤ reading t) → p.thermalHold = true ∧ p.beFraction = 0))

/-- A write of CTL without check is kept; with check it is abandoned when it comes too late or while another set waits, and is else
checked and reported. The root decides at its beat: GO when every member reported consistent, else ABANDON. GO counts before beat C-2
begins and only for its set; ABANDON ends the set. At beat C a set with GO applies whole once every set before it has, one that cannot
be read then is abandoned as inconsistent, and one without GO is abandoned. The grace of an old epoch ends at its beat. (R316, R346,
R347, R348, R349, R351) -/
def Obligations.SetsAreCheckedDecidedAndApplied : Prop :=
  ((∀ (r : StageSet) (v : W64) (s : State), PageServes s .registrar (stageCtlReg r) →
    exec (.stageCheck r v) s = .next (s.stageFrame ((s.stageCtl r v).respond (.done 0)).settle)) ∧
  (∀ (v : W64) (s : State) (C d : Nat), C = fld s.stage.at_ 0 54 → d = s.stageDg (sgScope v) (sgJob v) →
    (bit v 44 = false → (s.stageCtl .pkg v).stage = { s.stage with ctl := BitVec.ofNat 64 (fld v 0 44) }) ∧
    (bit v 44 = true → C < s.beat + 6 + 2 * d → (s.stageCtl .pkg v).stage.state = 5 ∧ (s.stageCtl .pkg v).stage.reason = 2 ∧
      (s.stageCtl .pkg v).stage.lastId = sgId v) ∧
    (bit v 44 = true → s.beat + 6 + 2 * d ≤ C → s.stage.run.isSome = true → (s.stageCtl .pkg v).stage.state = 5 ∧
      (s.stageCtl .pkg v).stage.reason = 3 ∧ (s.stageCtl .pkg v).stage.run = s.stage.run)) ∧
  (∀ (id : W32) (s u : State) (a : RootRec) (dg : W64) (res : BitVec 8) (rdy : Bool), s.regOn = true → s.roots.find? (fun a => a.id == id) = some a →
    a.scope = 0 → a.members = [s.ownId] → a.reports = [(s.ownId, dg, res, rdy)] → 
    u = { (s.runToNow (1024 * (a.commit - 4 - a.dg))).draw with roots := s.roots.filter (fun b => !b.is id 0 a.job.toNat a.commit a.set) } →
    (a.failed = false → res = 0 → exec (.stageDecision id) s = .next (s.stageFrame (u.takeGo id 0 a.job.toNat a.commit a.set rdy))) ∧
    ((a.failed = true ∨ res ≠ 0) → exec (.stageDecision id) s = .next (s.stageFrame (u.takeAbandon id 0 a.job.toNat a.commit a.set)))) ∧
  (∀ (r : StageSet) (s u w : State) (k : StageRun), (s.stageOf r).run = some k → u = s.runToNow (1024 * k.commit) →
    (k.go = false → exec (.stageApply r) s = .next (s.stageFrame (u.abandonSet r (if k.result ≠ 0 then 1 else 4)).settle)) ∧
    (k.go = true → s.applyBehind r k = false → u.setReadable r = (w, false) →
      exec (.stageApply r) s = .next (s.stageFrame (w.abandonSet r 1).settle)) ∧
    (k.go = true → s.applyBehind r k = false → u.setReadable r = (w, true) → r = .pkg → exec (.stageApply r) s =
      .next (s.stageFrame ((w.setStage r (fun g => { (g.show 4 0 k.id) with run := none })).applyPkg k).settle)) ∧
    (∀ q : Quad, k.go = true → s.applyBehind r k = false → u.setReadable r = (w, true) → r = .part q → exec (.stageApply r) s =
      .next (s.stageFrame ((w.setStage r (fun g => { (g.show 4 0 k.id) with run := none })).applyPart q.val k).settle))) ∧
  (∀ (j : JobId) (s : State), (sget none s.fabric.prevEpoch j = none → exec (.epochGraceEnd j) s = .next s) ∧
    (∀ x b, sget none s.fabric.prevEpoch j = some (x, b) → exec (.epochGraceEnd j) s = .next { s.runToNow (1024 * b) with
      fabric := { s.fabric with prevEpoch := sset none s.fabric.prevEpoch j none } }))) ∧
  ((∀ (a : Arrival) (s v : State) (m : List Byte), SystemHere s a → v = heard s a → m = a.pkt.payload →
    (a.pkt.wfSystem 2 = true → exec (.stageReport a) s = .next (s.stageFrame (withCredit s a (v.takeReport a.pkt.srcPkg.toNat m)))) ∧
    (a.pkt.wfSystem 3 = true → smRemote m = true → exec (.stageGo a) s = .next (s.stageFrame (withCredit s a
      (v.takeGo (smId m) (smScope m) (smJob m) (smCommit m) none (smBit m))))) ∧
    (a.pkt.wfSystem 4 = true → smRemote m = true → exec (.stageAbandon a) s = .next (s.stageFrame (withCredit s a
      (v.takeAbandon (smId m) (smScope m) (smJob m) (smCommit m) none))))) ∧
  (∀ (s : State) (k : StageRun) (formed : Bool), s.stage.run = some k → (k.scope = 1 ∨ k.scope = 2) → (∀ p : Nat, (s.prt p).stage.run = none) →
    (s.now < (k.commit - 2) * 1024 → s.takeGo k.id k.scope.toNat k.job.toNat k.commit none formed =
      { s with stage := { s.stage with state := 3, reason := 0, lastId := k.id, run := some { k with go := true, formed := formed } } }) ∧
    ((k.commit - 2) * 1024 ≤ s.now → s.takeGo k.id k.scope.toNat k.job.toNat k.commit none formed = s) ∧
    (∀ id : W32, id ≠ k.id → s.takeGo id k.scope.toNat k.job.toNat k.commit none formed = s) ∧
    (k.result ≠ 0 → s.takeAbandon k.id k.scope.toNat k.job.toNat k.commit none =
      { s with stage := { s.stage with state := 5, reason := 1, lastId := k.id, run := none } })))

/-- A write of STW_RESET_CTL without the confirm code does nothing; with it, the package or the partition named begins its reset,
counted and recorded with its cause and time. Each phase ends at its time and leads to the next: the archive is written, the
partition's work is discarded, dies are tested, memory is wiped, and the reset ends; a package reset waits at phase 3 for power, pin,
input and temperature, and PCIE_PERST_N goes high with its end. A unit that does not answer a dump is passed over. At which phase each
effect takes place is the model's choice (log 52). (R467, R468, R469, R470, R481, R485, R493) -/
def Obligations.ResetsBeginAndRunTheirPhases : Prop :=
  (∀ (v : W64) (s : State) (i : Instr), (i = .partitionResetRequest v ∨ i = .packageResetRequest v) →
    (s.dark = true → exec i s = .next s) ∧
    (s.dark = false → fld v 8 8 ≠ 0xD5 → exec i s = .next { s with host := { s.host with resp := .done 0 } }) ∧
    (s.dark = false → fld v 8 8 = 0xD5 → bit v 3 = true → exec i s = .next (s.resetFrame ((s.startPkg 1).respond (.done 0)))) ∧
    (s.dark = false → fld v 8 8 = 0xD5 → bit v 3 = false → bit v 2 = true →
      exec i s = .next (s.resetFrame ((s.startPart (fld v 0 2) 1).respond (.done 0))))) ∧
  (∀ (q cause : Nat) (s : State), Rising s.reset_.parts → s.inReset (s.partOf q) = false → ∃ r,
    sget none (s.startPart q cause).reset_.parts (s.partOf q) = some r ∧ r.phase = 1 ∧ r.cause = BitVec.ofNat 4 cause ∧ r.from_ = s.time.ticks ∧
    (s.startPart q cause).reset_.resets = satAdd s.reset_.resets 1) ∧
  (∀ (q : Quad) (o : PhaseObs) (s u : State) (r : PartReset), sget none s.reset_.parts q = some r →
    u = s.runTo (r.since + o.durationUs.toNat * 1000 * nsT) →
    (r.phase = 1 → exec (.partitionResetPhaseEnd q o) s = .next (s.resetFrame (u.nextPhase q r 2).settle)) ∧
    (r.phase = 2 → exec (.partitionResetPhaseEnd q o) s = .next (s.resetFrame
      (((u.closeArchive r (u.quads q) false o.unitsRead).discard q).nextPhase q { r with units := [], dump := [] } 3).settle)) ∧
    (r.phase = 4 → exec (.partitionResetPhaseEnd q o) s = .next (s.resetFrame (u.nextPhase q
      { r with failed := (o.failedDies.map (fun d => d.val)).filter (fun d => (u.quads q).contains (dieQuad d)) } 5).settle)) ∧
    (r.phase = 5 → u.stw.custodian.st = .restarting → exec (.partitionResetPhaseEnd q o) s = .next (s.resetFrame u.settle)) ∧
    (r.phase = 8 → exec (.partitionResetPhaseEnd q o) s = .next (s.resetFrame ((u.wipeQuads (u.quads q)).nextPhase q r 9).settle)) ∧
    (r.phase = 9 → exec (.partitionResetPhaseEnd q o) s = .next (s.resetFrame (u.finishPart q r).settle))) ∧
  (∀ (o : PhaseObs) (s u : State) (r : PartReset), s.reset_.pkg = some r → u = s.runTo (r.since + o.durationUs.toNat * 1000 * nsT) →
    (r.phase = 2 → exec (.packageResetPhaseEnd o) s = .next (s.resetFrame
      (((u.closeArchive r [0, 1, 2, 3] true o.unitsRead).powerDown).nextPkgPhase 3).settle)) ∧
    (3 ≤ r.phase.toNat → u.power.mayBoot = false → exec (.packageResetPhaseEnd o) s = .next (s.resetFrame u.settle)) ∧
    (r.phase = 3 → u.power.mayBoot = true → exec (.packageResetPhaseEnd o) s = .next (s.resetFrame (u.boot.nextPkgPhase 4).settle)) ∧
    (r.phase = 6 → u.power.mayBoot = true → exec (.packageResetPhaseEnd o) s = .next (s.resetFrame ((u.bringAll o).nextPkgPhase 7).settle)) ∧
    (r.phase = 7 → u.power.mayBoot = true → exec (.packageResetPhaseEnd o) s = .next (s.resetFrame (State.settle (({ u with reset_ := { u.reset_ with
      pkg := none, perstN := true } } : State).onLast [0, 1, 2, 3] (fun l => { l with phase := 15, duration := elapsedUs r.from_ u.time.ticks })))))) ∧
  (∀ (q : Quad) (n : Nat) (scan : Bool) (s : State) (r : PartReset), sget none s.reset_.parts q = some r → r.phase = 2 →
    exec (.archiveUnitTimeout false q n scan) s = .next { s with reset_ := { s.reset_ with
      parts := sset none s.reset_.parts q (some (s.dumpTimeout r n scan)) } })

/-- A write of STW_ARCHIVE_CTL keeps the slot and clears done by a 1; with read, and no copy under way, a copy to the buffer starts. A
copy whose buffer does not lie in the carve-out ends with done and error. (R484) -/
def Obligations.ArchiveIsCopiedForTheHost : Prop :=
  (∀ (v : W64) (s : State), s.dark = false → 
    (bit v 2 = true → s.reset_.arBusy = none → exec (.archiveRead v) s = .next { s with
      reset_ := { s.reset_ with arSlot := BitVec.ofNat 2 (fld v 0 2), arDone := s.reset_.arDone && !bit v 4
                                arBusy := some (BitVec.ofNat 2 (fld v 0 2), fld s.reset_.arBuf 0 48) }
      host := { s.host with resp := .done 0 } }) ∧
    (bit v 2 = false → exec (.archiveRead v) s = .next { s with
      reset_ := { s.reset_ with arSlot := BitVec.ofNat 2 (fld v 0 2), arDone := s.reset_.arDone && !bit v 4 }
      host := { s.host with resp := .done 0 } })) ∧
  (∀ (s : State) (slot : BitVec 2) (buf : Nat), s.reset_.arBusy = some (slot, buf) → s.mem.newPoison = [] → s.inCarve buf archiveSlotBytes = false →
    exec .archiveCopyDone s = .next { s with reset_ := { s.reset_ with arBusy := none, arDone := true, arError := true } })

/-- When the watchdog of a running processor expires, the processor restarts, counted, with fw_restart set. A processor that is down or
failed is left alone. A restart that completes within its bound leaves the processor running, the Registrar and a Curator taking up
what waited for them; one past it, or that exceeds it, makes it FAILED with what follows. (R434, R435, R436, R437, R440, R464) -/
def Obligations.FirmwareRestartsOrFails : Prop :=
  (∀ (p : Proc) (s u : State) (recent : List Nat), s.procUp p = true → (s.proc p).st = .running → p ≠ .bursar → 
    u = s.runTo (s.time.ticks + procExpiry p * nsT) →
    recent = (s.proc p).restarts.filter (fun t => decide (u.time.ticks < t + 1000000000 * nsT)) ++ [u.time.ticks] → recent.length < 3 →
    exec (.watchdogExpire p) s = .next (s.resetFrame ((State.event { (u.onProc p (fun k => { k with
        st := .restarting, restarts := recent, since := s.time.ticks, expiries := k.expiries + 1 })) with
      reset_ := { u.reset_ with fcFw := satAdd u.reset_.fcFw 1 }
      stw := { (u.onProc p (fun k => { k with st := .restarting, restarts := recent, since := s.time.ticks, expiries := k.expiries + 1 })).stw with
        restarts := satAdd u.stw.restarts 1 } } (2 ^ 7))).settle)) ∧
  (∀ (p : Proc) (s : State), (s.procUp p = false ∨ (s.proc p).st = .failed) → s.mem.newPoison = [] →
    exec (.watchdogExpire p) s = .next s ∧ exec (.restartComplete p) s = .next s ∧ exec (.restartExceedsBound p) s = .next s) ∧
  (∀ (p : Proc) (s : State), s.procUp p = true → (s.proc p).st = .restarting → 
    ((s.proc p).since + procBound p * nsT < s.time.ticks → exec (.restartComplete p) s = .next (s.resetFrame (s.failProc p).settle)) ∧
    (s.time.ticks ≤ (s.proc p).since + procBound p * nsT → (p = .custodian ∨ p = .bursar) → s.host.held = [] → s.mem.newPoison = [] →
      exec (.restartComplete p) s = .next (s.onProc p (fun k => { k with st := .running }))) ∧
    (∀ c, s.time.ticks ≤ (s.proc p).since + procBound p * nsT → p = .curator c →
      exec (.restartComplete p) s = .next (s.resetFrame (((s.onProc p (fun k => { k with st := .running })).lateHalt c).serveHeld).settle)) ∧
    (s.time.ticks ≤ (s.proc p).since + procBound p * nsT → p = .registrar → exec (.restartComplete p) s =
      .next (s.resetFrame (((s.onProc p (fun k => { k with st := .running })).registrarBack (s.proc p).since).serveHeld).settle)) ∧
    exec (.restartExceedsBound p) s = .next (s.resetFrame ((s.runTo ((s.proc p).since + procBound p * nsT)).failProc p).settle))

/-- The last word of STW_FEAT_ACCEPT computes the agreed set and ends in AGREED or MISMATCH by the major versions, unless a ring is
enabled. A write of STW_MEMCFG is kept for the next package reset; a reserved layout is ignored whole and logged. A UCIe module that
goes down is counted and sets ucie_degraded. (R59, R430, R446, R447) -/
def Obligations.NegotiationLayoutAndUcie : Prop :=
  (∀ (v : W64) (s u : State), PageServes s .custodian (negPage + 0x58) → s.stw.romOnly = false →
    (s.ringsOn = true → exec (.featAcceptWrite v) s = .next { s with host := { s.host with resp := .done 0 } }) ∧
    (s.ringsOn = false → u = { s with stw := { s.stw with accept := BitVec.ofNat 256 (setFld s.stw.accept.toNat 192 64 v.toNat % 2 ^ 71) } } →
      exec (.featAcceptWrite v) s = .next { u with
        stw := { u.stw with agreed := u.offer &&& u.stw.accept, neg := if fld s.stw.hostIf 8 8 = fld s.stw.ifVersion 8 8 then 1 else 2 }
        host := { s.host with resp := .done 0 } })) ∧
  (∀ (v : W32) (s : State), PageServes s .custodian (pkgPage + 0x50) →
    (4 < fld v 0 3 → exec (.memcfgWrite v) s = .next ((s.hostError 5 (pkgPage + 0x50)).respond (.done 0))) ∧
    (fld v 0 3 ≤ 4 → exec (.memcfgWrite v) s = .next { s with
      stw := { s.stw with memcfg := BitVec.ofNat 32 (fld v 0 10) }, host := { s.host with resp := .done 0 } })) ∧
  (∀ (m : Fin 2) (s : State), (bit s.stw.ucie m = false → exec (.ucieModuleDown m) s = .next s) ∧
    (bit s.stw.ucie m = true → exec (.ucieModuleDown m) s = .next (State.event { s with
      stw := { s.stw with ucie := clearBit s.stw.ucie m }, reset_ := { s.reset_ with fcBeyond := satAdd s.reset_.fcBeyond 1 } } (2 ^ 6))))

/-- A commit of no component does nothing; another runs until SVN_COMMIT_DONE, at which each named counter becomes the larger of itself
and the running svn, the others keep theirs, and only measurement M4 is extended. REPORT, EXTEND and CERTS each start an operation
unless one runs. At its end EXTEND extends M5 by the nonce; an operation without agreed attestation ends with error. A lifecycle
request is judged: BUSY while one runs, NOT_ALLOWED off the permitted transitions, LIMIT when no redeployment is left, TOKEN_BAD
without a good token; an accepted one blows its fuses and resets the package with cause 4. (R453, R454, R455, R456, R457, R458, R460,
R461) -/
def Obligations.AntiRollbackAttestationAndLifecycle : Prop :=
  ((∀ (v : W64) (s : State), PageServes s .custodian (pkgPage + 0x180) →
    (fld v 0 3 = 0 → exec (.svnCommit v) s = .next { s with host := { s.host with resp := .done 0 } }) ∧
    (fld v 0 3 ≠ 0 → exec (.svnCommit v) s = .next { s with
      stw := { s.stw with svnBusy := some (BitVec.ofNat 3 (fld v 0 3) ||| s.stw.svnBusy.getD 0) }, host := { s.host with resp := .done 0 } })) ∧
  (∀ (s : State) (m : BitVec 3), s.custodianOn = true → s.stw.svnBusy = some m → ∃ t, exec .svnCommitDone s = .next t ∧
    t = { s with stw := { s.stw with svnBusy := none, ctr := t.stw.ctr, meas := t.stw.meas } } ∧
    (∀ c, c < 3 → t.stw.ctr.getD c 0 = if bit m c then max (s.stw.ctr.getD c 0) (s.stw.svn.getD c 0) else s.stw.ctr.getD c 0) ∧
    (∀ i, i ≠ 4 → t.stw.meas.getD i 0 = s.stw.meas.getD i 0))) ∧
  ((∀ (i : Instr) (op : BitVec 2) (s : State), (i, op) ∈ [(Instr.report, 1#2), (.extend, 2#2), (.certs, 3#2)] →
    PageServes s .custodian (pkgPage + 0x100) →
    (s.stw.attBusy = none → exec i s = .next { s with
      stw := { s.stw with attOp := op, attBusy := some (op, s.stw.nonce, fld s.stw.attBuf 0 48, s.now) }, host := { s.host with resp := .done 0 } }) ∧
    (s.stw.attBusy.isSome = true → exec i s = .next { s with host := { s.host with resp := .done 0 } })) ∧
  (∀ (s : State) (nonce : BitVec 384) (buf time : Nat), s.custodianOn = true → s.mem.newPoison = [] →
    (s.stw.attBusy = some (2, nonce, buf, time) → s.attestAgreed = true → exec .attestOpDone s = .next { s with stw := { s.stw with
      meas := s.stw.meas.set 5 (Sys2Proof.Machine.extend (s.stw.meas.getD 5 0) nonce), attBusy := none, attDone := true, attError := false } }) ∧
    (∀ op, s.stw.attBusy = some (op, nonce, buf, time) → s.attestAgreed = false → exec .attestOpDone s = .next { s with
      stw := { s.stw with attBusy := none, attDone := true, attError := true } })) ∧
  (∀ (v : W64) (s u : State) (r : BitVec 3), PageServes s .custodian (negPage + 0x90) → s.stw.romOnly = false → bit v 7 = true →
    r = s.lifecycleResult (fld v 4 3) (fld v 16 48) →
    u = { s with stw := { s.stw with lcTarget := BitVec.ofNat 3 (fld v 4 3), lcToken := BitVec.ofNat 48 (fld v 16 48), lcResult := r } } →
    (r ≠ 1 → exec (.lifecycleRequest v) s = .next { u with host := { s.host with resp := .done 0 } }) ∧
    (r = 1 → exec (.lifecycleRequest v) s = .next (s.resetFrame
      ((State.startPkg { u with stw := u.stw.blow (BitVec.ofNat 3 (fld v 4 3)) } 4).respond (.done 0))))) ∧
  (∀ (s : State) (dest a : Nat), (s.stw.lcBusy.isSome = true → s.lifecycleResult dest a = 5) ∧
    (s.stw.lcBusy = none → s.stw.lifecycle = 4 → s.lifecycleResult dest a = 3) ∧
    (s.stw.lcBusy = none → s.stw.lifecycle = 1 → dest = 2 → s.lifecycleResult dest a = 1) ∧
    (s.stw.lcBusy = none → s.stw.lifecycle = 3 → dest = 1 → s.stw.redeploys = 0 → s.lifecycleResult dest a = 4) ∧
    (s.stw.lcBusy = none → s.stw.lifecycle = 2 → dest = 3 → s.tokenOk a 3 = false → s.lifecycleResult dest a = 2)))

/-- Event bits are cleared by a 1; the low half of a 64-bit register waits for its high half; an access to HBM outside what the host
may reach is refused and logged; a read delivers its bytes, and an uncorrectable block is answered as the accessor's kind says; a write
lands and is acknowledged. With both UCIe modules down an access to another die gets no answer, and a device's access to the pages is
an Unsupported Request. Nothing answers while the package is dark. (R6, R58, R277, R430, R440, R452) -/
def Obligations.HostAccessesMeetTheirRules : Prop :=
  (∀ (v : W64) (s : State), PageServes s .custodian (pkgPage + 0x60) → s.mem.newPoison = [] →
    exec (.registerWrite { addr := pkgPage + 0x60, size := 8, value := v }) s = .next { s with
      stw := { s.stw with events := s.stw.events &&& ~~~(v &&& 0x1DF) }
      host := { s.host with low := sset none s.host.low (pkgPage + 0x60) none, resp := .done 0 } }) ∧
  (∀ (v : W64) (s : State), PageServes s .registrar (pkgPage + 0x300) → s.mem.newPoison = [] →
    exec (.registerWrite { addr := pkgPage + 0x300, size := 4, value := v }) s = .next { s with
      host := { s.host with low := sset none s.host.low (pkgPage + 0x300) (some (BitVec.ofNat 32 v.toNat)), resp := .done 0 } }) ∧
  (∀ (x r : HostReq) (s v : State), r = wholeReq x → s.dark = false → s.stw.ucie ≠ 0 → s.ringReach 2 (s.hubBehind r.addr % 4) = true → r.addr < hbmEnd →
    v = s.onMem (fun m => m.grant sourceSteward) →
    (s.hostRange r.addr r.size (hostWrites r) = false →
      exec (.hostAccess x) s = .next (s.resetFrame (s.refuseAccess r).settle)) ∧
    (s.hostRange r.addr r.size (hostWrites r) = true → s.mem.heldAt s.layout r.addr sourceSteward = false → r.data = [] → 
      (∀ u bs, v.read r.addr r.size = (u, some bs) → exec (.hostAccess x) s = .next (s.resetFrame (u.respond (.done (leNat bs))).settle)) ∧
      (∀ u, v.read r.addr r.size = (u, none) → exec (.hostAccess x) s = .next (s.resetFrame (u.badBlock r).settle))) ∧
    (s.hostRange r.addr r.size (hostWrites r) = true → s.mem.heldAt s.layout r.addr sourceSteward = false → r.data ≠ [] →
      ∀ u ok, v.writeAck ownerHost r.addr r.data = (u, ok) →
      exec (.hostAccess x) s = .next (s.resetFrame (if ok then u.respond (.done 0) else u.badBlock r).settle))) ∧
  (∀ (x : HostReq) (s : State), s.dark = false → s.mem.newPoison = [] →
    (s.stw.ucie = 0 → x.addr < ctlBase → exec (.hostAccess x) s = .next { s with host := { s.host with resp := .none } }) ∧
    (ctlBase ≤ x.addr → isDma x.agent = true → exec (.hostAccess x) s = .next { s with host := { s.host with resp := .unsupported } })) ∧
  (∀ (x : HostReq) (s : State), s.dark = true → s.stw.romOnly = false → s.mem.newPoison = [] → exec (.hostAccess x) s = .next s)

/-- A write of a disabled ring register takes effect; of an enabled one, a clear of enable counts with its other fields at the next
beat, and any other write not at all. Once a beat, the submission ring's indices are read: a gap beyond the ring disables it with its
event; else descriptors are read while the completion ring has room. The oldest undecided task is judged: accepted, it takes its slot,
and its record is written; refused, it leaves with its code in the record; an unreadable or malformed descriptor is refused first.
(R213, R214, R215, R216, R217, R338) -/
def Obligations.RingsFeedAdmission : Prop :=
  (∀ (q : Quad) (v : W64) (s : State), PageServes s .registrar (partPage q + 0x100) → bit (s.subqNow q) 5 = false →
    exec (.ringConfigWrite q false v) s = .next (({ s with host := { s.host with resp := .done 0 } } : State).onPart q (fun t => { t with
      subq := BitVec.ofNat 64 (fld v 0 5 + b2n (ringEnabled v) * 2 ^ 5 + fld v 12 36 * 2 ^ 12), subqOff := none }))) ∧
  (∀ (q : Quad) (v : W64) (s : State), PageServes s .registrar (partPage q + 0x108) → bit (s.cqNow q) 5 = true →
    (bit v 5 = false → exec (.ringConfigWrite q true v) s = .next (({ s with host := { s.host with resp := .done 0 } } : State).onPart q
      (fun t => { t with cqNext := BitVec.ofNat 64 (fld v 0 5 + b2n (ringEnabled v) * 2 ^ 5 + fld v 12 36 * 2 ^ 12), cqOff := some (s.beat + 1) }))) ∧
    (bit v 5 = true → exec (.ringConfigWrite q true v) s = .next (({ s with host := { s.host with resp := .done 0 } } : State).onPart q (fun t => t)))) ∧
  (∀ (q : Quad) (s u w : State) (x p n : Nat), p = s.partOf q → s.ringsServed p = true → (s.prt p).readBeat ≠ some s.beat → n = ringEntries (s.subqNow p) →
    u = s.onPart p (fun t => { t with readBeat := some s.beat }) → Rising s.parts → u.ringRead p (ringBase (s.subqNow p)) 16 = (w, some x) →
    (n < indexGap (nfld x 0 64) (nfld x 64 64) → exec (.submissionRingRead q) s =
      .next (s.admitFrame ((w.onPart p (fun t => { t with subq := clearBit t.subq 5 })).event (2 ^ (1 + p))).settle)) ∧
    (indexGap (nfld x 0 64) (nfld x 64 64) ≤ n → ∀ (y : State) (cp cc k : Nat), w.cqIndex p = (y, some (cp, cc)) →
      k = ((y.prt p).tasks.filter (fun t => !t.accepted)).length → exec (.submissionRingRead q) s =
      .next (s.admitFrame (y.readDescs p (ringBase (s.subqNow p)) n (ringEntries (y.cqNow p) - indexGap cp cc) (nfld x 64 64 + k)
        (indexGap (nfld x 0 64) (nfld x 64 64) - k)).settle))) ∧
  (∀ (q : Quad) (s u : State) (t : Task) (p : Nat), p = s.partOf q → s.regOn = true → s.inReset p = false →
    (s.prt p).tasks.find? (fun t => !t.accepted) = some t →
    (∀ i, s.judge p t = (u, .ok i) → exec (.admissionDecision q) s = .next (s.admitFrame ((((u.accept p t i).record p
      { task := tdTask t.desc, kind := 0, time := (u.accept p t i).now } (tdMsi t.desc)).consume p).rejoinAtAcceptance p t i).settle)) ∧
    (∀ c w, s.judge p t = (u, .error c) → w = u.onPart p (fun k => { k with tasks := k.tasks.filter (fun x => x.index != t.index) }) →
      exec (.admissionDecision q) s = .next (s.admitFrame ((w.record p
        { task := tdTask t.desc, kind := 1, code := BitVec.ofNat 16 c, time := w.now, cmdAddr := t.addr } (tdMsi t.desc)).consume p).settle)) ∧
    (t.readable = false → s.judge p t = (s, .error 0x0201)) ∧ (t.readable = true → descBroken t.desc = true → s.judge p t = (s, .error 0x0200)))

/-- The next task of the active slot starts at the first beat boundary at or after now and its release: it is RUNNING and every cluster
of its program runs at its entry folio with its clasps kept. When the deadline of an accepted task passes, it is marked and a
DEADLINE_MISS record with that time and the last step closed is written. (R222, R223) -/
def Obligations.TasksStartAtABeatAndMissDeadlines : Prop :=
  (∀ (q : Quad) (s : State) (p k b : Nat) (t : Task) (i : Image), p = s.partOf q → s.regOn = true → s.inReset p = false → (s.prt p).switching = none →
    s.nextStart p = some (k, t) → t.image = some i → b = s.startBeat t → (∀ c, s.switchBeat p = some c → b < c) →
    (∀ e ∈ i.entries, (s.cl e.1).rested = true) →
    (s.now ≤ 1024 * b ∧ tdRelease t.desc ≤ 1024 * b ∧ (1024 * b < s.now + 1024 ∨ 1024 * b < tdRelease t.desc + 1024)) ∧
    ((((s.runToNow (1024 * b)).prt p).prog k).active = true → tdStep t.desc = false → exec (.taskStart q) s =
      .next (s.admitFrame (((s.runToNow (1024 * b)).onPart p (fun r => { r with
        tasks := r.tasks.map (fun u => if u.index = t.index then { u with st := .running } else u) })).launch i).settle))) ∧
  (∀ (s : State) (i : Image) (c : Nat) (a : Addr), Rising s.clusters → i.entries = [(c, a)] →
    ((s.launch i).cl c).cur = { mode := .running, fetch := a } ∧ ((s.launch i).cl c).halt = none ∧ ((s.launch i).cl c).clasps = (s.cl c).clasps) ∧
  (∀ (q : Quad) (s u : State) (p : Nat) (t : Task), p = s.partOf q → s.unmissed p = [t] →
    u = (s.runToNow (tdDeadline t.desc)).onPart p (fun k => { k with tasks := k.tasks.map (fun x => if x.index = t.index then { x with missed := true } else x) }) →
    exec (.deadlineMiss q) s = .next (s.admitFrame (u.record p { task := tdTask t.desc, kind := 4, time := tdDeadline t.desc, step := (u.prt p).lastClosed t } (tdMsi t.desc)).settle))

/-- At a boundary that changes the program, the switch begins and lasts t_sw; without one nothing happens. A Curator that is stopped
keeps what it was doing, its queues and its clasps. When the engines of the outgoing program are quiet, the switch completes: the
programs are swapped and the incoming slot is active. (R333, R334) -/
def Obligations.ProgramsSwitchAtTheirSlots : Prop :=
  (∀ (q : Quad) (s u : State) (p b : Nat), p = s.partOf q → s.regOn = true → s.inReset p = false → 
    (s.switchBeat p = none → s.mem.newPoison = [] → exec (.programSwitch q) s = .next s) ∧
    (s.switchBeat p = some b → u = s.runToNow (1024 * b) → u.runningIn p (u.prt p).active = none →
      u.waitingIn p ((u.prt p).table.prog u.beat) = none → exec (.programSwitch q) s = .next (s.admitFrame
        (u.onPart p (fun t => { t with switching := some (u.time.ticks + switchNs ((u.prt p).active.bind (fun k => ((u.prt p).prog k).image))
          (((u.prt p).table.prog u.beat).bind (fun k => ((u.prt p).prog k).image)) false false * nsT, (u.prt p).table.prog u.beat) })).settle))) ∧
  (∀ (k : Cluster), (∀ m, k.cur.mode = m → m ≠ .idle → m ≠ .halted → m ≠ .switched →
    k.stopped.cur = { k.cur with mode := .switched, resume := m } ∧ k.stopped.mxq = k.mxq ∧ k.stopped.clasps = k.clasps)) ∧
  (∀ (q : Quad) (s : State) (p due : Nat) (inc : Option Nat), p = s.partOf q → (s.prt p).switching = some (due, inc) → s.regOn = true → s.inReset p = false →
    (∀ c ∈ (s.runningIn p (s.prt p).active).elim [] Task.clusters, (s.cl c).quiet = true ∧ (s.cl c).halt = none) →
    exec (.switchComplete q) s = .next (s.admitFrame ((((s.runTo due).swap p (s.prt p).active inc).onPart p (fun t => { t with
      active := inc, switching := none })).sliceCtxs p (s.prt p).active inc).settle))
end

