-- ==== Sys2Proof/Laws/Sparse.lean ====
section
/-!
SUPPORT. Reading after writing in sparse tables, and what keeps their numbers rising.
-/
namespace Sys2Proof.Machine

variable {α : Type}

@[simp] theorem rising_nil : Rising ([] : Sparse α) := List.Pairwise.nil

theorem sget_of_lt (d : α) : ∀ {m : Sparse α} {k : Nat}, (∀ e ∈ m, k < e.1) → sget d m k = d
  | [], _, _ => rfl
  | (i, x) :: t, k, h => by
    have hi : k < i := h (i, x) (by simp)
    have : i ≠ k := by omega
    simp only [sget, if_neg this]
    exact sget_of_lt d (fun e he => h e (by simp [he]))

/-- Reading another number after a write gives what it gave before. -/
theorem sget_sset_ne [DecidableEq α] (d : α) : ∀ (m : Sparse α) (k : Nat) (v : α) {j : Nat}, j ≠ k → sget d (sset d m k v) j = sget d m j
  | [], k, v, j, h => by
    unfold sset
    split <;> simp [sget, Ne.symm h]
  | (i, x) :: t, k, v, j, h => by
    unfold sset
    split
    · split
      · rfl
      · simp [sget, Ne.symm h]
    · split
      · next hk =>
        subst hk
        split <;> simp [sget, Ne.symm h]
      · simp only [sget, sget_sset_ne d t k v h]

/-- Reading a number after writing it gives what was written. -/
theorem sget_sset_self [DecidableEq α] (d : α) : ∀ {m : Sparse α} (k : Nat) (v : α), Rising m → sget d (sset d m k v) k = v
  | [], k, v, _ => by
    unfold sset
    split <;> simp_all [sget]
  | (i, x) :: t, k, v, h => by
    have ht : Rising t := (List.pairwise_cons.mp h).2
    have hi := (List.pairwise_cons.mp h).1
    unfold sset
    split
    · next hk =>
      split
      · next hv =>
        subst hv
        exact sget_of_lt v (by
          intro e he
          rcases List.mem_cons.mp he with rfl | he
          · exact hk
          · exact Nat.lt_trans hk (hi e he))
      · simp [sget]
    · split
      · next hk =>
        subst hk
        split
        · next hv => subst hv; exact sget_of_lt v hi
        · simp [sget]
      · next hn hk =>
        simp only [sget, if_neg (Ne.symm hk)]
        exact sget_sset_self d k v ht

theorem mem_sset [DecidableEq α] (d : α) : ∀ {m : Sparse α} {k : Nat} {v : α} {e : Nat × α}, e ∈ sset d m k v → e ∈ m ∨ e = (k, v)
  | [], k, v, e, h => by
    unfold sset at h
    split at h <;> simp_all
  | (i, x) :: t, k, v, e, h => by
    unfold sset at h
    split at h
    · split at h
      · exact .inl h
      · rcases List.mem_cons.mp h with h | h
        · exact .inr h
        · exact .inl h
    · split at h
      · split at h
        · exact .inl (List.mem_cons_of_mem _ h)
        · rcases List.mem_cons.mp h with h | h
          · exact .inr h
          · exact .inl (List.mem_cons_of_mem _ h)
      · rcases List.mem_cons.mp h with h | h
        · exact .inl (by simp [h])
        · rcases mem_sset d h with h | h
          · exact .inl (List.mem_cons_of_mem _ h)
          · exact .inr h

/-- Every entry after a write comes from before it, or is the one written and not the default. -/
theorem mem_sset_ne [DecidableEq α] (d : α) : ∀ {m : Sparse α} {k : Nat} {v : α} {e : Nat × α}, e ∈ sset d m k v → e ∈ m ∨ (e = (k, v) ∧ v ≠ d)
  | [], k, v, e, h => by
    unfold sset at h
    split at h <;> simp_all
  | (i, x) :: t, k, v, e, h => by
    unfold sset at h
    split at h
    · split at h
      · exact .inl h
      · next hv =>
        rcases List.mem_cons.mp h with h | h
        · exact .inr ⟨h, hv⟩
        · exact .inl h
    · split at h
      · split at h
        · exact .inl (List.mem_cons_of_mem _ h)
        · next hv =>
          rcases List.mem_cons.mp h with h | h
          · exact .inr ⟨h, hv⟩
          · exact .inl (List.mem_cons_of_mem _ h)
      · rcases List.mem_cons.mp h with h | h
        · exact .inl (by simp [h])
        · rcases mem_sset_ne d h with h | h
          · exact .inl (List.mem_cons_of_mem _ h)
          · exact .inr h

/-- A write keeps the numbers rising. -/
theorem rising_sset [DecidableEq α] (d : α) : ∀ {m : Sparse α} (k : Nat) (v : α), Rising m → Rising (sset d m k v)
  | [], k, v, _ => by
    unfold sset
    split <;> simp [Rising]
  | (i, x) :: t, k, v, h => by
    have ht : Rising t := (List.pairwise_cons.mp h).2
    have hi := (List.pairwise_cons.mp h).1
    unfold sset
    split
    · next hk =>
      split
      · exact h
      · refine List.pairwise_cons.mpr ⟨?_, h⟩
        intro e he
        rcases List.mem_cons.mp he with rfl | he
        · exact hk
        · exact Nat.lt_trans hk (hi e he)
    · split
      · next hk =>
        subst hk
        split
        · exact ht
        · exact List.pairwise_cons.mpr ⟨hi, ht⟩
      · next hn hk =>
        refine List.pairwise_cons.mpr ⟨?_, rising_sset d k v ht⟩
        intro e he
        rcases mem_sset d he with he | rfl
        · exact hi e he
        · show i < k
          omega

theorem rising_skeep (p : Nat → α → Bool) : ∀ {m : Sparse α}, Rising m → Rising (skeep p m)
  | [], _ => by simp [skeep]
  | (i, x) :: t, h => by
    have ht : Rising t := (List.pairwise_cons.mp h).2
    have hi := (List.pairwise_cons.mp h).1
    have sub : ∀ (l : Sparse α), ∀ e ∈ skeep p l, e ∈ l := by
      intro l
      induction l with
      | nil => simp [skeep]
      | cons y r ih =>
        intro e he
        unfold skeep at he
        split at he
        · rcases List.mem_cons.mp he with rfl | he
          · simp
          · exact List.mem_cons_of_mem _ (ih e he)
        · exact List.mem_cons_of_mem _ (ih e he)
    unfold skeep
    split
    · exact List.pairwise_cons.mpr ⟨fun e he => hi e (sub t e he), rising_skeep p ht⟩
    · exact rising_skeep p ht

/-- Changing the entries of a table in place keeps its numbers. -/
theorem rising_map {β : Type} (f : Nat × α → β) {m : Sparse α} (h : Rising m) : Rising (m.map (fun e => (e.1, f e))) :=
  List.pairwise_map.mpr (h.imp (fun h => h))

/-! ## The canonical form -/

theorem sokFrom_iff [DecidableEq α] (d : α) : ∀ {m : Sparse α} {lo : Nat},
    sokFrom d lo m = true ↔ (∀ e ∈ m, lo ≤ e.1 ∧ e.2 ≠ d) ∧ Rising m
  | [], lo => by simp [sokFrom]
  | (i, x) :: t, lo => by
    simp only [sokFrom, Bool.and_eq_true, decide_eq_true_eq, Bool.not_eq_true', decide_eq_false_iff_not,
      sokFrom_iff d (m := t), List.mem_cons, forall_eq_or_imp]
    constructor
    · rintro ⟨⟨hl, hx⟩, ht, hr⟩
      exact ⟨⟨⟨hl, hx⟩, fun e he => ⟨by have := (ht e he).1; omega, (ht e he).2⟩⟩,
        List.pairwise_cons.mpr ⟨fun e he => (ht e he).1, hr⟩⟩
    · rintro ⟨⟨⟨hl, hx⟩, ht⟩, hr⟩
      have h := List.pairwise_cons.mp hr
      exact ⟨⟨hl, hx⟩, fun e he => ⟨h.1 e he, (ht e he).2⟩, h.2⟩

theorem sok_iff [DecidableEq α] (d : α) {m : Sparse α} : sok d m = true ↔ (∀ e ∈ m, e.2 ≠ d) ∧ Rising m := by
  simp [sok, sokFrom_iff]

/-- A write keeps the canonical form. -/
theorem sok_sset [DecidableEq α] (d : α) {m : Sparse α} (k : Nat) (v : α) (h : sok d m = true) : sok d (sset d m k v) = true := by
  rw [sok_iff] at h ⊢
  refine ⟨fun e he => ?_, rising_sset d k v h.2⟩
  rcases mem_sset_ne d he with he | ⟨rfl, hv⟩
  · exact h.1 e he
  · exact hv

theorem sok_skeep [DecidableEq α] (d : α) (p : Nat → α → Bool) {m : Sparse α} (h : sok d m = true) : sok d (skeep p m) = true := by
  rw [sok_iff] at h ⊢
  refine ⟨fun e he => ?_, rising_skeep p h.2⟩
  have sub : ∀ (l : Sparse α), ∀ e ∈ skeep p l, e ∈ l := by
    intro l
    induction l with
    | nil => simp [skeep]
    | cons y r ih =>
      intro e he
      unfold skeep at he
      split at he
      · rcases List.mem_cons.mp he with rfl | he
        · simp
        · exact List.mem_cons_of_mem _ (ih e he)
      · exact List.mem_cons_of_mem _ (ih e he)
  exact h.1 e (sub m e he)

theorem sok_foldl_sset {β : Type} [DecidableEq α] (d : α) (k : β → Nat) (v : β → α) :
    ∀ (l : List β) {m : Sparse α}, sok d m = true → sok d (l.foldl (fun m b => sset d m (k b) (v b)) m) = true
  | [], _, h => h
  | b :: t, _, h => sok_foldl_sset d k v t (sok_sset d (k b) (v b) h)

end Sys2Proof.Machine
end

