-- ==== Sys2Proof/Laws/State.lean ====
section
/-!
SUPPORT. What each update of one part of the state leaves: one fact for each other field, so that no proof unfolds a record update.
-/
namespace Sys2Proof.Machine

/-! ### setCl -/

@[simp] theorem State.setCl_pending (s : State) (c : Nat) (k : Cluster) : (s.setCl c k).pending = s.pending := rfl
@[simp] theorem State.setCl_time (s : State) (c : Nat) (k : Cluster) : (s.setCl c k).time = s.time := rfl
@[simp] theorem State.setCl_mem (s : State) (c : Nat) (k : Cluster) : (s.setCl c k).mem = s.mem := rfl
@[simp] theorem State.setCl_mesh (s : State) (c : Nat) (k : Cluster) : (s.setCl c k).mesh = s.mesh := rfl
@[simp] theorem State.setCl_panel (s : State) (c : Nat) (k : Cluster) : (s.setCl c k).panel = s.panel := rfl
@[simp] theorem State.setCl_images (s : State) (c : Nat) (k : Cluster) : (s.setCl c k).images = s.images := rfl
@[simp] theorem State.setCl_parts (s : State) (c : Nat) (k : Cluster) : (s.setCl c k).parts = s.parts := rfl
@[simp] theorem State.setCl_nextTask (s : State) (c : Nat) (k : Cluster) : (s.setCl c k).nextTask = s.nextTask := rfl
@[simp] theorem State.setCl_red (s : State) (c : Nat) (k : Cluster) : (s.setCl c k).red = s.red := rfl
@[simp] theorem State.setCl_fabric (s : State) (c : Nat) (k : Cluster) : (s.setCl c k).fabric = s.fabric := rfl
@[simp] theorem State.setCl_stage (s : State) (c : Nat) (k : Cluster) : (s.setCl c k).stage = s.stage := rfl
@[simp] theorem State.setCl_roots (s : State) (c : Nat) (k : Cluster) : (s.setCl c k).roots = s.roots := rfl
@[simp] theorem State.setCl_power (s : State) (c : Nat) (k : Cluster) : (s.setCl c k).power = s.power := rfl
@[simp] theorem State.setCl_stw (s : State) (c : Nat) (k : Cluster) : (s.setCl c k).stw = s.stw := rfl
@[simp] theorem State.setCl_host (s : State) (c : Nat) (k : Cluster) : (s.setCl c k).host = s.host := rfl
@[simp] theorem State.setCl_reset (s : State) (c : Nat) (k : Cluster) : (s.setCl c k).reset_ = s.reset_ := rfl
@[simp] theorem State.setCl_fresh (s : State) (c : Nat) (k : Cluster) : (s.setCl c k).fresh = s.fresh := rfl

/-! ### onCl -/

@[simp] theorem State.onCl_pending (s : State) (c : Nat) (f : Cluster → Cluster) : (s.onCl c f).pending = s.pending := rfl
@[simp] theorem State.onCl_time (s : State) (c : Nat) (f : Cluster → Cluster) : (s.onCl c f).time = s.time := rfl
@[simp] theorem State.onCl_mem (s : State) (c : Nat) (f : Cluster → Cluster) : (s.onCl c f).mem = s.mem := rfl
@[simp] theorem State.onCl_mesh (s : State) (c : Nat) (f : Cluster → Cluster) : (s.onCl c f).mesh = s.mesh := rfl
@[simp] theorem State.onCl_panel (s : State) (c : Nat) (f : Cluster → Cluster) : (s.onCl c f).panel = s.panel := rfl
@[simp] theorem State.onCl_images (s : State) (c : Nat) (f : Cluster → Cluster) : (s.onCl c f).images = s.images := rfl
@[simp] theorem State.onCl_parts (s : State) (c : Nat) (f : Cluster → Cluster) : (s.onCl c f).parts = s.parts := rfl
@[simp] theorem State.onCl_nextTask (s : State) (c : Nat) (f : Cluster → Cluster) : (s.onCl c f).nextTask = s.nextTask := rfl
@[simp] theorem State.onCl_red (s : State) (c : Nat) (f : Cluster → Cluster) : (s.onCl c f).red = s.red := rfl
@[simp] theorem State.onCl_fabric (s : State) (c : Nat) (f : Cluster → Cluster) : (s.onCl c f).fabric = s.fabric := rfl
@[simp] theorem State.onCl_stage (s : State) (c : Nat) (f : Cluster → Cluster) : (s.onCl c f).stage = s.stage := rfl
@[simp] theorem State.onCl_roots (s : State) (c : Nat) (f : Cluster → Cluster) : (s.onCl c f).roots = s.roots := rfl
@[simp] theorem State.onCl_power (s : State) (c : Nat) (f : Cluster → Cluster) : (s.onCl c f).power = s.power := rfl
@[simp] theorem State.onCl_stw (s : State) (c : Nat) (f : Cluster → Cluster) : (s.onCl c f).stw = s.stw := rfl
@[simp] theorem State.onCl_host (s : State) (c : Nat) (f : Cluster → Cluster) : (s.onCl c f).host = s.host := rfl
@[simp] theorem State.onCl_reset (s : State) (c : Nat) (f : Cluster → Cluster) : (s.onCl c f).reset_ = s.reset_ := rfl
@[simp] theorem State.onCl_fresh (s : State) (c : Nat) (f : Cluster → Cluster) : (s.onCl c f).fresh = s.fresh := rfl

/-! ### onPart -/

@[simp] theorem State.onPart_pending (s : State) (p : Nat) (f : Part → Part) : (s.onPart p f).pending = s.pending := rfl
@[simp] theorem State.onPart_time (s : State) (p : Nat) (f : Part → Part) : (s.onPart p f).time = s.time := rfl
@[simp] theorem State.onPart_mem (s : State) (p : Nat) (f : Part → Part) : (s.onPart p f).mem = s.mem := rfl
@[simp] theorem State.onPart_clusters (s : State) (p : Nat) (f : Part → Part) : (s.onPart p f).clusters = s.clusters := rfl
@[simp] theorem State.onPart_mesh (s : State) (p : Nat) (f : Part → Part) : (s.onPart p f).mesh = s.mesh := rfl
@[simp] theorem State.onPart_panel (s : State) (p : Nat) (f : Part → Part) : (s.onPart p f).panel = s.panel := rfl
@[simp] theorem State.onPart_images (s : State) (p : Nat) (f : Part → Part) : (s.onPart p f).images = s.images := rfl
@[simp] theorem State.onPart_nextTask (s : State) (p : Nat) (f : Part → Part) : (s.onPart p f).nextTask = s.nextTask := rfl
@[simp] theorem State.onPart_red (s : State) (p : Nat) (f : Part → Part) : (s.onPart p f).red = s.red := rfl
@[simp] theorem State.onPart_fabric (s : State) (p : Nat) (f : Part → Part) : (s.onPart p f).fabric = s.fabric := rfl
@[simp] theorem State.onPart_stage (s : State) (p : Nat) (f : Part → Part) : (s.onPart p f).stage = s.stage := rfl
@[simp] theorem State.onPart_roots (s : State) (p : Nat) (f : Part → Part) : (s.onPart p f).roots = s.roots := rfl
@[simp] theorem State.onPart_power (s : State) (p : Nat) (f : Part → Part) : (s.onPart p f).power = s.power := rfl
@[simp] theorem State.onPart_stw (s : State) (p : Nat) (f : Part → Part) : (s.onPart p f).stw = s.stw := rfl
@[simp] theorem State.onPart_host (s : State) (p : Nat) (f : Part → Part) : (s.onPart p f).host = s.host := rfl
@[simp] theorem State.onPart_reset (s : State) (p : Nat) (f : Part → Part) : (s.onPart p f).reset_ = s.reset_ := rfl
@[simp] theorem State.onPart_fresh (s : State) (p : Nat) (f : Part → Part) : (s.onPart p f).fresh = s.fresh := rfl

/-! ### onHub -/

@[simp] theorem State.onHub_pending (s : State) (h : Nat) (f : HubSt → HubSt) : (s.onHub h f).pending = s.pending := rfl
@[simp] theorem State.onHub_time (s : State) (h : Nat) (f : HubSt → HubSt) : (s.onHub h f).time = s.time := rfl
@[simp] theorem State.onHub_mem (s : State) (h : Nat) (f : HubSt → HubSt) : (s.onHub h f).mem = s.mem := rfl
@[simp] theorem State.onHub_clusters (s : State) (h : Nat) (f : HubSt → HubSt) : (s.onHub h f).clusters = s.clusters := rfl
@[simp] theorem State.onHub_mesh (s : State) (h : Nat) (f : HubSt → HubSt) : (s.onHub h f).mesh = s.mesh := rfl
@[simp] theorem State.onHub_panel (s : State) (h : Nat) (f : HubSt → HubSt) : (s.onHub h f).panel = s.panel := rfl
@[simp] theorem State.onHub_images (s : State) (h : Nat) (f : HubSt → HubSt) : (s.onHub h f).images = s.images := rfl
@[simp] theorem State.onHub_parts (s : State) (h : Nat) (f : HubSt → HubSt) : (s.onHub h f).parts = s.parts := rfl
@[simp] theorem State.onHub_nextTask (s : State) (h : Nat) (f : HubSt → HubSt) : (s.onHub h f).nextTask = s.nextTask := rfl
@[simp] theorem State.onHub_fabric (s : State) (h : Nat) (f : HubSt → HubSt) : (s.onHub h f).fabric = s.fabric := rfl
@[simp] theorem State.onHub_stage (s : State) (h : Nat) (f : HubSt → HubSt) : (s.onHub h f).stage = s.stage := rfl
@[simp] theorem State.onHub_roots (s : State) (h : Nat) (f : HubSt → HubSt) : (s.onHub h f).roots = s.roots := rfl
@[simp] theorem State.onHub_power (s : State) (h : Nat) (f : HubSt → HubSt) : (s.onHub h f).power = s.power := rfl
@[simp] theorem State.onHub_stw (s : State) (h : Nat) (f : HubSt → HubSt) : (s.onHub h f).stw = s.stw := rfl
@[simp] theorem State.onHub_host (s : State) (h : Nat) (f : HubSt → HubSt) : (s.onHub h f).host = s.host := rfl
@[simp] theorem State.onHub_reset (s : State) (h : Nat) (f : HubSt → HubSt) : (s.onHub h f).reset_ = s.reset_ := rfl
@[simp] theorem State.onHub_fresh (s : State) (h : Nat) (f : HubSt → HubSt) : (s.onHub h f).fresh = s.fresh := rfl

/-! ### onLink -/

@[simp] theorem State.onLink_pending (s : State) (l : Nat) (f : Link → Link) : (s.onLink l f).pending = s.pending := rfl
@[simp] theorem State.onLink_time (s : State) (l : Nat) (f : Link → Link) : (s.onLink l f).time = s.time := rfl
@[simp] theorem State.onLink_mem (s : State) (l : Nat) (f : Link → Link) : (s.onLink l f).mem = s.mem := rfl
@[simp] theorem State.onLink_clusters (s : State) (l : Nat) (f : Link → Link) : (s.onLink l f).clusters = s.clusters := rfl
@[simp] theorem State.onLink_mesh (s : State) (l : Nat) (f : Link → Link) : (s.onLink l f).mesh = s.mesh := rfl
@[simp] theorem State.onLink_panel (s : State) (l : Nat) (f : Link → Link) : (s.onLink l f).panel = s.panel := rfl
@[simp] theorem State.onLink_images (s : State) (l : Nat) (f : Link → Link) : (s.onLink l f).images = s.images := rfl
@[simp] theorem State.onLink_parts (s : State) (l : Nat) (f : Link → Link) : (s.onLink l f).parts = s.parts := rfl
@[simp] theorem State.onLink_nextTask (s : State) (l : Nat) (f : Link → Link) : (s.onLink l f).nextTask = s.nextTask := rfl
@[simp] theorem State.onLink_red (s : State) (l : Nat) (f : Link → Link) : (s.onLink l f).red = s.red := rfl
@[simp] theorem State.onLink_stage (s : State) (l : Nat) (f : Link → Link) : (s.onLink l f).stage = s.stage := rfl
@[simp] theorem State.onLink_roots (s : State) (l : Nat) (f : Link → Link) : (s.onLink l f).roots = s.roots := rfl
@[simp] theorem State.onLink_power (s : State) (l : Nat) (f : Link → Link) : (s.onLink l f).power = s.power := rfl
@[simp] theorem State.onLink_stw (s : State) (l : Nat) (f : Link → Link) : (s.onLink l f).stw = s.stw := rfl
@[simp] theorem State.onLink_host (s : State) (l : Nat) (f : Link → Link) : (s.onLink l f).host = s.host := rfl
@[simp] theorem State.onLink_reset (s : State) (l : Nat) (f : Link → Link) : (s.onLink l f).reset_ = s.reset_ := rfl
@[simp] theorem State.onLink_fresh (s : State) (l : Nat) (f : Link → Link) : (s.onLink l f).fresh = s.fresh := rfl

/-! ### onEdge -/

@[simp] theorem State.onEdge_pending (s : State) (e : Nat) (f : Edge → Edge) : (s.onEdge e f).pending = s.pending := rfl
@[simp] theorem State.onEdge_time (s : State) (e : Nat) (f : Edge → Edge) : (s.onEdge e f).time = s.time := rfl
@[simp] theorem State.onEdge_mem (s : State) (e : Nat) (f : Edge → Edge) : (s.onEdge e f).mem = s.mem := rfl
@[simp] theorem State.onEdge_clusters (s : State) (e : Nat) (f : Edge → Edge) : (s.onEdge e f).clusters = s.clusters := rfl
@[simp] theorem State.onEdge_panel (s : State) (e : Nat) (f : Edge → Edge) : (s.onEdge e f).panel = s.panel := rfl
@[simp] theorem State.onEdge_images (s : State) (e : Nat) (f : Edge → Edge) : (s.onEdge e f).images = s.images := rfl
@[simp] theorem State.onEdge_parts (s : State) (e : Nat) (f : Edge → Edge) : (s.onEdge e f).parts = s.parts := rfl
@[simp] theorem State.onEdge_nextTask (s : State) (e : Nat) (f : Edge → Edge) : (s.onEdge e f).nextTask = s.nextTask := rfl
@[simp] theorem State.onEdge_red (s : State) (e : Nat) (f : Edge → Edge) : (s.onEdge e f).red = s.red := rfl
@[simp] theorem State.onEdge_fabric (s : State) (e : Nat) (f : Edge → Edge) : (s.onEdge e f).fabric = s.fabric := rfl
@[simp] theorem State.onEdge_stage (s : State) (e : Nat) (f : Edge → Edge) : (s.onEdge e f).stage = s.stage := rfl
@[simp] theorem State.onEdge_roots (s : State) (e : Nat) (f : Edge → Edge) : (s.onEdge e f).roots = s.roots := rfl
@[simp] theorem State.onEdge_power (s : State) (e : Nat) (f : Edge → Edge) : (s.onEdge e f).power = s.power := rfl
@[simp] theorem State.onEdge_stw (s : State) (e : Nat) (f : Edge → Edge) : (s.onEdge e f).stw = s.stw := rfl
@[simp] theorem State.onEdge_host (s : State) (e : Nat) (f : Edge → Edge) : (s.onEdge e f).host = s.host := rfl
@[simp] theorem State.onEdge_reset (s : State) (e : Nat) (f : Edge → Edge) : (s.onEdge e f).reset_ = s.reset_ := rfl
@[simp] theorem State.onEdge_fresh (s : State) (e : Nat) (f : Edge → Edge) : (s.onEdge e f).fresh = s.fresh := rfl

/-! ### onMem -/

@[simp] theorem State.onMem_pending (s : State) (f : MemSt → MemSt) : (s.onMem f).pending = s.pending := rfl
@[simp] theorem State.onMem_time (s : State) (f : MemSt → MemSt) : (s.onMem f).time = s.time := rfl
@[simp] theorem State.onMem_clusters (s : State) (f : MemSt → MemSt) : (s.onMem f).clusters = s.clusters := rfl
@[simp] theorem State.onMem_mesh (s : State) (f : MemSt → MemSt) : (s.onMem f).mesh = s.mesh := rfl
@[simp] theorem State.onMem_panel (s : State) (f : MemSt → MemSt) : (s.onMem f).panel = s.panel := rfl
@[simp] theorem State.onMem_images (s : State) (f : MemSt → MemSt) : (s.onMem f).images = s.images := rfl
@[simp] theorem State.onMem_parts (s : State) (f : MemSt → MemSt) : (s.onMem f).parts = s.parts := rfl
@[simp] theorem State.onMem_nextTask (s : State) (f : MemSt → MemSt) : (s.onMem f).nextTask = s.nextTask := rfl
@[simp] theorem State.onMem_red (s : State) (f : MemSt → MemSt) : (s.onMem f).red = s.red := rfl
@[simp] theorem State.onMem_fabric (s : State) (f : MemSt → MemSt) : (s.onMem f).fabric = s.fabric := rfl
@[simp] theorem State.onMem_stage (s : State) (f : MemSt → MemSt) : (s.onMem f).stage = s.stage := rfl
@[simp] theorem State.onMem_roots (s : State) (f : MemSt → MemSt) : (s.onMem f).roots = s.roots := rfl
@[simp] theorem State.onMem_power (s : State) (f : MemSt → MemSt) : (s.onMem f).power = s.power := rfl
@[simp] theorem State.onMem_stw (s : State) (f : MemSt → MemSt) : (s.onMem f).stw = s.stw := rfl
@[simp] theorem State.onMem_host (s : State) (f : MemSt → MemSt) : (s.onMem f).host = s.host := rfl
@[simp] theorem State.onMem_reset (s : State) (f : MemSt → MemSt) : (s.onMem f).reset_ = s.reset_ := rfl
@[simp] theorem State.onMem_fresh (s : State) (f : MemSt → MemSt) : (s.onMem f).fresh = s.fresh := rfl

/-! ### draw -/

@[simp] theorem State.draw_pending (s : State)  : (s.draw).pending = s.pending := rfl
@[simp] theorem State.draw_time (s : State)  : (s.draw).time = s.time := rfl
@[simp] theorem State.draw_mem (s : State)  : (s.draw).mem = s.mem := rfl
@[simp] theorem State.draw_clusters (s : State)  : (s.draw).clusters = s.clusters := rfl
@[simp] theorem State.draw_mesh (s : State)  : (s.draw).mesh = s.mesh := rfl
@[simp] theorem State.draw_panel (s : State)  : (s.draw).panel = s.panel := rfl
@[simp] theorem State.draw_images (s : State)  : (s.draw).images = s.images := rfl
@[simp] theorem State.draw_parts (s : State)  : (s.draw).parts = s.parts := rfl
@[simp] theorem State.draw_nextTask (s : State)  : (s.draw).nextTask = s.nextTask := rfl
@[simp] theorem State.draw_red (s : State)  : (s.draw).red = s.red := rfl
@[simp] theorem State.draw_fabric (s : State)  : (s.draw).fabric = s.fabric := rfl
@[simp] theorem State.draw_stage (s : State)  : (s.draw).stage = s.stage := rfl
@[simp] theorem State.draw_roots (s : State)  : (s.draw).roots = s.roots := rfl
@[simp] theorem State.draw_power (s : State)  : (s.draw).power = s.power := rfl
@[simp] theorem State.draw_stw (s : State)  : (s.draw).stw = s.stw := rfl
@[simp] theorem State.draw_host (s : State)  : (s.draw).host = s.host := rfl
@[simp] theorem State.draw_reset (s : State)  : (s.draw).reset_ = s.reset_ := rfl

/-! ### msi -/

@[simp] theorem State.msi_pending (s : State) (v : Nat) : (s.msi v).pending = s.pending := rfl
@[simp] theorem State.msi_time (s : State) (v : Nat) : (s.msi v).time = s.time := rfl
@[simp] theorem State.msi_mem (s : State) (v : Nat) : (s.msi v).mem = s.mem := rfl
@[simp] theorem State.msi_clusters (s : State) (v : Nat) : (s.msi v).clusters = s.clusters := rfl
@[simp] theorem State.msi_mesh (s : State) (v : Nat) : (s.msi v).mesh = s.mesh := rfl
@[simp] theorem State.msi_panel (s : State) (v : Nat) : (s.msi v).panel = s.panel := rfl
@[simp] theorem State.msi_images (s : State) (v : Nat) : (s.msi v).images = s.images := rfl
@[simp] theorem State.msi_parts (s : State) (v : Nat) : (s.msi v).parts = s.parts := rfl
@[simp] theorem State.msi_nextTask (s : State) (v : Nat) : (s.msi v).nextTask = s.nextTask := rfl
@[simp] theorem State.msi_red (s : State) (v : Nat) : (s.msi v).red = s.red := rfl
@[simp] theorem State.msi_fabric (s : State) (v : Nat) : (s.msi v).fabric = s.fabric := rfl
@[simp] theorem State.msi_stage (s : State) (v : Nat) : (s.msi v).stage = s.stage := rfl
@[simp] theorem State.msi_roots (s : State) (v : Nat) : (s.msi v).roots = s.roots := rfl
@[simp] theorem State.msi_power (s : State) (v : Nat) : (s.msi v).power = s.power := rfl
@[simp] theorem State.msi_stw (s : State) (v : Nat) : (s.msi v).stw = s.stw := rfl
@[simp] theorem State.msi_reset (s : State) (v : Nat) : (s.msi v).reset_ = s.reset_ := rfl
@[simp] theorem State.msi_fresh (s : State) (v : Nat) : (s.msi v).fresh = s.fresh := rfl

/-! ### respond -/

@[simp] theorem State.respond_pending (s : State) (r : HostResp) : (s.respond r).pending = s.pending := rfl
@[simp] theorem State.respond_time (s : State) (r : HostResp) : (s.respond r).time = s.time := rfl
@[simp] theorem State.respond_mem (s : State) (r : HostResp) : (s.respond r).mem = s.mem := rfl
@[simp] theorem State.respond_clusters (s : State) (r : HostResp) : (s.respond r).clusters = s.clusters := rfl
@[simp] theorem State.respond_mesh (s : State) (r : HostResp) : (s.respond r).mesh = s.mesh := rfl
@[simp] theorem State.respond_panel (s : State) (r : HostResp) : (s.respond r).panel = s.panel := rfl
@[simp] theorem State.respond_images (s : State) (r : HostResp) : (s.respond r).images = s.images := rfl
@[simp] theorem State.respond_parts (s : State) (r : HostResp) : (s.respond r).parts = s.parts := rfl
@[simp] theorem State.respond_nextTask (s : State) (r : HostResp) : (s.respond r).nextTask = s.nextTask := rfl
@[simp] theorem State.respond_red (s : State) (r : HostResp) : (s.respond r).red = s.red := rfl
@[simp] theorem State.respond_fabric (s : State) (r : HostResp) : (s.respond r).fabric = s.fabric := rfl
@[simp] theorem State.respond_stage (s : State) (r : HostResp) : (s.respond r).stage = s.stage := rfl
@[simp] theorem State.respond_roots (s : State) (r : HostResp) : (s.respond r).roots = s.roots := rfl
@[simp] theorem State.respond_power (s : State) (r : HostResp) : (s.respond r).power = s.power := rfl
@[simp] theorem State.respond_stw (s : State) (r : HostResp) : (s.respond r).stw = s.stw := rfl
@[simp] theorem State.respond_reset (s : State) (r : HostResp) : (s.respond r).reset_ = s.reset_ := rfl
@[simp] theorem State.respond_fresh (s : State) (r : HostResp) : (s.respond r).fresh = s.fresh := rfl

/-! ### localSignal -/

@[simp] theorem State.localSignal_pending (s : State) (prog c k : Nat) (inc : BitVec 16) : (s.localSignal prog c k inc).pending = s.pending := rfl
@[simp] theorem State.localSignal_time (s : State) (prog c k : Nat) (inc : BitVec 16) : (s.localSignal prog c k inc).time = s.time := rfl
@[simp] theorem State.localSignal_mem (s : State) (prog c k : Nat) (inc : BitVec 16) : (s.localSignal prog c k inc).mem = s.mem := rfl
@[simp] theorem State.localSignal_clusters (s : State) (prog c k : Nat) (inc : BitVec 16) : (s.localSignal prog c k inc).clusters = s.clusters := rfl
@[simp] theorem State.localSignal_mesh (s : State) (prog c k : Nat) (inc : BitVec 16) : (s.localSignal prog c k inc).mesh = s.mesh := rfl
@[simp] theorem State.localSignal_panel (s : State) (prog c k : Nat) (inc : BitVec 16) : (s.localSignal prog c k inc).panel = s.panel := rfl
@[simp] theorem State.localSignal_images (s : State) (prog c k : Nat) (inc : BitVec 16) : (s.localSignal prog c k inc).images = s.images := rfl
@[simp] theorem State.localSignal_parts (s : State) (prog c k : Nat) (inc : BitVec 16) : (s.localSignal prog c k inc).parts = s.parts := rfl
@[simp] theorem State.localSignal_nextTask (s : State) (prog c k : Nat) (inc : BitVec 16) : (s.localSignal prog c k inc).nextTask = s.nextTask := rfl
@[simp] theorem State.localSignal_red (s : State) (prog c k : Nat) (inc : BitVec 16) : (s.localSignal prog c k inc).red = s.red := rfl
@[simp] theorem State.localSignal_stage (s : State) (prog c k : Nat) (inc : BitVec 16) : (s.localSignal prog c k inc).stage = s.stage := rfl
@[simp] theorem State.localSignal_roots (s : State) (prog c k : Nat) (inc : BitVec 16) : (s.localSignal prog c k inc).roots = s.roots := rfl
@[simp] theorem State.localSignal_power (s : State) (prog c k : Nat) (inc : BitVec 16) : (s.localSignal prog c k inc).power = s.power := rfl
@[simp] theorem State.localSignal_stw (s : State) (prog c k : Nat) (inc : BitVec 16) : (s.localSignal prog c k inc).stw = s.stw := rfl
@[simp] theorem State.localSignal_host (s : State) (prog c k : Nat) (inc : BitVec 16) : (s.localSignal prog c k inc).host = s.host := rfl
@[simp] theorem State.localSignal_reset (s : State) (prog c k : Nat) (inc : BitVec 16) : (s.localSignal prog c k inc).reset_ = s.reset_ := rfl
@[simp] theorem State.localSignal_fresh (s : State) (prog c k : Nat) (inc : BitVec 16) : (s.localSignal prog c k inc).fresh = s.fresh := rfl

/-! ### drop -/

@[simp] theorem State.drop_pending (s : State) (h : Nat) (d : Drop) : (s.drop h d).pending = s.pending := rfl
@[simp] theorem State.drop_time (s : State) (h : Nat) (d : Drop) : (s.drop h d).time = s.time := rfl
@[simp] theorem State.drop_mem (s : State) (h : Nat) (d : Drop) : (s.drop h d).mem = s.mem := rfl
@[simp] theorem State.drop_clusters (s : State) (h : Nat) (d : Drop) : (s.drop h d).clusters = s.clusters := rfl
@[simp] theorem State.drop_mesh (s : State) (h : Nat) (d : Drop) : (s.drop h d).mesh = s.mesh := rfl
@[simp] theorem State.drop_panel (s : State) (h : Nat) (d : Drop) : (s.drop h d).panel = s.panel := rfl
@[simp] theorem State.drop_images (s : State) (h : Nat) (d : Drop) : (s.drop h d).images = s.images := rfl
@[simp] theorem State.drop_parts (s : State) (h : Nat) (d : Drop) : (s.drop h d).parts = s.parts := rfl
@[simp] theorem State.drop_nextTask (s : State) (h : Nat) (d : Drop) : (s.drop h d).nextTask = s.nextTask := rfl
@[simp] theorem State.drop_red (s : State) (h : Nat) (d : Drop) : (s.drop h d).red = s.red := rfl
@[simp] theorem State.drop_stage (s : State) (h : Nat) (d : Drop) : (s.drop h d).stage = s.stage := rfl
@[simp] theorem State.drop_roots (s : State) (h : Nat) (d : Drop) : (s.drop h d).roots = s.roots := rfl
@[simp] theorem State.drop_power (s : State) (h : Nat) (d : Drop) : (s.drop h d).power = s.power := rfl
@[simp] theorem State.drop_stw (s : State) (h : Nat) (d : Drop) : (s.drop h d).stw = s.stw := rfl
@[simp] theorem State.drop_host (s : State) (h : Nat) (d : Drop) : (s.drop h d).host = s.host := rfl
@[simp] theorem State.drop_reset (s : State) (h : Nat) (d : Drop) : (s.drop h d).reset_ = s.reset_ := rfl
@[simp] theorem State.drop_fresh (s : State) (h : Nat) (d : Drop) : (s.drop h d).fresh = s.fresh := rfl

/-! ### transmit -/

@[simp] theorem State.transmit_pending (s : State) (l : Nat) (p : Packet) : (s.transmit l p).pending = s.pending := rfl
@[simp] theorem State.transmit_time (s : State) (l : Nat) (p : Packet) : (s.transmit l p).time = s.time := rfl
@[simp] theorem State.transmit_mem (s : State) (l : Nat) (p : Packet) : (s.transmit l p).mem = s.mem := rfl
@[simp] theorem State.transmit_clusters (s : State) (l : Nat) (p : Packet) : (s.transmit l p).clusters = s.clusters := rfl
@[simp] theorem State.transmit_mesh (s : State) (l : Nat) (p : Packet) : (s.transmit l p).mesh = s.mesh := rfl
@[simp] theorem State.transmit_panel (s : State) (l : Nat) (p : Packet) : (s.transmit l p).panel = s.panel := rfl
@[simp] theorem State.transmit_images (s : State) (l : Nat) (p : Packet) : (s.transmit l p).images = s.images := rfl
@[simp] theorem State.transmit_parts (s : State) (l : Nat) (p : Packet) : (s.transmit l p).parts = s.parts := rfl
@[simp] theorem State.transmit_nextTask (s : State) (l : Nat) (p : Packet) : (s.transmit l p).nextTask = s.nextTask := rfl
@[simp] theorem State.transmit_red (s : State) (l : Nat) (p : Packet) : (s.transmit l p).red = s.red := rfl
@[simp] theorem State.transmit_stage (s : State) (l : Nat) (p : Packet) : (s.transmit l p).stage = s.stage := rfl
@[simp] theorem State.transmit_roots (s : State) (l : Nat) (p : Packet) : (s.transmit l p).roots = s.roots := rfl
@[simp] theorem State.transmit_power (s : State) (l : Nat) (p : Packet) : (s.transmit l p).power = s.power := rfl
@[simp] theorem State.transmit_stw (s : State) (l : Nat) (p : Packet) : (s.transmit l p).stw = s.stw := rfl
@[simp] theorem State.transmit_host (s : State) (l : Nat) (p : Packet) : (s.transmit l p).host = s.host := rfl
@[simp] theorem State.transmit_reset (s : State) (l : Nat) (p : Packet) : (s.transmit l p).reset_ = s.reset_ := rfl
@[simp] theorem State.transmit_fresh (s : State) (l : Nat) (p : Packet) : (s.transmit l p).fresh = s.fresh := rfl

/-! ### countNotices -/

@[simp] theorem State.countNotices_pending (s : State) (n : Nat) : (s.countNotices n).pending = s.pending := rfl
@[simp] theorem State.countNotices_time (s : State) (n : Nat) : (s.countNotices n).time = s.time := rfl
@[simp] theorem State.countNotices_mem (s : State) (n : Nat) : (s.countNotices n).mem = s.mem := rfl
@[simp] theorem State.countNotices_clusters (s : State) (n : Nat) : (s.countNotices n).clusters = s.clusters := rfl
@[simp] theorem State.countNotices_mesh (s : State) (n : Nat) : (s.countNotices n).mesh = s.mesh := rfl
@[simp] theorem State.countNotices_panel (s : State) (n : Nat) : (s.countNotices n).panel = s.panel := rfl
@[simp] theorem State.countNotices_images (s : State) (n : Nat) : (s.countNotices n).images = s.images := rfl
@[simp] theorem State.countNotices_parts (s : State) (n : Nat) : (s.countNotices n).parts = s.parts := rfl
@[simp] theorem State.countNotices_nextTask (s : State) (n : Nat) : (s.countNotices n).nextTask = s.nextTask := rfl
@[simp] theorem State.countNotices_red (s : State) (n : Nat) : (s.countNotices n).red = s.red := rfl
@[simp] theorem State.countNotices_fabric (s : State) (n : Nat) : (s.countNotices n).fabric = s.fabric := rfl
@[simp] theorem State.countNotices_stage (s : State) (n : Nat) : (s.countNotices n).stage = s.stage := rfl
@[simp] theorem State.countNotices_roots (s : State) (n : Nat) : (s.countNotices n).roots = s.roots := rfl
@[simp] theorem State.countNotices_power (s : State) (n : Nat) : (s.countNotices n).power = s.power := rfl
@[simp] theorem State.countNotices_stw (s : State) (n : Nat) : (s.countNotices n).stw = s.stw := rfl
@[simp] theorem State.countNotices_host (s : State) (n : Nat) : (s.countNotices n).host = s.host := rfl
@[simp] theorem State.countNotices_fresh (s : State) (n : Nat) : (s.countNotices n).fresh = s.fresh := rfl

@[simp] theorem State.onMem_mem (s : State) (f : MemSt → MemSt) : (s.onMem f).mem = f s.mem := rfl
@[simp] theorem State.draw_fresh (s : State) : s.draw.fresh = s.fresh + 1 := rfl
@[simp] theorem State.msi_host_msi (s : State) (v : Nat) : (s.msi v).host.msi = s.host.msi ++ [v] := rfl
@[simp] theorem State.respond_host_resp (s : State) (r : HostResp) : (s.respond r).host.resp = r := rfl
@[simp] theorem State.localSignal_signals (s : State) (prog c k : Nat) (inc : BitVec 16) :
    (s.localSignal prog c k inc).fabric.signals = s.fabric.signals ++ [{ cluster := c, clasp := k, inc := inc, prog := prog }] := rfl
@[simp] theorem State.onLink_links (s : State) (l : Nat) (f : Link → Link) :
    (s.onLink l f).fabric.links = sset {} s.fabric.links l (f (s.link l)) := rfl
@[simp] theorem State.onHub_ctxs (s : State) (h : Nat) (f : HubSt → HubSt) : (s.onHub h f).red.ctxs = s.red.ctxs := rfl
@[simp] theorem State.onHub_bindings (s : State) (h : Nat) (f : HubSt → HubSt) : (s.onHub h f).red.bindings = s.red.bindings := rfl

/-! ### runTo -/

@[simp] theorem State.runTo_pending (s : State) (t : Nat) : (s.runTo t).pending = s.pending := by unfold State.runTo; split <;> rfl
@[simp] theorem State.runTo_mem (s : State) (t : Nat) : (s.runTo t).mem = s.mem := by unfold State.runTo; split <;> rfl
@[simp] theorem State.runTo_mesh (s : State) (t : Nat) : (s.runTo t).mesh = s.mesh := by unfold State.runTo; split <;> rfl
@[simp] theorem State.runTo_panel (s : State) (t : Nat) : (s.runTo t).panel = s.panel := by unfold State.runTo; split <;> rfl
@[simp] theorem State.runTo_images (s : State) (t : Nat) : (s.runTo t).images = s.images := by unfold State.runTo; split <;> rfl
@[simp] theorem State.runTo_parts (s : State) (t : Nat) : (s.runTo t).parts = s.parts := by unfold State.runTo; split <;> rfl
@[simp] theorem State.runTo_nextTask (s : State) (t : Nat) : (s.runTo t).nextTask = s.nextTask := by unfold State.runTo; split <;> rfl
@[simp] theorem State.runTo_red (s : State) (t : Nat) : (s.runTo t).red = s.red := by unfold State.runTo; split <;> rfl
@[simp] theorem State.runTo_fabric (s : State) (t : Nat) : (s.runTo t).fabric = s.fabric := by unfold State.runTo; split <;> rfl
@[simp] theorem State.runTo_stage (s : State) (t : Nat) : (s.runTo t).stage = s.stage := by unfold State.runTo; split <;> rfl
@[simp] theorem State.runTo_roots (s : State) (t : Nat) : (s.runTo t).roots = s.roots := by unfold State.runTo; split <;> rfl
@[simp] theorem State.runTo_power (s : State) (t : Nat) : (s.runTo t).power = s.power := by unfold State.runTo; split <;> rfl
@[simp] theorem State.runTo_stw (s : State) (t : Nat) : (s.runTo t).stw = s.stw := by unfold State.runTo; split <;> rfl
@[simp] theorem State.runTo_host (s : State) (t : Nat) : (s.runTo t).host = s.host := by unfold State.runTo; split <;> rfl
@[simp] theorem State.runTo_reset (s : State) (t : Nat) : (s.runTo t).reset_ = s.reset_ := by unfold State.runTo; split <;> rfl
@[simp] theorem State.runTo_fresh (s : State) (t : Nat) : (s.runTo t).fresh = s.fresh := by unfold State.runTo; split <;> rfl

end Sys2Proof.Machine
end

