-- ==== Sys2Proof/Laws/Ops.lean ====
section
/-!
SUPPORT. What the shared operations of Machine/Ops.lean do, said once: reading a part after changing it, the clock, events, halts.
-/
namespace Sys2Proof.Machine

/-! ## Reading a part after changing it -/

theorem State.cl_onCl_self {s : State} (c : Nat) (f : Cluster → Cluster) (h : Rising s.clusters) : (s.onCl c f).cl c = f (s.cl c) :=
  sget_sset_self ({} : Cluster) c _ h

@[simp] theorem State.cl_onCl_ne (s : State) {c d : Nat} (f : Cluster → Cluster) (h : d ≠ c) : (s.onCl c f).cl d = s.cl d :=
  sget_sset_ne ({} : Cluster) _ c _ h

theorem State.cl_setCl_self {s : State} (c : Nat) (k : Cluster) (h : Rising s.clusters) : (s.setCl c k).cl c = k :=
  sget_sset_self ({} : Cluster) c _ h

@[simp] theorem State.cl_setCl_ne (s : State) {c d : Nat} (k : Cluster) (h : d ≠ c) : (s.setCl c k).cl d = s.cl d :=
  sget_sset_ne ({} : Cluster) _ c _ h

theorem State.rising_onCl {s : State} (c : Nat) (f : Cluster → Cluster) (h : Rising s.clusters) : Rising (s.onCl c f).clusters :=
  rising_sset ({} : Cluster) c _ h

theorem State.rising_setCl {s : State} (c : Nat) (k : Cluster) (h : Rising s.clusters) : Rising (s.setCl c k).clusters :=
  rising_sset ({} : Cluster) c _ h

theorem State.prt_onPart_self {s : State} (p : Nat) (f : Part → Part) (h : Rising s.parts) : (s.onPart p f).prt p = f (s.prt p) :=
  sget_sset_self ({} : Part) p _ h

@[simp] theorem State.prt_onPart_ne (s : State) {p r : Nat} (f : Part → Part) (h : r ≠ p) : (s.onPart p f).prt r = s.prt r :=
  sget_sset_ne ({} : Part) _ p _ h

theorem State.link_onLink_self {s : State} (l : Nat) (f : Link → Link) (h : Rising s.fabric.links) : (s.onLink l f).link l = f (s.link l) :=
  sget_sset_self ({} : Link) l _ h

@[simp] theorem State.link_onLink_ne (s : State) {l m : Nat} (f : Link → Link) (h : m ≠ l) : (s.onLink l f).link m = s.link m :=
  sget_sset_ne ({} : Link) _ l _ h

theorem State.edge_onEdge_self {s : State} (e : Nat) (f : Edge → Edge) (h : Rising s.mesh.edges) : (s.onEdge e f).edge e = f (s.edge e) :=
  sget_sset_self ({} : Edge) e _ h

@[simp] theorem State.edge_onEdge_ne (s : State) {e d : Nat} (f : Edge → Edge) (h : d ≠ e) : (s.onEdge e f).edge d = s.edge d :=
  sget_sset_ne ({} : Edge) _ e _ h

theorem State.hub_onHub_self {s : State} (b : Nat) (f : HubSt → HubSt) (h : Rising s.red.hubs) : (s.onHub b f).hub b = f (s.hub b) :=
  sget_sset_self ({} : HubSt) b _ h

@[simp] theorem State.hub_onHub_ne (s : State) {b d : Nat} (f : HubSt → HubSt) (h : d ≠ b) : (s.onHub b f).hub d = s.hub d :=
  sget_sset_ne ({} : HubSt) _ b _ h

theorem Cluster.clasp_setClasp_self {k : Cluster} (i : Nat) (v : W32) (h : Rising k.clasps) : (k.setClasp i v).clasp i = v :=
  sget_sset_self 0 i v h

@[simp] theorem Cluster.clasp_setClasp_ne (k : Cluster) {i j : Nat} (v : W32) (h : j ≠ i) : (k.setClasp i v).clasp j = k.clasp j :=
  sget_sset_ne 0 _ i v h

/-! ## The clock -/

theorem State.runTo_of_le {s : State} {t : Nat} (h : t ≤ s.time.ticks) : s.runTo t = s := by
  simp [State.runTo, h]

/-- The clock never goes back, and stands at `t` at least. -/
theorem State.runTo_ticks (s : State) (t : Nat) : (s.runTo t).time.ticks = max s.time.ticks t := by
  unfold State.runTo
  split
  · omega
  · show s.time.ticks + (t - s.time.ticks) = _
    omega

theorem State.rising_runTo {s : State} (t : Nat) (h : Rising s.clusters) : Rising (s.runTo t).clusters := by
  unfold State.runTo
  split
  · exact h
  · refine List.pairwise_map.mpr (h.imp ?_)
    intro a b hab
    dsimp only
    split <;> split <;> exact hab

/-- The clock changes the time and the engines' counts of busy cycles, and nothing else. -/
theorem State.runTo_shape (s : State) (t : Nat) : ∃ x c, s.runTo t = { s with time := x, clusters := c } := by
  unfold State.runTo
  split
  · exact ⟨s.time, s.clusters, rfl⟩
  · exact ⟨_, _, rfl⟩

theorem State.runToNow_shape (s : State) (t : Nat) : ∃ x c, s.runToNow t = { s with time := x, clusters := c } := by
  unfold State.runToNow
  obtain ⟨x, c, h⟩ := s.runTo_shape (s.clockAt t)
  simp only [h]
  obtain ⟨y, d, h'⟩ := State.runTo_shape { s with time := x, clusters := c } (State.clockAt { s with time := x, clusters := c } t)
  exact ⟨y, d, h'⟩

/-- Without slewing, TIME_NOW goes on with the clock. -/
theorem TimeSt.pass_now {t : TimeSt} (d : Nat) (h : t.slew = 0) : (t.pass d).now = t.now + d ∧ (t.pass d).slew = 0 := by
  simp [TimeSt.pass, h]
  omega

/-! ## Uncorrectable events -/

/-- A step that poisoned nothing has nothing to handle. -/
theorem State.settle_of_nil {s : State} (h : s.mem.newPoison = []) : s.settle = s := by
  obtain ⟨_, _, m⟩ := s
  cases m
  simp only at h
  subst h
  rfl

/-! ## Halts -/

theorem Cluster.halted_of_halt {k : Cluster} (code : BitVec 16) (a : Addr) (f : Flags) (t : Nat) (h : k.halt.isSome = true) :
    k.halted code a f t = k := by simp [Cluster.halted, h]

end Sys2Proof.Machine
end

