-- ==== Sys2Proof/Laws/Clasp.lean ====
section
/-!
SUPPORT. Clasps, said once: adding to a clasp, and running the waits on it.
-/
namespace Sys2Proof.Machine

/-- Writing the same value twice is writing it once. -/
theorem sset_sset {α} [DecidableEq α] (d : α) : ∀ {m : Sparse α} (k : Nat) (v : α), Rising m → sset d (sset d m k v) k v = sset d m k v
  | [], k, v, _ => by
    by_cases hv : v = d <;> simp [sset, hv]
  | (i, x) :: t, k, v, h => by
    have ht : Rising t := (List.pairwise_cons.mp h).2
    have hi := (List.pairwise_cons.mp h).1
    by_cases hk : k < i
    · by_cases hv : v = d <;> simp [sset, hk, hv]
    · by_cases hki : k = i
      · subst hki
        by_cases hv : v = d
        · simp [sset, hv]
          cases t with
          | nil => simp [sset]
          | cons e r => have := hi e (by simp); simp [sset, this]
        · simp [sset, hv]
      · simp [sset, hk, hki, sset_sset d k v ht]

/-- Writing what a canonical table already reads changes nothing. -/
theorem sset_sget {α} [DecidableEq α] (d : α) : ∀ {m : Sparse α} (k : Nat), sok d m = true → sset d m k (sget d m k) = m
  | [], k, _ => by simp [sset, sget]
  | (i, x) :: t, k, h => by
    have h' := (sok_iff d).mp h
    have ht : sok d t = true := (sok_iff d).mpr ⟨fun e he => h'.1 e (by simp [he]), (List.pairwise_cons.mp h'.2).2⟩
    have hx : x ≠ d := h'.1 (i, x) (by simp)
    have hi := (List.pairwise_cons.mp h'.2).1
    by_cases hk : k < i
    · have hik : i ≠ k := by omega
      have : sget d t k = d := sget_of_lt d (fun e he => Nat.lt_trans hk (hi e he))
      simp [sset, sget, hk, hik, this]
    · by_cases hki : k = i
      · subst hki; simp [sset, sget, hx]
      · simp [sset, sget, hk, hki, Ne.symm hki, sset_sget d k ht]

theorem setClasp_setClasp (k : Cluster) (i : Nat) (v : W32) (h : Rising k.clasps) : (k.setClasp i v).setClasp i v = k.setClasp i v := by
  simp only [Cluster.setClasp, sset_sset 0 i v h]

/-- Where no waiter waits on the clasp, evaluating it only sets its value (R199). -/
theorem evaluate_none (k : Cluster) (cyc i : Nat) (v : W32) (hr : Rising k.clasps) (h : ∀ w ∈ k.waiters, w.clasp.toNat ≠ i) :
    (k.setClasp i v).evaluate cyc i = k.setClasp i v := by
  have e1 : k.waiters.filter (fun w => w.clasp.toNat == i) = [] := by
    rw [List.filter_eq_nil_iff]; intro w hw; simpa using h w hw
  have e2 : k.waiters.filter (fun w => w.clasp.toNat != i) = k.waiters := by
    rw [List.filter_eq_self]; intro w hw; simpa using h w hw
  have hw : (k.setClasp i v).waiters = k.waiters := rfl
  have hc : (k.setClasp i v).clasp i = v := Cluster.clasp_setClasp_self i v hr
  unfold Cluster.evaluate
  simp only [hw, e1, e2, hc, List.filter_nil, List.length_nil, runTakes, List.append_nil, List.foldl_nil, setClasp_setClasp k i v hr]
  rfl

/-- Where this cycle has evaluated nothing on the clasp, there is nothing to take back (R199). -/
theorem reopen_none {k : Cluster} {cyc i : Nat} (h : ∀ e, k.lastEval = some e → e.cycle = cyc → e.clasp ≠ i) : k.reopen cyc i = k := by
  unfold Cluster.reopen
  split
  · rfl
  · next e he => exact if_neg (fun x => h e he x.1 x.2.1)

/-- An add in range to a clasp on which nothing waits, of a cluster `k` that is not parked and whose queue heads wait as R194 has it
(R198, R199). -/
theorem claspAdd_plain (s : State) (c i n : Nat) (k : Cluster) (v : W32) (hk : (s.cl c).arm s.cycle = k)
   (hl : ∀ e, k.lastEval = some e → e.cycle = s.cycle → e.clasp ≠ i) (hv : v = k.clasp i + BitVec.ofNat 32 n) (hr : Rising k.clasps)
   (hp : k.parked = false) (hw : ∀ w ∈ k.waiters, w.clasp.toNat ≠ i) (hf : v.toNat < 2 ^ 31) :
   ∃ e, s.claspAdd c i n = (s.noteRaise c i (k.clasp i).toNat v.toNat).setCl c { (k.setClasp i v) with lastEval := some e } := by
  have h : s.claspAdd c i n = (s.noteRaise c i (k.clasp i).toNat v.toNat).setCl c
      ((k.setClasp i v).evaluateAdd (s.noteRaise c i (k.clasp i).toNat v.toNat).cycle i) := by
    unfold State.claspAdd
    simp only [hk, reopen_none hl, claspSum, ← hv]
    rw [if_pos (by simpa [claspFits] using hf)]
    rw [if_neg (by simp [Cluster.setClasp, hp])]
  unfold Cluster.evaluateAdd at h
  rw [evaluate_none _ _ _ _ hr hw] at h
  exact ⟨_, h⟩

/-- What noting a raised step clasp leaves alone (R219). -/
theorem noteRaise_eqs (s : State) (c i o n : Nat) : (s.noteRaise c i o n).clusters = s.clusters ∧ (s.noteRaise c i o n).mem = s.mem ∧ (s.noteRaise c i o n).time = s.time ∧ (s.noteRaise c i o n).red = s.red ∧ (s.noteRaise c i o n).host = s.host ∧ (s.noteRaise c i o n).stw = s.stw ∧ (s.noteRaise c i o n).fabric = s.fabric ∧ (s.noteRaise c i o n).panel = s.panel ∧ (s.noteRaise c i o n).reset_ = s.reset_ := by
  unfold State.noteRaise
  simp only []
  split <;> exact ⟨rfl, rfl, rfl, rfl, rfl, rfl, rfl, rfl, rfl⟩

/-- Below 2^31 the comparison of R198 is the order of the numbers. -/
theorem reached_iff (v t : W32) (hv : v.toNat < 2 ^ 31) (ht : t.toNat < 2 ^ 31) : reached v t = decide (t.toNat ≤ v.toNat) := by
  unfold reached
  rw [BitVec.toNat_sub]
  congr 1
  apply propext
  constructor <;> intro h <;> omega

/-- Two takes on one clasp run in the order of their stamps, each that its sum allows (R199). -/
theorem runTakes2 (v : W32) (w1 w2 : Waiter) (ws : List Waiter) (hws : ws = [w1, w2] ∨ ws = [w2, w1]) (l12 : stampLt w1.stamp w2.stamp = true)
   (l21 : stampLt w2.stamp w1.stamp = false) (hv : v.toNat < 2 ^ 31) (b1 : w1.thr.toNat < 2 ^ 31) (b2 : w2.thr.toNat < 2 ^ 31) :
   runTakes ws.length v ws =
     if w1.thr.toNat ≤ v.toNat then
       if w1.thr.toNat + w2.thr.toNat ≤ v.toNat then (v - w1.thr - w2.thr, [w1, w2], []) else (v - w1.thr, [w1], [w2])
     else if w2.thr.toNat ≤ v.toNat then (v - w2.thr, [w2], [w1]) else (v, [], [w1, w2]) := by
  have ho : oldest ws = some (w1, [w2]) := by
    rcases hws with h | h <;> subst h <;> simp [oldest, l12, l21]
  have hl : ws.length = 2 := by rcases hws with h | h <;> subst h <;> rfl
  rw [hl]
  simp only [runTakes, ho, oldest]
  rw [reached_iff v _ hv b1]
  by_cases h1 : w1.thr.toNat ≤ v.toNat
  · have hs : (v - w1.thr).toNat = v.toNat - w1.thr.toNat := by rw [BitVec.toNat_sub]; omega
    simp only [h1, decide_true, if_true]
    rw [reached_iff _ _ (by omega) b2, hs]
    by_cases h2 : w1.thr.toNat + w2.thr.toNat ≤ v.toNat
    · have : w2.thr.toNat ≤ v.toNat - w1.thr.toNat := by omega
      simp [h2, this]
    · have : ¬ w2.thr.toNat ≤ v.toNat - w1.thr.toNat := by omega
      simp [h2, this]
  · simp only [h1, decide_false, if_false, Bool.false_eq_true]
    rw [reached_iff v _ hv b2]
    by_cases h2 : w2.thr.toNat ≤ v.toNat <;> simp [h2]

/-- A signal that the function picks, and that no earlier one of its stream holds back, lets one signal go (R207). -/
theorem dropSignal_some {f : Signal → Bool} {x : Signal} {r : List Signal} (hf : f x = true) : ∀ {l : List Signal} (seen : List Stream),
    (∀ st ∈ x.stream, st ∉ seen ∧ ∀ y ∈ l, y.stream ≠ some st) →
    ∃ k, dropSignal f seen (l ++ x :: r) = some k ∧ k.length + 1 = (l ++ x :: r).length
  | [], seen, h => by
    refine ⟨r, ?_, rfl⟩
    have : x.stream.any seen.contains = false := by
      cases hx : x.stream with
      | none => rfl
      | some st => simpa using (h st (by simp [hx])).1
    simp [dropSignal, hf, this]
  | y :: t, seen, h => by
    by_cases hy : (f y && !y.stream.any seen.contains) = true
    · exact ⟨t ++ x :: r, by simp only [List.cons_append, dropSignal, hy, if_true], by simp⟩
    · obtain ⟨k, hk, hl⟩ := dropSignal_some (x := x) (r := r) hf (l := t) (seen ++ y.stream.toList) (fun st hst => by
        obtain ⟨h1, h2⟩ := h st hst
        refine ⟨?_, fun z hz => h2 z (by simp [hz])⟩
        have := h2 y (by simp)
        rw [List.mem_append, Option.mem_toList]
        exact fun k => k.elim h1 (fun k => this k))
      exact ⟨y :: k, by simp only [List.cons_append, dropSignal, hy, hk, Option.map_some]; rfl, by simp at hl ⊢; omega⟩

/-- CLASP_ADD to a mapped cluster outside reset is an add to its clasp (R198, R202), and takes the signal it is off the way. -/
theorem claspAddStep_eq (c k : Nat) (n : BitVec 16) (s : State) (hm : s.slotMapped (clusterSlot c) = true) (hi : s.inReset (clusterQuad c) = false)
   (hs : Arrives s c k n) : ∃ s' : State, claspAddStep c k n s = s'.claspAdd c k n.toNat ∧
     s' = { s with fabric := { s.fabric with signals := s'.fabric.signals } } ∧
     s'.fabric.signals.length + (if s.inFlight c k n = [] then 0 else 1) = s.fabric.signals.length := by
  have hw : (s.slotMapped (clusterSlot c) && !s.inReset (clusterQuad c)) = true := by rw [hm, hi]; rfl
  generalize hg : (fun (x : Signal) => x.cluster == c && x.clasp == k && x.inc == n && x.prog == (s.cl c).prog) = g
  have hstep : ∀ rest, dropSignal g [] s.fabric.signals = rest → (rest.isNone && !(s.inFlight c k n).isEmpty) = false →
      claspAddStep c k n s = ({ s with fabric := { s.fabric with signals := rest.getD s.fabric.signals } } : State).claspAdd c k n.toNat := by
    intro rest hr hb
    unfold claspAddStep
    simp only [hg, hr]
    rw [if_neg (by simpa using hb), whenever]
    exact if_pos hw
  by_cases he : s.inFlight c k n = []
  · have hn : dropSignal g [] s.fabric.signals = none := by
      have h0 : ∀ x ∈ s.fabric.signals, g x = false := by
        intro x hx
        have := Bool.eq_false_iff.mpr ((List.filter_eq_nil_iff.mp he) x hx)
        subst hg
        simp only [this, Bool.false_and]
      have : ∀ (l : List Signal) (seen : List Stream), (∀ x ∈ l, g x = false) → dropSignal g seen l = none := by
        intro l
        induction l with
        | nil => intros; rfl
        | cons y t ih => intro seen h; simp [dropSignal, h y (by simp), ih _ (fun x hx => h x (by simp [hx]))]
      exact this _ _ h0
    exact ⟨_, hstep none hn (by simp [he]), rfl, by simp [he]⟩
  · rcases hs with hs | ⟨l, x, r, hl, hx, hp, hf⟩
    · exact absurd hs he
    · obtain ⟨q, hq, hlen⟩ := dropSignal_some (f := g) (x := x) (r := r) (by
        subst hg
        have := (List.mem_filter.mp hx).2
        simp only [this, hp, beq_self_eq_true, Bool.and_self]) (l := l) [] (fun st hst => ⟨by simp, fun y hy h => by
          rcases hf with hf | hf
          · simp [hf] at hst
          · exact hf y hy (by rw [h]; exact (Option.mem_def.mp hst).symm)⟩)
      rw [← hl] at hq hlen
      exact ⟨_, hstep (some q) hq rfl, rfl, by simp [he, hlen]⟩

/-- With empty queues nothing is armed (R194). -/
theorem arm_empty (k : Cluster) (n : Nat) (h1 : k.mxq = []) (h2 : k.vxq = []) (h3 : k.cxq = []) : k.arm n = k := by
  unfold Cluster.arm Cluster.armHead
  simp only [h1, h2, h3]

end Sys2Proof.Machine
end

