-- ==== Sys2Proof/Laws/Engines.lean ====
section
/-!
SUPPORT. The engines, said once: a vector or copy command at the head of its queue, merge entries of an owner, and frames.
-/
namespace Sys2Proof.Machine

/-- The frame of a Curator event lets the clock and its cluster change. -/
theorem curFrame_runTo (s : State) (x c : Nat) (f : Cluster → Cluster) : s.curFrame ((s.runTo x).onCl c f) = (s.runTo x).onCl c f := by
  unfold State.runTo
  split <;> rfl

theorem settle_onCl {s : State} (c : Nat) (f : Cluster → Cluster) (h : s.mem.newPoison = []) : (s.onCl c f).settle = s.onCl c f :=
  State.settle_of_nil h

theorem settle_onPart {s : State} (c : Nat) (f : Part → Part) (h : s.mem.newPoison = []) : (s.onPart c f).settle = s.onPart c f :=
  State.settle_of_nil h

/-- An owner with no open entry commits nothing (R280). -/
theorem commitOwner_none {m : MemSt} (x : MemX) (o : Nat) (h : ∀ e ∈ m.merge, o ∉ e.owners) : m.commitOwner x o = m := by
  unfold MemSt.commitOwner
  have : m.merge.filter (fun e => e.owners.contains o) = [] := by
    rw [List.filter_eq_nil_iff]; intro e he; simpa using h e he
  rw [this]; rfl

/-- An owner with no open entry and nothing lost is settled at once (R280). -/
theorem settleOwner_none {m : MemSt} (x : MemX) (o : Nat) (h : ∀ e ∈ m.merge, o ∉ e.owners) (hl : o ∉ m.lost) : m.settleOwner x o = (m, true) := by
  unfold MemSt.settleOwner
  simp only [commitOwner_none x o h]
  have h1 : m.lost.filter (fun p => p != o) = m.lost := by
    rw [List.filter_eq_self]; intro e he; simp only [bne_iff_ne]; rintro rfl; exact hl he
  have h2 : m.lost.contains o = false := by simpa using hl
  rw [h1, h2]; rfl

/-- The frame of an engine command lets the clock and memory change. -/
theorem frame_runTo {s u : State} (w : Nat) (m : MemSt) (h : u = s.runTo w) : s.coreFrame { u with mem := m } = { u with mem := m } := by
  subst h; unfold State.runTo; split <;> rfl

/-- Everything a vector command does once its descriptors are sound (R231, R234, R237). -/
theorem vecStep_next {c op : Nat} {tds : Block → List Nat} {plan : State → Block → VPlan} {s u : State} {q : QCmd}
    (hr : Rising s.clusters) (hh : (s.cl c).head .vx op = some q)
    (hu : u = (s.onMem (fun m => m.touchAll s.mx ((tds q.cmd).map (tdBlock c)))).onCl c (fun k => k.pop .vx))
    (hs : u.mem.sound ((tds q.cmd).map (tdBlock c)) = true) (h0 : u.mem.newPoison = []) 
    (hp : (plan u q.cmd).check = stOk → ((plan u q.cmd).work u.mem).1.newPoison = []) :
    ∃ t, s.coreFrame (vecStep c op tds plan s).settle = t ∧ t = { s with mem := t.mem, clusters := t.clusters } ∧
      (∀ e : Nat, e ≠ c → t.cl e = s.cl e) ∧
      ((plan u q.cmd).check = stOk → t.mem = ((plan u q.cmd).work u.mem).1 ∧ t.cl c = { (s.cl c).pop .vx with
        vxDone := some { q := q, status := ((plan u q.cmd).work u.mem).2.2, flags := ((plan u q.cmd).work u.mem).2.1
                         due := (s.cycle + (plan u q.cmd).cost) * 10 } }) ∧
      ((plan u q.cmd).check ≠ stOk → t.mem = u.mem ∧ t.cl c = { (s.cl c).pop .vx with
        vxDone := some { q := q, status := (plan u q.cmd).check, flags := 0, due := (s.cycle + 24) * 10 } }) := by
  unfold vecStep
  simp only [hh]
  have e1 : (s.onMem (fun m => m.touchAll s.mx ((tds q.cmd).map (tdBlock c)))).onCl c (fun k => k.pop .vx) = u := hu.symm
  simp only [e1, hs, if_true]
  generalize hP : plan u q.cmd = P at hp ⊢
  have cu : u.cl c = (s.cl c).pop .vx := by
    rw [hu, State.cl_onCl_self _ _ (by exact hr)]; rfl
  have ru : Rising u.clusters := by rw [hu]; exact State.rising_onCl _ _ hr
  have nu : ∀ e : Nat, e ≠ c → u.cl e = s.cl e := by
    intro e he; rw [hu, State.cl_onCl_ne _ _ he]; rfl
  have fu : u = { s with mem := u.mem, clusters := u.clusters } := by rw [hu]; rfl
  have cy : u.cycle = s.cycle := by rw [hu]; rfl
  by_cases hc : P.check = stOk
  · simp only [hc, if_true]
    have h1 := hp hc
    rw [State.settle_of_nil (by simpa using h1)]
    refine ⟨_, rfl, ?_, ?_, ?_, ?_⟩
    · rw [fu]; rfl
    · intro e he
      refine Eq.trans ?_ (nu e he)
      exact sget_sset_ne ({} : Cluster) u.clusters c _ he
    · intro _
      refine ⟨rfl, ?_⟩
      have := State.cl_onCl_self (s := { u with mem := (P.work u.mem).1 }) c (fun k => { k with vxDone := some { q := q, status := (P.work u.mem).2.2, flags := (P.work u.mem).2.1, due := (u.cycle + P.cost) * cycT } }) ru
      refine Eq.trans this ?_
      have : ({ u with mem := (P.work u.mem).1 } : State).cl c = u.cl c := rfl
      rw [this, cu, cy]; rfl
    · intro h; exact absurd rfl h
  · have hc' : ¬ P.check = stOk := hc
    simp only [if_neg hc']
    rw [State.settle_of_nil (by simpa using h0)]
    refine ⟨_, rfl, ?_, ?_, ?_, ?_⟩
    · rw [fu]; rfl
    · intro e he
      refine Eq.trans ?_ (nu e he)
      exact sget_sset_ne ({} : Cluster) u.clusters c _ he
    · intro h; exact absurd h hc'
    · intro _
      refine ⟨rfl, ?_⟩
      have := State.cl_onCl_self (s := { u with mem := u.mem }) c (fun k => { k with vxDone := some { q := q, status := P.check, flags := 0, due := (u.cycle + 24) * cycT } }) ru
      refine Eq.trans this ?_
      have : ({ u with mem := u.mem } : State).cl c = u.cl c := rfl
      rw [this, cu, cy]; rfl

/-- Everything a copy command does once its descriptors are sound (R231, R239, R243). -/
theorem copyStep_next {c op : Nat} {tds : Block → List Nat} {plan : State → Block → CPlan} {s u : State} {q : QCmd}
    (hr : Rising s.clusters) (hh : (s.cl c).head .cx op = some q)
    (hu : u = (s.onMem (fun m => m.touchAll s.mx ((tds q.cmd).map (tdBlock c)))).onCl c (fun k => k.pop .cx))
    (hs : u.mem.sound ((tds q.cmd).map (tdBlock c)) = true) (h0 : u.mem.newPoison = []) 
    (hp : (plan u q.cmd).check = stOk → ((plan u q.cmd).work u.mem).1.newPoison = []) :
    ∃ t, s.coreFrame (copyStep c op tds plan s).settle = t ∧ t = { s with mem := t.mem, clusters := t.clusters } ∧
      (∀ e : Nat, e ≠ c → t.cl e = s.cl e) ∧
      ((plan u q.cmd).check = stOk → t.mem = ((plan u q.cmd).work u.mem).1 ∧ t.cl c = { (s.cl c).pop .cx with
        cxDone := some { q := q, status := ((plan u q.cmd).work u.mem).2.2, flags := ((plan u q.cmd).work u.mem).2.1
                         due := (s.cycle + (plan u q.cmd).cost) * 10 } }) ∧
      ((plan u q.cmd).check ≠ stOk → t.mem = u.mem ∧ t.cl c = { (s.cl c).pop .cx with
        cxDone := some { q := q, status := (plan u q.cmd).check, flags := 0, due := (s.cycle + 32) * 10 } }) := by
  unfold copyStep
  simp only [hh]
  have e1 : (s.onMem (fun m => m.touchAll s.mx ((tds q.cmd).map (tdBlock c)))).onCl c (fun k => k.pop .cx) = u := hu.symm
  simp only [e1, hs, if_true]
  generalize hP : plan u q.cmd = P at hp ⊢
  have cu : u.cl c = (s.cl c).pop .cx := by
    rw [hu, State.cl_onCl_self _ _ (by exact hr)]; rfl
  have ru : Rising u.clusters := by rw [hu]; exact State.rising_onCl _ _ hr
  have nu : ∀ e : Nat, e ≠ c → u.cl e = s.cl e := by
    intro e he; rw [hu, State.cl_onCl_ne _ _ he]; rfl
  have fu : u = { s with mem := u.mem, clusters := u.clusters } := by rw [hu]; rfl
  have cy : u.cycle = s.cycle := by rw [hu]; rfl
  by_cases hc : P.check = stOk
  · simp only [hc, if_true]
    have h1 := hp hc
    rw [State.settle_of_nil (by simpa using h1)]
    refine ⟨_, rfl, ?_, ?_, ?_, ?_⟩
    · rw [fu]; rfl
    · intro e he
      refine Eq.trans ?_ (nu e he)
      exact sget_sset_ne ({} : Cluster) u.clusters c _ he
    · intro _
      refine ⟨rfl, ?_⟩
      have := State.cl_onCl_self (s := { u with mem := (P.work u.mem).1 }) c (fun k => { k with cxDone := some { q := q, status := (P.work u.mem).2.2, flags := (P.work u.mem).2.1, due := (u.cycle + P.cost) * cycT } }) ru
      refine Eq.trans this ?_
      have : ({ u with mem := (P.work u.mem).1 } : State).cl c = u.cl c := rfl
      rw [this, cu, cy]; rfl
    · intro h; exact absurd rfl h
  · have hc' : ¬ P.check = stOk := hc
    simp only [if_neg hc']
    rw [State.settle_of_nil (by simpa using h0)]
    refine ⟨_, rfl, ?_, ?_, ?_, ?_⟩
    · rw [fu]; rfl
    · intro e he
      refine Eq.trans ?_ (nu e he)
      exact sget_sset_ne ({} : Cluster) u.clusters c _ he
    · intro h; exact absurd h hc'
    · intro _
      refine ⟨rfl, ?_⟩
      have := State.cl_onCl_self (s := { u with mem := u.mem }) c (fun k => { k with cxDone := some { q := q, status := P.check, flags := 0, due := (u.cycle + 32) * cycT } }) ru
      refine Eq.trans this ?_
      have : ({ u with mem := u.mem } : State).cl c = u.cl c := rfl
      rw [this, cu, cy]; rfl

end Sys2Proof.Machine
end

