-- ==== Sys2Proof/Laws/Gate.lean ====
section
/-!
SUPPORT. How an access to a page register is met, said once: a page that serves takes it, a restarting processor's page holds it, a
failed processor's page answers an error.
-/
namespace Sys2Proof.Machine

/-- A page that serves takes the access at once (R440). -/
theorem gated_serves {s : State} {p : Proc} {r : HostReq} (f : State → State) (h : PageServes s p r.addr) (ha : pageAccessOk r = true) :
    s.gated (some p) r f = f s := by
  obtain ⟨h1, h2, h3, h4, h5⟩ := h
  unfold State.gated
  simp only [h1, h2, ha, h3]
  cases hr : (s.stw.romOnly && decide (r.addr < pkgPage)) <;> simp [h4, h5]

theorem pageAccessOk_write8 {a : Addr} (v : W64) (h : a % 8 = 0) : pageAccessOk (pageWrite a 8 v) = true := by
  simp only [pageAccessOk, pageWrite, h]; rfl

theorem pageAccessOk_write4 {a : Addr} (v : W64) (h : a % 4 = 0) : pageAccessOk (pageWrite a 4 v) = true := by
  simp only [pageAccessOk, pageWrite, h]; rfl

/-- The registers of the package page are mapped once the host and the firmware have agreed, and in no partition's reset (R448). -/
theorem pageMapped_pkg {s : State} {a : Addr} (h : s.agreedNow = true) (h1 : decide (a < partPage 0) = true) :
    s.pageMapped a = true ∧ s.pageInReset a = false := by
  have h2 : a < partPage 0 := of_decide_eq_true h1
  constructor
  · unfold State.pageMapped
    split
    · rfl
    · simp only [h]
  · unfold State.pageInReset
    rw [decide_eq_false (Nat.not_le.mpr h2)]; rfl

/-- A restarting processor answers when it runs again (R435). -/
theorem gated_held {s : State} {p : Proc} {r : HostReq} (f : State → State) (h0 : s.dark = false) (h1 : s.pageMapped r.addr = true)
    (h2 : pageAccessOk r = true) (h3 : s.pageInReset r.addr = false) (hr : (s.stw.romOnly && decide (r.addr < pkgPage)) = false)
    (h4 : s.procSt p = .restarting) : s.gated (some p) r f = s.holdAccess r := by
  unfold State.gated
  simp [h0, h1, h2, h3, h4, hr]

/-- A failed processor's page answers an error (R436). -/
theorem gated_failed {s : State} {p : Proc} {r : HostReq} (f : State → State) (h0 : s.dark = false) (h1 : s.pageMapped r.addr = true)
    (h2 : pageAccessOk r = true) (h3 : s.pageInReset r.addr = false) (hr : (s.stw.romOnly && decide (r.addr < pkgPage)) = false)
    (h4 : s.procSt p = .failed) : s.gated (some p) r f = (s.hostError 5 r.addr).respond .error := by
  unfold State.gated
  simp [h0, h1, h2, h3, h4, hr]

/-- The write of a register of a page that serves: done, then acknowledged. -/
theorem writeRow_serves {s : State} {p : Proc} {a : Addr} {size : Nat} {v : W64} (f : State → State) (h : PageServes s p a)
    (ha : pageAccessOk (pageWrite a size v) = true) : s.writeRow (some p) a size v f = (f s).respond (.done 0) :=
  gated_serves _ h ha

end Sys2Proof.Machine
end

