-- ==== Sys2Proof/Laws/Memory.lean ====
section
/-!
SUPPORT. Every operation on the memories keeps their canonical form.
-/
namespace Sys2Proof.Machine

theorem MemSt.wf_iff (m : MemSt) : m.wf = true ↔ sok 0 m.bytes = true ∧ sok 0 m.codes = true := by
  simp [MemSt.wf]

/-- Two memories with the same bytes and codes are in the form together. -/
theorem MemSt.wf_congr {m n : MemSt} (hb : n.bytes = m.bytes) (hc : n.codes = m.codes) (h : m.wf = true) : n.wf = true := by
  simpa [MemSt.wf, hb, hc] using h

theorem wf_reset : State.reset.mem.wf = true := by decide

theorem setBlockBytes_sok {bytes : List Host.Cell} (b d : Nat) (h : sok 0 bytes = true) : sok 0 (setBlockBytes bytes b d) = true :=
  sok_foldl_sset (β := Nat) 0 (fun i => 64 * b + i) (fun i => BitVec.ofNat 8 (nfld d (8 * i) 8)) (List.range 64) h

@[simp] theorem MemSt.onProt_bytes (m : MemSt) (st : Nat) (f : Prot → Prot) : (m.onProt st f).bytes = m.bytes := rfl
@[simp] theorem MemSt.onProt_codes (m : MemSt) (st : Nat) (f : Prot → Prot) : (m.onProt st f).codes = m.codes := rfl

theorem MemSt.wf_onProt {m : MemSt} (st : Nat) (f : Prot → Prot) (h : m.wf = true) : (m.onProt st f).wf = true := h

/-- Replacing one block whole keeps the form. -/
theorem MemSt.wf_block {m : MemSt} (b d : Nat) (c : BitVec 80) (h : m.wf = true) :
    ({ m with bytes := setBlockBytes m.bytes b d, codes := sset 0 m.codes b c } : MemSt).wf = true := by
  rw [MemSt.wf_iff] at h ⊢
  have hb := setBlockBytes_sok b d h.1
  have hc := sok_sset 0 b c h.2
  constructor
  · dsimp only
    exact hb
  · dsimp only
    exact hc

theorem MemSt.wf_writeWhole {m : MemSt} (x : MemX) (b d : Nat) (h : m.wf = true) : (m.writeWhole x b d).wf = true := by
  rw [MemSt.wf_iff] at h ⊢
  have hb := setBlockBytes_sok b d h.1
  have hc := sok_sset 0 b (codeFor d) h.2
  by_cases hp : m.poisoned b = true
  · simp only [MemSt.writeWhole, hp, if_true, MemSt.onProt_bytes, MemSt.onProt_codes]
    exact ⟨hb, hc⟩
  · simp only [MemSt.writeWhole, hp, if_false, Bool.false_eq_true]
    exact ⟨hb, hc⟩

theorem MemSt.wf_reveal {m : MemSt} (b : Nat) (h : m.wf = true) : (m.reveal b).wf = true := by
  unfold MemSt.reveal
  split
  · exact h
  · simp only []
    split
    · exact h
    · generalize leNat _ = d
      generalize codeFor d = c
      generalize hn : ({ m with vague := cutVague b m.vague } : MemSt) = n
      have hw : n.wf = true := by rw [← hn]; exact MemSt.wf_congr rfl rfl h
      have hb := MemSt.wf_block b d c hw
      rw [← hn] at hb
      exact hb

theorem MemSt.wf_poison {m : MemSt} (x : MemX) (src b : Nat) (h : m.wf = true) : (m.poison x src b).wf = true := by
  rw [MemSt.wf_iff] at h ⊢
  unfold MemSt.poison
  generalize (127 * 2 ^ 73 : Nat) = k
  exact ⟨h.1, sok_sset 0 b _ h.2⟩

theorem MemSt.wf_readBlock {m : MemSt} (x : MemX) (src b : Nat) (h : m.wf = true) : (m.readBlock x src b).wf = true := by
  have hr := MemSt.wf_reveal b h
  unfold MemSt.readBlock
  simp only []
  split
  · exact hr
  · exact hr
  · exact MemSt.wf_poison x src b hr
  · next d _ =>
    generalize codeFor d = c
    exact MemSt.wf_block (m := (m.reveal b).onProt _ _) b d c hr

theorem MemSt.wf_commitEntry {m : MemSt} (x : MemX) (e : MergeEntry) (h : m.wf = true) : (m.commitEntry x e).wf = true := by
  unfold MemSt.commitEntry
  simp only []
  have hr := MemSt.wf_readBlock x 1 (e.block / 64) h
  split
  · exact MemSt.wf_writeWhole x _ _ h
  · split
    · exact hr
    · exact MemSt.wf_writeWhole x _ _ hr

theorem MemSt.wf_commitOut {m : MemSt} (x : MemX) (e : MergeEntry) (h : m.wf = true) : (m.commitOut x e).wf = true :=
  MemSt.wf_commitEntry x e (m := { m with merge := _ }) h

theorem MemSt.wf_commitBlock {m : MemSt} (x : MemX) (b : Nat) (h : m.wf = true) : (m.commitBlock x b).wf = true := by
  unfold MemSt.commitBlock
  split
  · exact h
  · exact MemSt.wf_commitOut x _ h

/-- A fold of steps that keep the form keeps it. -/
theorem MemSt.wf_foldl {β : Type} {f : MemSt → β → MemSt} (hf : ∀ (m : MemSt) (b : β), m.wf = true → (f m b).wf = true) :
    ∀ (l : List β) {m : MemSt}, m.wf = true → (l.foldl f m).wf = true
  | [], _, h => h
  | b :: t, _, h => MemSt.wf_foldl hf t (hf _ b h)

theorem MemSt.wf_commitOwner {m : MemSt} (x : MemX) (o : Nat) (h : m.wf = true) : (m.commitOwner x o).wf = true :=
  MemSt.wf_foldl (fun _ e h => MemSt.wf_commitOut x e h) _ h

theorem MemSt.wf_evict {m : MemSt} (x : MemX) (a : Addr) (h : m.wf = true) : (m.evict x a).wf = true := by
  unfold MemSt.evict
  split
  · exact h
  · split
    · split
      · exact MemSt.wf_commitOut x _ h
      · exact h
    · exact h

theorem MemSt.wf_narrowWrite {m : MemSt} (x : MemX) (owner b off : Nat) (bs : List Byte) (h : m.wf = true) :
    (m.narrowWrite x owner b off bs).wf = true := by
  unfold MemSt.narrowWrite
  split
  · simp only []
    split
    · exact MemSt.wf_commitEntry x _ (m := { m with merge := _ }) h
    · exact h
  · exact MemSt.wf_evict x _ h

theorem MemSt.wf_touch {m : MemSt} (x : MemX) (b : Nat) (h : m.wf = true) : (m.touch x b).wf = true :=
  MemSt.wf_readBlock x 0 b (MemSt.wf_commitBlock x b h)

theorem MemSt.wf_touchAll (x : MemX) : ∀ (bs : List Nat) {m : MemSt}, m.wf = true → (m.touchAll x bs).wf = true
  | [], _, h => h
  | b :: t, m, h => by
    unfold MemSt.touchAll
    simp only []
    split
    · exact MemSt.wf_touch x b h
    · exact MemSt.wf_touchAll x t (MemSt.wf_touch x b h)

theorem MemSt.wf_readRange {m : MemSt} (x : MemX) (a n : Nat) (h : m.wf = true) : (m.readRange x a n).1.wf = true :=
  MemSt.wf_touchAll x _ h

theorem MemSt.wf_fullWrite {m : MemSt} (x : MemX) (b d : Nat) (h : m.wf = true) : (m.fullWrite x b d).wf = true :=
  MemSt.wf_writeWhole x b d (MemSt.wf_commitBlock x b h)

theorem MemSt.wf_writeBlocks (x : MemX) (owner : Nat) : ∀ (k : Nat) (a : Addr) (bs : List Byte) {m : MemSt}, m.wf = true →
    (m.writeBlocks x owner k a bs).wf = true
  | 0, _, _, _, h => h
  | k + 1, a, bs, m, h => by
    unfold MemSt.writeBlocks
    refine MemSt.wf_writeBlocks x owner k _ _ ?_
    split
    · exact MemSt.wf_fullWrite x _ _ h
    · split
      · exact h
      · exact MemSt.wf_narrowWrite x owner _ _ _ h

theorem MemSt.wf_write {m : MemSt} (x : MemX) (owner : Nat) (a : Addr) (bs : List Byte) (h : m.wf = true) :
    (m.write x owner a bs).wf = true := MemSt.wf_writeBlocks x owner _ a bs h

theorem MemSt.wf_settleOwner {m : MemSt} (x : MemX) (owner : Nat) (h : m.wf = true) : (m.settleOwner x owner).1.wf = true :=
  MemSt.wf_congr (m := m.commitOwner x owner) rfl rfl (MemSt.wf_commitOwner x owner h)

theorem MemSt.wf_wipe {m : MemSt} (a n : Nat) (h : m.wf = true) : (m.wipe a n).wf = true := by
  rw [MemSt.wf_iff] at h ⊢
  exact ⟨sok_skeep 0 _ h.1, sok_skeep 0 _ h.2⟩

theorem MemSt.wf_zeroBlocks {m : MemSt} (x : MemX) (b n : Nat) (h : m.wf = true) : (m.zeroBlocks x b n).wf = true :=
  MemSt.wf_wipe _ _ (MemSt.wf_foldl (fun _ b h => MemSt.wf_writeWhole x b 0 h) _ h)

theorem MemSt.wf_scrub {m : MemSt} (x : MemX) (b : Nat) (h : m.wf = true) : (m.scrub x b).wf = true :=
  MemSt.wf_readBlock x 2 b (MemSt.wf_commitBlock x b h)

end Sys2Proof.Machine
end

