-- ==== Sys2Proof/Laws/Packets.lean ====
section
/-!
SUPPORT. What the link layer and the checks do with a packet, said once.
-/
namespace Sys2Proof.Machine

/-- A packet on a link that is down is not seen. -/
theorem arrive_down {s : State} {a : Arrival} (f : State → State) (h : (s.link a.link).up = false) : s.arrive a f = s := by
  simp [State.arrive, h]

/-- The link layer hands an accepted packet on, and acknowledges it (R288). -/
theorem arrive_accepted {s : State} {a : Arrival} (f : State → State) (h : Accepted s a) :
    s.arrive a f = if a.pkt.kind = 10 then heard s a else withCredit s a (f (heard s a)) := by
  obtain ⟨h1, h2, h3, h4⟩ := h
  have h5 : ¬ a.pkt.seq ≠ ((acked s a).link a.link).rxSeq + 1 := fun k => k h4
  exact (if_neg (by simp [h1])).trans ((if_neg (by simp [h2, h3])).trans (if_neg h5))

/-- A packet of a job goes to the link layer unless the commit of its beat is still due (R319). -/
theorem receive_arrive {s : State} {a : Arrival} (f : State → State) (hc : a.pkt.kind = 9 ∨ s.commitDue = false) :
    s.receive a f = s.arrive a (fun s => s.deliver a.link a.pkt f) := by
  unfold State.receive
  rcases hc with hc | hc <;> simp [hc]

theorem receive_accepted {s : State} {a : Arrival} (f : State → State) (h : Accepted s a) (hk : a.pkt.kind ≠ 10)
    (hc : a.pkt.kind = 9 ∨ s.commitDue = false) : s.receive a f = withCredit s a ((heard s a).deliver a.link a.pkt f) := by
  rw [receive_arrive f hc, arrive_accepted _ h, if_neg hk]

/-- A packet of a job that passes every check lands (R317, R318). -/
theorem deliver_land {v : State} {l : Nat} {p : Packet} (f : State → State) (h1 : v.linkDrop l p = none)
    (h2 : v.nextHop (l / 5) (some (v.plan.portOf l)) p = .land) (h3 : p.kind = 9 ∨ v.landOk p = true) : v.deliver l p f = f v := by
  unfold State.deliver
  simp only [h1, h2]
  rcases h3 with h3 | h3
  · rw [if_pos h3]
  · rw [h3]; split <;> rfl

/-- A SYSTEM packet that has reached its package does what it says (R314). -/
theorem receive_system {s : State} {a : Arrival} (f : State → State) (hk : a.pkt.kind = 9) (h : SystemHere s a) :
    s.receive a f = withCredit s a (f (heard s a)) := by
  obtain ⟨h1, h2, h3, h4⟩ := h
  rw [receive_accepted f h1 (by rw [hk]; decide) (.inl hk)]
  rw [deliver_land f _ h4 (.inl hk)]
  unfold State.linkDrop
  have h5 : decide (8 < a.pkt.len.toNat) = false := by simpa using h3
  simp [hk, h2, h5]

end Sys2Proof.Machine
end

