-- ==== Sys2Proof/Laws/PerInstr.lean ====
section
/-!
SUPPORT. A law of every command as syntax, one lemma per constructor: a well-formed command that carries a packet carries whole
payload units, as many as the packet's header says (R313).
-/
namespace Sys2Proof.Laws.F
open Sys2Proof

/-- The arriving packet that a command carries. -/
def carried (i : Instr) : Option Arrival :=
  match i with
  | .stageReport a => some a
  | .stageGo a => some a
  | .stageAbandon a => some a
  | .timeSync a => some a
  | .write a => some a
  | .readReq a => some a
  | .readRsp a => some a
  | .remoteSignal a => some a
  | .credit a => some a
  | .contrib a => some a
  | .contribTopk a => some a
  | .fragment a => some a
  | .result a => some a
  | .twin a => some a
  | .memberDown a => some a
  | .memberDownProxy a => some a
  | .memberUp a => some a
  | .resyncReq a => some a
  | .resyncReady a => some a
  | .resyncDone a => some a
  | .powerOn | .vinSample _ _ | .pkgResetPin | .thermalSample _ | .partitionResetRequest _ | .packageResetRequest _
  | .partitionResetPhaseEnd _ _ | .packageResetPhaseEnd _ | .archiveUnitTimeout _ _ _ _ | .flitReceive _ _ _ _ | .laneFailure _ _ _ _
  | .laneReplaced _ _ _ | .sliceRetire _ _ | .reweightDrainEnd _ | .laneRepairRecord | .requestAgeBlock _ _ _ | .mergeCommit _
  | .carrelScrubRow _ _ | .hbmScrubBlock _ | .folioFetch _ | .curatorDispatch _ | .mma _ | .mmaComputeEnd _ | .mmaEpilogueEnd _
  | .vop _ | .vfunc _ | .funcLoadResident _ | .vrowstat _ | .vnormFwd _ | .vnormBwd _ | .vsoftmaxFwd _ | .vsoftmaxBwd _ | .vconv _
  | .copy _ | .copy2d _ | .copyt _ | .reblock _ | .gather _ | .scatter _ | .wait _ | .signal _ | .fence _ | .fenceSatisfied _ | .call _
  | .timeat _ | .timeatResume _ | .end_ _ | .clusterPartEnd _ | .redOpen _ | .redContrib _ | .redContribTopk _ | .redWait _
  | .ringPass _ | .send _ | .recv _ | .updApply _ | .waitingBindingCheck _ | .updInstall _ | .commandComplete _ _ | .haltReport _
  | .claspAdd _ _ _ | .tileClaspAdd _ _ _ | .signalRelease _ | .clusterPark _ | .clusterWake _ | .ringConfigWrite _ _ _
  | .submissionRingRead _ | .admissionDecision _ | .taskStart _ | .deadlineMiss _ | .programSwitch _ | .switchComplete _
  | .stepCloseBegin _ _ | .bindingClose _ | .powerCapWrite _ | .bursarPowerMeasure _ | .stageCheck _ _ | .stageDecision _
  | .stageApply _ | .epochGraceEnd _ | .timeSyncSend | .ppsEdge _ | .ptpMeasurement _ | .timeSet _ | .syncLossHoldover
  | .holdoverExpire | .refLossTimeout | .linkDown _ _ | .linkRejoinDrainEnd _ | .beaconSend _ | .beacon _ _ _ | .trainingTimeout _
  | .absentRetrain _ | .loggedUnitRetake _ | .preopenExpire _ | .contextDeadline _ | .rejoinRelease _ | .resyncArm _ | .resyncCopyDone
  | .watchdogExpire _ | .restartComplete _ | .ucieModuleDown _ | .featAcceptWrite _ | .memcfgWrite _ | .svnCommit _ | .svnCommitDone
  | .report | .extend | .certs | .attestOpDone | .lifecycleRequest _ | .archiveRead _ | .archiveCopyDone | .registerWrite _
  | .pkgResetNRelease | .referenceLost | .restartExceedsBound _ | .hostAccess _ => none

/-- The packet of a well-formed command has a payload of exactly the units of its header. -/
def Statement (i : Instr) : Prop :=
  i.wellFormed = true → ∀ a, carried i = some a → a.pkt.payload.length = 64 * a.pkt.len.toNat

theorem units_of_wf {k : Nat} {p : Packet} (h : p.wf k = true) : p.payload.length = 64 * p.len.toNat := by
  simp only [Packet.wf, Bool.and_eq_true, beq_iff_eq] at h
  exact h.1.2

theorem units_of_wfSystem {t : Nat} {p : Packet} (h : p.wfSystem t = true) : p.payload.length = 64 * p.len.toNat := by
  rw [Packet.wfSystem, Bool.and_eq_true] at h
  exact units_of_wf h.1

theorem powerOn : Statement .powerOn := fun _ _ e => nomatch e
theorem vinSample (a b : Nat) : Statement (.vinSample a b) := fun _ _ e => nomatch e
theorem pkgResetPin : Statement .pkgResetPin := fun _ _ e => nomatch e
theorem thermalSample (e : EnvSample) : Statement (.thermalSample e) := fun _ _ e => nomatch e
theorem partitionResetRequest (v : W64) : Statement (.partitionResetRequest v) := fun _ _ e => nomatch e
theorem packageResetRequest (v : W64) : Statement (.packageResetRequest v) := fun _ _ e => nomatch e
theorem partitionResetPhaseEnd (q : Quad) (o : PhaseObs) : Statement (.partitionResetPhaseEnd q o) := fun _ _ e => nomatch e
theorem packageResetPhaseEnd (o : PhaseObs) : Statement (.packageResetPhaseEnd o) := fun _ _ e => nomatch e
theorem archiveUnitTimeout (pkg : Bool) (q : Quad) (before : Nat) (scanOk : Bool) : Statement (.archiveUnitTimeout pkg q before scanOk) := fun _ _ e => nomatch e
theorem flitReceive (e : EdgeId) (slice : Fin 16) (dir : Bool) (f : Flit) : Statement (.flitReceive e slice dir f) := fun _ _ e => nomatch e
theorem laneFailure (e : EdgeId) (slice : Fin 16) (dir : Bool) (lane : Fin 66) : Statement (.laneFailure e slice dir lane) := fun _ _ e => nomatch e
theorem laneReplaced (e : EdgeId) (slice : Fin 16) (dir : Bool) : Statement (.laneReplaced e slice dir) := fun _ _ e => nomatch e
theorem sliceRetire (e : EdgeId) (slice : Fin 16) : Statement (.sliceRetire e slice) := fun _ _ e => nomatch e
theorem reweightDrainEnd (router : DieId) : Statement (.reweightDrainEnd router) := fun _ _ e => nomatch e
theorem laneRepairRecord : Statement .laneRepairRecord := fun _ _ e => nomatch e
theorem requestAgeBlock (a : Addr) (st : BitVec 32) (src : Nat) : Statement (.requestAgeBlock a st src) := fun _ _ e => nomatch e
theorem mergeCommit (block : Addr) : Statement (.mergeCommit block) := fun _ _ e => nomatch e
theorem carrelScrubRow (st : SramStore) (bank : Fin 512) : Statement (.carrelScrubRow st bank) := fun _ _ e => nomatch e
theorem hbmScrubBlock (m : StackId) : Statement (.hbmScrubBlock m) := fun _ _ e => nomatch e
theorem folioFetch (c : ClusterId) : Statement (.folioFetch c) := fun _ _ e => nomatch e
theorem curatorDispatch (c : ClusterId) : Statement (.curatorDispatch c) := fun _ _ e => nomatch e
theorem mma (c : ClusterId) : Statement (.mma c) := fun _ _ e => nomatch e
theorem mmaComputeEnd (c : ClusterId) : Statement (.mmaComputeEnd c) := fun _ _ e => nomatch e
theorem mmaEpilogueEnd (c : ClusterId) : Statement (.mmaEpilogueEnd c) := fun _ _ e => nomatch e
theorem vop (c : ClusterId) : Statement (.vop c) := fun _ _ e => nomatch e
theorem vfunc (c : ClusterId) : Statement (.vfunc c) := fun _ _ e => nomatch e
theorem funcLoadResident (c : ClusterId) : Statement (.funcLoadResident c) := fun _ _ e => nomatch e
theorem vrowstat (c : ClusterId) : Statement (.vrowstat c) := fun _ _ e => nomatch e
theorem vnormFwd (c : ClusterId) : Statement (.vnormFwd c) := fun _ _ e => nomatch e
theorem vnormBwd (c : ClusterId) : Statement (.vnormBwd c) := fun _ _ e => nomatch e
theorem vsoftmaxFwd (c : ClusterId) : Statement (.vsoftmaxFwd c) := fun _ _ e => nomatch e
theorem vsoftmaxBwd (c : ClusterId) : Statement (.vsoftmaxBwd c) := fun _ _ e => nomatch e
theorem vconv (c : ClusterId) : Statement (.vconv c) := fun _ _ e => nomatch e
theorem copy (c : ClusterId) : Statement (.copy c) := fun _ _ e => nomatch e
theorem copy2d (c : ClusterId) : Statement (.copy2d c) := fun _ _ e => nomatch e
theorem copyt (c : ClusterId) : Statement (.copyt c) := fun _ _ e => nomatch e
theorem reblock (c : ClusterId) : Statement (.reblock c) := fun _ _ e => nomatch e
theorem gather (c : ClusterId) : Statement (.gather c) := fun _ _ e => nomatch e
theorem scatter (c : ClusterId) : Statement (.scatter c) := fun _ _ e => nomatch e
theorem wait (c : ClusterId) : Statement (.wait c) := fun _ _ e => nomatch e
theorem signal (c : ClusterId) : Statement (.signal c) := fun _ _ e => nomatch e
theorem fence (c : ClusterId) : Statement (.fence c) := fun _ _ e => nomatch e
theorem fenceSatisfied (c : ClusterId) : Statement (.fenceSatisfied c) := fun _ _ e => nomatch e
theorem call (c : ClusterId) : Statement (.call c) := fun _ _ e => nomatch e
theorem timeat (c : ClusterId) : Statement (.timeat c) := fun _ _ e => nomatch e
theorem timeatResume (c : ClusterId) : Statement (.timeatResume c) := fun _ _ e => nomatch e
theorem end_ (c : ClusterId) : Statement (.end_ c) := fun _ _ e => nomatch e
theorem clusterPartEnd (c : ClusterId) : Statement (.clusterPartEnd c) := fun _ _ e => nomatch e
theorem redOpen (c : ClusterId) : Statement (.redOpen c) := fun _ _ e => nomatch e
theorem redContrib (c : ClusterId) : Statement (.redContrib c) := fun _ _ e => nomatch e
theorem redContribTopk (c : ClusterId) : Statement (.redContribTopk c) := fun _ _ e => nomatch e
theorem redWait (c : ClusterId) : Statement (.redWait c) := fun _ _ e => nomatch e
theorem ringPass (c : ClusterId) : Statement (.ringPass c) := fun _ _ e => nomatch e
theorem send (c : ClusterId) : Statement (.send c) := fun _ _ e => nomatch e
theorem recv (c : ClusterId) : Statement (.recv c) := fun _ _ e => nomatch e
theorem updApply (c : ClusterId) : Statement (.updApply c) := fun _ _ e => nomatch e
theorem waitingBindingCheck (desc : Addr) : Statement (.waitingBindingCheck desc) := fun _ _ e => nomatch e
theorem updInstall (c : ClusterId) : Statement (.updInstall c) := fun _ _ e => nomatch e
theorem commandComplete (c : ClusterId) (x : Executor) : Statement (.commandComplete c x) := fun _ _ e => nomatch e
theorem haltReport (c : ClusterId) : Statement (.haltReport c) := fun _ _ e => nomatch e
theorem claspAdd (c : ClusterId) (k : ClaspId) (n : BitVec 16) : Statement (.claspAdd c k n) := fun _ _ e => nomatch e
theorem tileClaspAdd (c : ClusterId) (k : ClaspId) (n : W32) : Statement (.tileClaspAdd c k n) := fun _ _ e => nomatch e
theorem signalRelease (h : Quad) : Statement (.signalRelease h) := fun _ _ e => nomatch e
theorem clusterPark (c : ClusterId) : Statement (.clusterPark c) := fun _ _ e => nomatch e
theorem clusterWake (c : ClusterId) : Statement (.clusterWake c) := fun _ _ e => nomatch e
theorem ringConfigWrite (q : Quad) (cq : Bool) (v : W64) : Statement (.ringConfigWrite q cq v) := fun _ _ e => nomatch e
theorem submissionRingRead (q : Quad) : Statement (.submissionRingRead q) := fun _ _ e => nomatch e
theorem admissionDecision (q : Quad) : Statement (.admissionDecision q) := fun _ _ e => nomatch e
theorem taskStart (q : Quad) : Statement (.taskStart q) := fun _ _ e => nomatch e
theorem deadlineMiss (q : Quad) : Statement (.deadlineMiss q) := fun _ _ e => nomatch e
theorem programSwitch (q : Quad) : Statement (.programSwitch q) := fun _ _ e => nomatch e
theorem switchComplete (q : Quad) : Statement (.switchComplete q) := fun _ _ e => nomatch e
theorem stepCloseBegin (q : Quad) (p : ProgSlot) : Statement (.stepCloseBegin q p) := fun _ _ e => nomatch e
theorem bindingClose (q : Quad) : Statement (.bindingClose q) := fun _ _ e => nomatch e
theorem powerCapWrite (v : W64) : Statement (.powerCapWrite v) := fun _ _ e => nomatch e
theorem bursarPowerMeasure (w : Nat) : Statement (.bursarPowerMeasure w) := fun _ _ e => nomatch e
theorem stageCheck (r : StageSet) (v : W64) : Statement (.stageCheck r v) := fun _ _ e => nomatch e
theorem stageDecision (id : W32) : Statement (.stageDecision id) := fun _ _ e => nomatch e
theorem stageApply (r : StageSet) : Statement (.stageApply r) := fun _ _ e => nomatch e
theorem stageReport (a : Arrival) : Statement (.stageReport a) := fun h _ e => Option.some.inj e ▸ units_of_wfSystem h
theorem stageGo (a : Arrival) : Statement (.stageGo a) := fun h _ e => Option.some.inj e ▸ units_of_wfSystem h
theorem stageAbandon (a : Arrival) : Statement (.stageAbandon a) := fun h _ e => Option.some.inj e ▸ units_of_wfSystem h
theorem epochGraceEnd (j : JobId) : Statement (.epochGraceEnd j) := fun _ _ e => nomatch e
theorem timeSyncSend : Statement .timeSyncSend := fun _ _ e => nomatch e
theorem timeSync (a : Arrival) : Statement (.timeSync a) := fun h _ e => Option.some.inj e ▸ units_of_wfSystem h
theorem ppsEdge (ts : Nat) : Statement (.ppsEdge ts) := fun _ _ e => nomatch e
theorem ptpMeasurement (offset : Int) : Statement (.ptpMeasurement offset) := fun _ _ e => nomatch e
theorem timeSet (v : W64) : Statement (.timeSet v) := fun _ _ e => nomatch e
theorem syncLossHoldover : Statement .syncLossHoldover := fun _ _ e => nomatch e
theorem holdoverExpire : Statement .holdoverExpire := fun _ _ e => nomatch e
theorem refLossTimeout : Statement .refLossTimeout := fun _ _ e => nomatch e
theorem linkDown (l : LinkId) (last : BitVec 12) : Statement (.linkDown l last) := fun _ _ e => nomatch e
theorem linkRejoinDrainEnd (l : LinkId) : Statement (.linkRejoinDrainEnd l) := fun _ _ e => nomatch e
theorem beaconSend (l : LinkId) : Statement (.beaconSend l) := fun _ _ e => nomatch e
theorem beacon (l : LinkId) (b : Block) (crcOk : Bool) : Statement (.beacon l b crcOk) := fun _ _ e => nomatch e
theorem trainingTimeout (l : LinkId) : Statement (.trainingTimeout l) := fun _ _ e => nomatch e
theorem absentRetrain (l : LinkId) : Statement (.absentRetrain l) := fun _ _ e => nomatch e
theorem write (a : Arrival) : Statement (.write a) := fun h _ e => Option.some.inj e ▸ units_of_wf h
theorem readReq (a : Arrival) : Statement (.readReq a) := fun h _ e => Option.some.inj e ▸ units_of_wf h
theorem readRsp (a : Arrival) : Statement (.readRsp a) := fun h _ e => Option.some.inj e ▸ units_of_wf h
theorem remoteSignal (a : Arrival) : Statement (.remoteSignal a) := fun h _ e => Option.some.inj e ▸ units_of_wf h
theorem credit (a : Arrival) : Statement (.credit a) := fun h _ e => Option.some.inj e ▸ units_of_wf h
theorem contrib (a : Arrival) : Statement (.contrib a) := fun h _ e => Option.some.inj e ▸ units_of_wf h
theorem contribTopk (a : Arrival) : Statement (.contribTopk a) := fun h _ e => Option.some.inj e ▸ units_of_wf h
theorem fragment (a : Arrival) : Statement (.fragment a) := fun h _ e => Option.some.inj e ▸ units_of_wf h
theorem result (a : Arrival) : Statement (.result a) := fun h _ e => Option.some.inj e ▸ units_of_wf h
theorem twin (a : Arrival) : Statement (.twin a) := fun h _ e => Option.some.inj e ▸ units_of_wf h
theorem loggedUnitRetake (h : Quad) : Statement (.loggedUnitRetake h) := fun _ _ e => nomatch e
theorem preopenExpire (h : Quad) : Statement (.preopenExpire h) := fun _ _ e => nomatch e
theorem contextDeadline (q : Quad) : Statement (.contextDeadline q) := fun _ _ e => nomatch e
theorem memberDown (a : Arrival) : Statement (.memberDown a) := fun h _ e => Option.some.inj e ▸ units_of_wfSystem h
theorem memberDownProxy (a : Arrival) : Statement (.memberDownProxy a) := fun h _ e => Option.some.inj e ▸ units_of_wfSystem h
theorem memberUp (a : Arrival) : Statement (.memberUp a) := fun h _ e => Option.some.inj e ▸ units_of_wfSystem h
theorem rejoinRelease (j : JobId) : Statement (.rejoinRelease j) := fun _ _ e => nomatch e
theorem resyncArm (v : W64) : Statement (.resyncArm v) := fun _ _ e => nomatch e
theorem resyncReq (a : Arrival) : Statement (.resyncReq a) := fun h _ e => Option.some.inj e ▸ units_of_wfSystem h
theorem resyncReady (a : Arrival) : Statement (.resyncReady a) := fun h _ e => Option.some.inj e ▸ units_of_wfSystem h
theorem resyncCopyDone : Statement .resyncCopyDone := fun _ _ e => nomatch e
theorem resyncDone (a : Arrival) : Statement (.resyncDone a) := fun h _ e => Option.some.inj e ▸ units_of_wfSystem h
theorem watchdogExpire (p : Proc) : Statement (.watchdogExpire p) := fun _ _ e => nomatch e
theorem restartComplete (p : Proc) : Statement (.restartComplete p) := fun _ _ e => nomatch e
theorem ucieModuleDown (m : Fin 2) : Statement (.ucieModuleDown m) := fun _ _ e => nomatch e
theorem featAcceptWrite (v : W64) : Statement (.featAcceptWrite v) := fun _ _ e => nomatch e
theorem memcfgWrite (v : W32) : Statement (.memcfgWrite v) := fun _ _ e => nomatch e
theorem svnCommit (v : W64) : Statement (.svnCommit v) := fun _ _ e => nomatch e
theorem svnCommitDone : Statement .svnCommitDone := fun _ _ e => nomatch e
theorem report : Statement .report := fun _ _ e => nomatch e
theorem extend : Statement .extend := fun _ _ e => nomatch e
theorem certs : Statement .certs := fun _ _ e => nomatch e
theorem attestOpDone : Statement .attestOpDone := fun _ _ e => nomatch e
theorem lifecycleRequest (v : W64) : Statement (.lifecycleRequest v) := fun _ _ e => nomatch e
theorem archiveRead (v : W64) : Statement (.archiveRead v) := fun _ _ e => nomatch e
theorem archiveCopyDone : Statement .archiveCopyDone := fun _ _ e => nomatch e
theorem registerWrite (w : RegWrite) : Statement (.registerWrite w) := fun _ _ e => nomatch e
theorem pkgResetNRelease : Statement .pkgResetNRelease := fun _ _ e => nomatch e
theorem referenceLost : Statement .referenceLost := fun _ _ e => nomatch e
theorem restartExceedsBound (p : Proc) : Statement (.restartExceedsBound p) := fun _ _ e => nomatch e
theorem hostAccess (r : HostReq) : Statement (.hostAccess r) := fun _ _ e => nomatch e

end Sys2Proof.Laws.F
end

