-- ==== Sys2Proof/Tests/Slice0.lean ====
section
/-!
SUPPORT. Small checks: examples of the spec, ill-formed operands, and for each statement a concrete state and operands that meet its
hypotheses.
-/
namespace Sys2Proof.Tests
set_option Elab.async false
open Sys2Proof Sys2Proof.Machine

/-! ## Small states -/

/-- Slot 0 is mapped, in a package whose dies are in service. -/
def P : State := { panel := { slotSite := [(0, 0), (1, 1)], inService := [0, 1, 36, 37, 38, 39] } }

/-- The same with cluster 0 as given. -/
def C (k : Cluster) : State := { P with clusters := [(0, k)] }

/-- A command of these words, low word first. -/
def cmd (ws : List Nat) : Block := BitVec.ofNat 512 (ws.reverse.foldl (fun a w => a * 2 ^ 32 + w) 0)
def qc (ws : List Nat) : QCmd := { cmd := cmd ws, addr := 0x1000, stamp := 0 }

/-- The Curator runs a control command. -/
def cur (ws : List Nat) : State := C { cur := { mode := .running, current := some (qc ws) }, granted := [.curator] }

/-- A program on clusters 0 and 1, and its running task. -/
def img : Image :=
  { headerOk := true, job := 0, numerics := 1, features := 0, entries := [(0, 0), (1, 0x4000)], clasps := [], streamsOut := [], streamsIn := []
    footprint := [], slots := [], spill := 0, cmdMaxOut := 0, guarPower := 0, contexts := 0 }
def task (st : TaskSt) : Task := { index := 0, desc := 0, addr := 0, readable := true, st := st, beat := 0, image := some img }
def T (s : State) (t : Task) : State := { s with parts := [(0, { tasks := [t] })] }

/-! ## Examples of the spec -/

/-- R62, its example: layout 0, A = 0x40000A00 lies in M19 at offset 0x2AAAA00, the next granule in M20. -/
theorem test_interleave_example :
    interleave 0 0 4 0x40000A00 = (19, 0x2AAAA00) ∧ (interleave 0 0 4 0x40000C00).1 = 20 := by decide

/-- R198, its example: a clasp that holds 3, or 0x80000005, does not satisfy a wait for 4. -/
theorem test_clasp_example : reached 3 4 = false ∧ reached 0x80000005 4 = false ∧ reached 4 4 = true := by decide

/-- R367, its example: group 5 with elements 40, 43 and 46. -/
theorem test_group_example :
    groupBytes [(40, { n := 0 - (2 ^ 161 + 2 ^ 160 + 2 ^ 158) }), (43, { n := 2 ^ 160 }), (46, { pinf := true })] 5 =
      [0x49, 0x05, 0, 0, 0x30, 0x04, 0x20, 0, 0, 0x10, 0, 0, 0, 0, 0, 0x40, 3, 0, 0, 0, 1, 0, 0, 0] := by decide +kernel

/-! ## Operands that name nothing change nothing -/

theorem test_illformed_flit : exec (.flitReceive 72 15 false { seq := 0, data := 0, crcOk := true, laneError := [] }) {} = .next {} := rfl
theorem test_illformed_lane : exec (.laneFailure 72 15 false 0) {} = .next {} := rfl
theorem test_illformed_replaced : exec (.laneReplaced 72 15 false) {} = .next {} := rfl
theorem test_illformed_retire : exec (.sliceRetire 72 15) {} = .next {} := rfl
theorem test_illformed_merge : exec (.mergeCommit 1) {} = .next {} := rfl
theorem test_illformed_scrub : exec (.carrelScrubRow (.carrel 0) 32) {} = .next {} := rfl
theorem test_illformed_request : exec (.requestAgeBlock hbmEnd 0 0) {} = .next {} := rfl

/-- A packet of kind `k` with a payload of `n` units. -/
def pk (k n : Nat) : Packet :=
  { kind := BitVec.ofNat 4 k, vclass := 0, vc := false, lock := false, lockDir := false, job := 1, dstPkg := 0, srcPkg := 1, srcCluster := 0x1FF
    dstCluster := 0x1FF, epoch := 0, stamp := 0, addr := 0, len := BitVec.ofNat 4 n, seq := 1, ack := 0, aux := 64
    payload := List.replicate (64 * n) 0 }
def arr (p : Packet) : Arrival := { link := 0, crcOk := true, fixed := 0, bad := 0, pkt := p }

theorem test_illformed_kind : exec (.write (arr (pk 1 0))) {} = .next {} ∧ exec (.credit (arr (pk 10 1))) {} = .next {} := ⟨rfl, rfl⟩
theorem test_illformed_system : exec (.stageGo (arr (pk 9 1))) {} = .next {} := rfl
/-- One ill-formed command of each shape. -/
theorem test_illformed : ∀ i ∈ [Instr.flitReceive 72 15 false { seq := 0, data := 0, crcOk := true, laneError := [] }, .laneFailure 72 15 false 0,
    .sliceRetire 72 15, .mergeCommit 1, .carrelScrubRow (.carrel 0) 32, .requestAgeBlock hbmEnd 0 0,
    .write (arr (pk 1 0)), .stageGo (arr (pk 9 1))], i.wellFormed = false := by decide +kernel
/-! ## Witnesses: clasps, Curators and engines -/

theorem test_witness_step : ({ P with pending := [.powerOn] } : State).pending = .powerOn :: [] ∧ P.pending = [] := ⟨rfl, rfl⟩

/-- R198, R200: a sum inside the range, and one just outside. -/
theorem test_witness_clasp_add : Rising (P.cl 0).clasps ∧ P.slotMapped (clusterSlot 0) = true ∧ P.inReset (clusterQuad 0) = false ∧
    (P.cl 0).parked = false ∧ (P.cl 0).halt = none ∧ (P.cl 0).waiters = [] ∧ P.inFlight 0 5 3 = [] ∧
    ((P.cl 0).clasp 5 + BitVec.ofNat 32 (3#16).toNat).toNat < 2 ^ 31 := by unfold Rising; decide
def full : State := C { clasps := [(5, 0x7FFFFFFF)] }
/-- R207, R335: no signal in flight that the add could be, and one of the running program that is first of its stream; no add came before
in the cycle, and one of another clasp did. -/
def flying : State := { P with fabric := { signals := [{ cluster := 0, clasp := 5, inc := 3, prog := 0 }] } }
def evaluated : State := C { lastEval := some { cycle := 0, clasp := 6, value := 0, waiters := [], granted := [], mode := .idle, resume := .idle, left := [], done := [] } }
theorem test_witness_first : ∀ s ∈ [P, flying, evaluated], FirstAdd s 0 5 ∧ Arrives s 0 5 3 := by
  intro s hs
  simp only [List.mem_cons, List.not_mem_nil, or_false] at hs
  obtain rfl | rfl | rfl := hs
  · exact ⟨⟨by decide, by decide⟩, Or.inl (by decide)⟩
  · exact ⟨⟨by decide, by decide⟩, Or.inr ⟨[], _, [], rfl, by decide, by decide, Or.inl rfl⟩⟩
  · exact ⟨⟨by decide, by decide⟩, Or.inl (by decide)⟩
theorem test_witness_clasp_range : Rising (full.cl 0).clasps ∧ full.slotMapped (clusterSlot 0) = true ∧ full.inReset (clusterQuad 0) = false ∧
    (full.cl 0).parked = false ∧ (full.cl 0).halt = none ∧ (full.cl 0).waiters = [] ∧ full.inFlight 0 5 1 = [] ∧
    2 ^ 31 ≤ ((full.cl 0).clasp 5 + BitVec.ofNat 32 (1#16).toNat).toNat ∧ 2 ^ 31 ≤ ((full.cl 0).clasp 5 + 1#32).toNat := by unfold Rising; decide

def w1 : Waiter := { who := .mx, clasp := 5, thr := 4, take := true, stamp := 1, addr := 0 }
def w2 : Waiter := { who := .vx, clasp := 5, thr := 2, take := true, stamp := 2, addr := 0 }
def takes : State := C { waiters := [w2, w1] }
/-- R199: each of the four outcomes, at sums of 6, 5, 2 and 1, and one outcome with thresholds 4 and 2 the other way. -/
theorem test_witness_takes : Rising takes.clusters ∧ Rising (takes.cl 0).clasps ∧ takes.slotMapped (clusterSlot 0) = true ∧
    takes.inReset (clusterQuad 0) = false ∧ (takes.cl 0).parked = false ∧ takes.inFlight 0 5 6 = [] ∧ (takes.cl 0).waiters = [w2, w1] ∧
    stampLt w1.stamp w2.stamp = true ∧ stampLt w2.stamp w1.stamp = false ∧ (takes.cl 0).granted = [] ∧
    w1.thr.toNat + w2.thr.toNat ≤ 6 ∧ w1.thr.toNat ≤ 5 ∧ 5 < w1.thr.toNat + w2.thr.toNat ∧
    2 < w1.thr.toNat ∧ w2.thr.toNat ≤ 2 ∧ 1 < w2.thr.toNat := by unfold Rising; decide
theorem test_takes_run : (match exec (.claspAdd 0 5 5) takes with
    | .next t => decide ((t.cl 0).clasp 5 = 1 ∧ (t.cl 0).waiters = [w2] ∧ (t.cl 0).granted = [.mx])
    | _ => false) = true := by decide +kernel

def held : HeldSignal := { stream := { srcPkg := 1, srcCl := 0, dstPkg := 0, dstCl := 0 }, job := 1, count := 0, clasp := 5, inc := 1 }
def holding : State := P.onHub 0 (fun h => { h with heldSignals := [held] })
theorem test_witness_signal : (holding.hub 0).heldSignals = [held] ∧
    (streamCount (holding.hub 0).inStreams held.stream).getD 0 = held.count ∧
    holding.suspendedJob held.stream.dstCl.toNat held.job.toNat = false := by decide

def parkedCl : State := C { parked := true, wake := true }
theorem test_witness_park : (P.cl 0).still = true ∧ (P.cl 0).parked = false ∧ P.mayRun 0 = true ∧ bit (P.parkReg (P.clPart 0)) 16 = true ∧
    sok 0 (parkedCl.cl 0).clasps = true ∧ (parkedCl.cl 0).parked = true ∧ (parkedCl.cl 0).wake = true ∧ (parkedCl.cl 0).waiters = [] := by
  decide

def fetching (a : Nat) : State := C { cur := { mode := .running, fetch := a } }
theorem test_witness_fetch : (fetching 0x40).mayRun 0 = true ∧ ((fetching 0x40).cl 0).cur.fetches = true ∧ (fetching 0x40).mem.newPoison = [] ∧
    (fetching 0x40).folioAt 0 0x40 = true ∧ (fetching 0x40).mem.merge = [] ∧ (fetching 0x40).mem.vague = [] ∧
    decodeBlock ((fetching 0x40).mem.blockNat 1) ((fetching 0x40).mem.code 1) = .ok := by decide +kernel
theorem test_witness_fetch_fault : (fetching ledgerBase).mayRun 0 = true ∧ ((fetching ledgerBase).cl 0).cur.fetches = true ∧
    (fetching ledgerBase).folioAt 0 ledgerBase = false ∧ ((fetching ledgerBase).cl 0).cur.prefetch = [] ∧
    ((fetching ledgerBase).cl 0).cur.current = none ∧ ledgerBase % 64 = 0 := by decide +kernel

/-- A command of opcode `op` and class `k`, at the front of the prefetched ones. -/
def front (op k : Nat) : State := C { cur := { mode := .running, prefetch := [qc [op + 256 * k]] } }
theorem test_witness_dispatch : ∀ x ∈ [(0x01, 0), (0x40, 1), (0x80, 2), (0xC0, 3)], (front x.1 x.2).mayRun 0 = true ∧
    ((front x.1 x.2).cl 0).cur.mode = .running ∧ (front x.1 x.2).issueHeld 0 = false ∧ ((front x.1 x.2).cl 0).cur.current = none ∧
    (front x.1 x.2).headerGood 0 (cmd [x.1 + 256 * x.2]) = true ∧ hClass (cmd [x.1 + 256 * x.2]) = x.2 ∧
    hWait (cmd [x.1 + 256 * x.2]) = false ∧ ((front x.1 x.2).cl 0).mxCount < 32 := by decide +kernel
theorem test_witness_dispatch_bad : (front 0xFF 0).mayRun 0 = true ∧ (front 0xFF 0).issueHeld 0 = false ∧
    (front 0xFF 0).headerGood 0 (cmd [0xFF]) = false := by decide +kernel
def fwd (n : Nat) : State := C { cur := { mode := .running, current := some (qc [0x3D3]) }, granted := [.curator]
                                 hubq := List.replicate n { q := qc [0x3D3], prog := 0 } }
theorem test_witness_forward : (fwd 3).mayRun 0 = true ∧ (fwd 3).issueHeld 0 = false ∧ 0xD0 ≤ hOpcode (cmd [0x3D3]) ∧
    ((fwd 3).cl 0).hubq.length < 4 ∧ 4 ≤ ((fwd 4).cl 0).hubq.length := by decide +kernel

/-- Busy: a vector command is queued, so that a FENCE of the vector engine is not satisfied. -/
def busyCur (ws : List Nat) : State :=
  C { cur := { mode := .running, current := some (qc ws) }, granted := [.curator], vxq := [qc [0x140]] }
theorem test_witness_control : ∀ x ∈ [0x3C0, 0x3C1, 0x3C2, 0x3C4], (cur [x]).mayRun 0 = true ∧ ((cur [x]).cl 0).cur.mode = .running ∧
    ((cur [x]).cl 0).cur.current = some (qc [x]) ∧ ((cur [x]).cl 0).granted = [.curator] ∧ hOpcode (cmd [x]) = x % 256 ∧
    ((cur [x]).cl 0).fenced (wfld (cmd [x]) 5 0 4) = true ∧ nfld (cmd [x]).toNat 160 64 ≤ (cur [x]).now ∧ hRemote (cmd [x]) = false ∧
    hSignal (cmd [x]) = false ∧ hSignal (cmd [x + 1024]) = true := by decide +kernel
def stopped (m : CuratorMode) (ws : List Nat) : State := C { cur := { mode := m, current := some (qc ws) }, granted := [.curator] }
theorem test_witness_stops : ((busyCur [0x3C2, 0, 0, 0, 0, 2]).cl 0).fenced (wfld (cmd [0x3C2, 0, 0, 0, 0, 2]) 5 0 4) = false ∧
    (cur [0x3C4, 0, 0, 0, 0, 9]).now < nfld (cmd [0x3C4, 0, 0, 0, 0, 9]).toNat 160 64 ∧
    hSignal (cmd [0x3C2, 0, 0, 0, 0, 2]) = false ∧ hSignal (cmd [0x3C4, 0, 0, 0, 0, 9]) = false ∧
    ((stopped (.stopFence 2) [0x3C2]).cl 0).cur.mode = .stopFence 2 ∧ ((stopped (.stopFence 2) [0x3C2]).cl 0).fenced 2 = true ∧
    ((stopped (.stopTime 9) [0x3C4]).cl 0).cur.mode = .stopTime 9 ∧ (stopped (.stopTime 9) [0x3C4]).time.slew = 0 ∧
    (stopped (.stopTime 9) [0x3C4]).mayRun 0 = true := by decide +kernel

def deep (n op : Nat) : State := C { cur := { mode := .running, current := some (qc [op]), stack := List.replicate n 0x40 }, granted := [.curator] }
theorem test_witness_calls : Rising (deep 8 0x3C3).clusters ∧ (deep 7 0x3C3).mayRun 0 = true ∧ ((deep 7 0x3C3).cl 0).cur.stack.length < 8 ∧
    8 ≤ ((deep 8 0x3C3).cl 0).cur.stack.length ∧ hOpcode (cmd [0x3C3]) = 0xC3 ∧ hOpcode (cmd [0x3C5]) = 0xC5 ∧
    ((deep 1 0x3C5).cl 0).cur.stack = 0x40 :: [] ∧ ((deep 0 0x3C5).cl 0).cur.stack = [] ∧ hSignal (cmd [0x3C3]) = false ∧
    hSignal (cmd [0x3C5]) = false := by unfold Rising; decide +kernel
def ending : State := T (C { cur := { mode := .ending, current := some (qc [0x3C5]) } }) (task .running)
theorem test_witness_part_end : Rising ending.clusters ∧ (ending.cl 0).cur.mode = .ending ∧ (ending.cl 0).halt = none ∧ ending.regOn = true ∧
    ending.mem.newPoison = [] ∧ (ending.cl 0).mxCount = 0 ∧ (ending.cl 0).vxCount = 0 ∧ (ending.cl 0).cxCount = 0 ∧ (ending.cl 0).forwarded = [] ∧
    ending.taskOf 0 = some (task .running) ∧ (ending.prt (ending.clPart 0)).tasks = [task .running] ∧ (task .running).ended = [] ∧
    (task .running).clusters = [0, 1] := by unfold Rising; decide +kernel
def doneSt (st : BitVec 16) : State := C { cur := { mode := .running }, vxDone := some { q := qc [0x540], status := st, flags := 0, due := 0 } }
theorem test_witness_complete : Rising (doneSt 0).clusters ∧ ((doneSt 0).cl 0).load = none ∧ (doneSt 0).mem.merge = [] ∧ (doneSt 0).mem.lost = [] ∧
    (doneSt 0).mem.newPoison = [] ∧ ((doneSt 0).cl 0).vxq = [] ∧ ((doneSt 0).cl 0).mxq = [] ∧ ((doneSt 0).cl 0).cxq = [] ∧
    ((doneSt 0).cl 0).mxIssued = none ∧ ((doneSt 0).cl 0).halt = none ∧ ((doneSt 0).cl 0).cur.mode ≠ .idle ∧ (0x1000 : Nat) < carrelBase ∧ hRemote (cmd [0x540]) = false ∧
    hSignal (cmd [0x540]) = true ∧ hSignal (cmd [0x140]) = false ∧ ((doneSt 1).cl 0).vxDone.any (fun d => d.status != 0) = true := by
  unfold Rising; decide +kernel

/-! ## Witnesses: matrix, vector and copy engines -/

/-- Descriptors 1 and 2 in the carrel of cluster 0: FP16 rows at 0x1000 and 0x2000, one row of one element. -/
def tdAt (base fmt : Nat) : Nat := base + fmt * 2 ^ 49 + 64 * 2 ^ 64 + 2 ^ 352 + 2 ^ 384
def tds (m : MemSt) : MemSt :=
  (m.writeWhole P.mx (tdBlock 0 1) (tdAt 0x1000 1)).writeWhole P.mx (tdBlock 0 2) (tdAt 0x2000 1)
/-- An MMA of `m` by 1 by 1 in the matrix queue. -/
def mmaCmd (m : Nat) : QCmd := qc [0x01, 0, 0, 0, 0, m + 128 + 2 ^ 15, 1 + 2 * 2 ^ 16]
def mmaAt (m : Nat) : State := { C { mxq := [mmaCmd m], granted := [.mx] } with mem := tds {} }
/-- The same with an MMA in the array that has started, or with the buffer taken by an epilogue. -/
def mmaBehind (k : Cluster) : State := { C { k with mxq := [mmaCmd 1], granted := [.mx] } with mem := tds {} }
theorem test_witness_mma : Rising (mmaAt 1).clusters ∧ (((mmaAt 1).mxTurn 0).cl 0).head .mx 0x01 = some (mmaCmd 1) ∧
    (((mmaAt 1).mxTurn 0).cl 0).mxComp = none ∧ (((mmaAt 1).mxTurn 0).cl 0).bufFree (mmBuf (mmaCmd 1).cmd) = true ∧
    (((mmaAt 0).mxTurn 0).cl 0).head .mx 0x01 = some (mmaCmd 0) := by unfold Rising; decide +kernel
def touched (s : State) (bs : List Nat) : State := s.onMem (fun m => m.touchAll s.mx bs)
theorem test_witness_mma_checks : (touched ((mmaAt 1).mxTurn 0) ((mmaTds (mmaCmd 1).cmd).map (tdBlock 0))).mem.newPoison = [] ∧
    (touched ((mmaAt 1).mxTurn 0) ((mmaTds (mmaCmd 1).cmd).map (tdBlock 0))).mem.sound ((mmaTds (mmaCmd 1).cmd).map (tdBlock 0)) = true ∧
    (mmaAt 1).mmaCheck 0 (mmaCmd 1).cmd (mmaDescs (mmaAt 1).mem 0 (mmaCmd 1).cmd) = stOk ∧
    (mmaAt 0).mmaCheck 0 (mmaCmd 0).cmd (mmaDescs (mmaAt 0).mem 0 (mmaCmd 0).cmd) = stShape := by decide +kernel

/-- An MMA in the product array, with write 0 or 1. -/
def job (w : Nat) : MxJob :=
  { q := qc [0x01, 0, 0, 0, 0, 1 + 128 + 2 ^ 15, 1 + 2 * 2 ^ 16, 0, w * 2 ^ 25, 0x3F800000], da := BitVec.ofNat 512 (tdAt 0x1000 1)
    db := BitVec.ofNat 512 (tdAt 0x2000 1), dc := BitVec.ofNat 512 (tdAt 0x3000 0), dr := 0, dp := 0, start := 0, computeEnd := 6, epiEnd := 9 }
theorem test_witness_mma_behind : (((mmaBehind { mxComp := some (job 0) }).mxTurn 0).cl 0).head .mx 0x01 = some (mmaCmd 1) ∧
    (((mmaBehind { mxComp := some (job 0) }).mxTurn 0).cl 0).mxComp.isSome = true ∧
    (((mmaBehind { mxEpi := [job 1] }).mxTurn 0).cl 0).head .mx 0x01 = some (mmaCmd 1) ∧
    (((mmaBehind { mxEpi := [job 1] }).mxTurn 0).cl 0).bufFree (mmBuf (mmaCmd 1).cmd) = false := by decide +kernel
def computing (w : Nat) : State := { C { mxComp := some (job w) } with time := { ticks := 60 } }
theorem test_witness_compute_state : Rising (computing 0).clusters ∧ ((computing 1).cl 0).mxComp = some (job 1) ∧
    ((computing 0).cl 0).mxComp = some (job 0) ∧
    (job 1).computeEnd * 10 ≤ (computing 1).time.ticks ∧ ((computing 0).cl 0).mxIssued = none ∧
    (computing 0).mem.readGroups (computing 0).mx 0 (job 0) (kGroups (mmK (job 0).q.cmd)) 0 = ({}, kGroups (mmK (job 0).q.cmd)) ∧
    mmWrite (job 0).q.cmd = false ∧ mmWrite (job 1).q.cmd = true ∧ ((({} : MemSt).product 0 (job 0) {} 1).run 0).1 = [(0 : W32)] := by
  unfold Rising; decide +kernel
def epilogue : State := { C { mxEpi := [job 1], acc0 := { m := 1, n := 1, vals := [0x3F800000], valid := true } } with time := { ticks := 90 } }
theorem test_witness_epilogue : Rising epilogue.clusters ∧ (epilogue.cl 0).mxEpi = job 1 :: [] ∧ (job 1).epiEnd * 10 ≤ epilogue.time.ticks ∧
    mmFunc (job 1).q.cmd = false ∧ mmRes (job 1).q.cmd = false ∧ mmSave (job 1).q.cmd = false ∧ tDelayed (job 1).dc = false ∧
    fmtBlocked (tFmt (job 1).dc) = false := by unfold Rising; decide +kernel

theorem test_mma_epilogue_runs : (match exec (.mmaEpilogueEnd 0) epilogue with
    | .next t => t.mem.merge.map (fun e => (e.block, e.data, e.mask)) == [(carrelAt 0 0x3000, 0x3F800000, 0xF)]
    | _ => false) = true := by decide +kernel

/-- A vector or copy command of these words at the head of its queue. -/
def vec (ws : List Nat) : State := { C { vxq := [qc ws], granted := [.vx] } with mem := tds {} }
def cpy (ws : List Nat) : State := { C { cxq := [qc ws], granted := [.cx] } with mem := tds {} }
/-- A VOP of destination descriptor 1 and source descriptor 2, and one whose operation is reserved. -/
def vopWords (op : Nat) : List Nat := [0x140, 0, 0, 0, 0, 1 + 2 * 2 ^ 16, 2 + 2 * 2 ^ 16, op]
theorem test_witness_vector : Rising (vec (vopWords 0)).clusters ∧ ((vec (vopWords 0)).cl 0).head .vx 0x40 = some (qc (vopWords 0)) ∧
    (touched (vec (vopWords 0)) ((vopTds (cmd (vopWords 0))).map (tdBlock 0))).mem.newPoison = [] ∧
    (vec (vopWords 0)).mem.sound ((vopTds (cmd (vopWords 0))).map (tdBlock 0)) = true ∧
    (vopPlan 0 (vec (vopWords 0)) (cmd (vopWords 0))).check = stOk ∧
    ((vopPlan 0 (vec (vopWords 0)) (cmd (vopWords 0))).work (vec (vopWords 0)).mem).1.newPoison = [] ∧
    (vopPlan 0 (vec (vopWords 255)) (cmd (vopWords 255))).check ≠ stOk ∧
    vfMode (cmd [0, 0, 0, 0, 0, 0, 0, 1]) ≠ 0 := by unfold Rising; decide +kernel
theorem test_witness_vector_rows : ∀ op ∈ [0x41, 0x42, 0x43, 0x44, 0x45, 0x46, 0x47],
    ((vec [op + 256]).cl 0).head .vx op = some (qc [op + 256]) := by decide +kernel
/-- A COPY of 64 bytes, and one of none. -/
def copyWords (n : Nat) : List Nat := [0x280, 0, 0, 0, 0, 0x1000, 0, 0x2000, 0, n]
theorem test_witness_copy : Rising (cpy (copyWords 64)).clusters ∧ ((cpy (copyWords 64)).cl 0).head .cx 0x80 = some (qc (copyWords 64)) ∧
    (copyPlan 0 (cpy (copyWords 64)) (cmd (copyWords 64))).check = stOk ∧
    ((copyPlan 0 (cpy (copyWords 64)) (cmd (copyWords 64))).work (cpy (copyWords 64)).mem).1.newPoison = [] ∧
    (copyPlan 0 (cpy (copyWords 0)) (cmd (copyWords 0))).check ≠ stOk := by unfold Rising; decide +kernel
theorem test_witness_copy_rows : ∀ op ∈ [0x81, 0x82, 0x83, 0x84, 0x85], ((cpy [op + 512]).cl 0).head .cx op = some (qc [op + 512]) := by
  decide +kernel

/-- A function load from slot image at the base of descriptor 1, whose header is good: id 1, kind 0. -/
def loadWords : List Nat := [0x141, 0, 0, 0, 0, 1 * 2 ^ 16]
def image : MemSt :=
  { bytes := [(70368744177729, 0x10), (70368744181760, 1)]
    codes := [(1099511627777, 0x01010000000000001000), (1099511627840, 0x01010000000000000001)] }
theorem test_image : image = (({} : MemSt).writeWhole P.mx (tdBlock 0 1) 0x1000).writeWhole P.mx (carrelAt 0 0x1000 / 64) 1 := by decide +kernel
def loading : State := { C { vxq := [qc loadWords], granted := [.vx] } with mem := image }
theorem test_witness_load : Rising loading.clusters ∧ (loading.cl 0).head .vx 0x41 = some (qc loadWords) ∧ vfMode (cmd loadWords) = 0 ∧
    vfuncOpOk (cmd loadWords) = true ∧ vRsvOk (cmd loadWords) = true ∧ tOwnOk (loading.mem.td 0 (vS0 (cmd loadWords))) = true ∧
    tBase (loading.mem.td 0 (vS0 (cmd loadWords))) = 0x1000 ∧ 0x1000 + 12352 ≤ carrelSize ∧ loading.mem.newPoison = [] ∧
    headerOk (BitVec.ofNat 512 (loading.mem.blockNat (carrelAt 0 0x1000 / 64))) loading.numerics = true := by unfold Rising; decide +kernel
/-- A block of which nothing is listed is met without change. -/
theorem touch_blank (m : MemSt) (x : MemX) (b : Nat) (hm : m.merge = []) (hv : m.vague = []) (hb : ∀ e ∈ m.bytes, e.1 / 64 ≠ b)
    (hc : ∀ e ∈ m.codes, e.1 ≠ b) : m.touch x b = m ∧ m.poisoned b = false := by
  have h0 : ∀ {α : Type} (d : α) (l : Sparse α) (k : Nat), (∀ e ∈ l, e.1 ≠ k) → sget d l k = d := by
    intro α d l
    induction l with
    | nil => intro k _; rfl
    | cons e t ih =>
      intro k h
      have h1 : e.1 ≠ k := h e (by simp)
      simp only [sget, if_neg h1]
      exact ih k (fun e he => h e (by simp [he]))
  have hcode : m.code b = 0 := h0 0 m.codes b hc
  have hdata : m.blockNat b = leNat ((List.range 64).map (fun _ => 0)) := by
    unfold MemSt.blockNat
    refine congrArg leNat (List.map_congr_left (fun i hi => h0 0 m.bytes _ (fun e he => ?_)))
    have := hb e he
    have := List.mem_range.1 hi
    omega
  have hz : decodeBlock (leNat ((List.range 64).map (fun _ => 0))) 0 = .ok := by decide +kernel
  refine ⟨?_, by rw [MemSt.poisoned, hcode]; decide⟩
  have hr : m.reveal b = m := by simp [MemSt.reveal, hv]
  simp only [MemSt.touch, MemSt.commitBlock, hm, List.find?_nil, MemSt.readBlock, hr, hcode, hdata, hz]
theorem test_witness_load_blank : (tdBlock 0 (vS0 (cmd loadWords)) :: blocksOf (carrelAt 0 0x1000) 12352).all (fun b =>
    b == 1099511627777 || b == 1099511627840 || (image.bytes.all (fun e => e.1 / 64 != b) && image.codes.all (fun e => e.1 != b))) = true := by
  decide +kernel
theorem test_witness_load_listed : ∀ b ∈ [1099511627777, 1099511627840], image.touch loading.mx b = image ∧ image.poisoned b = false := by
  decide +kernel
theorem test_witness_load_blocks : ∀ b ∈ tdBlock 0 (vS0 (cmd loadWords)) :: blocksOf (carrelAt 0 0x1000) 12352,
    loading.mem.touch loading.mx b = loading.mem ∧ loading.mem.poisoned b = false := by
  intro b hb
  have h := List.all_eq_true.1 test_witness_load_blank b hb
  simp only [Bool.or_eq_true, beq_iff_eq, Bool.and_eq_true, List.all_eq_true, bne_iff_ne] at h
  obtain (rfl | rfl) | h := h
  · exact test_witness_load_listed _ (by simp)
  · exact test_witness_load_listed _ (by simp)
  · exact touch_blank image loading.mx b rfl rfl h.1 h.2
def resident : LoadJob := { q := qc loadWords, slot := 2, img := { header := 1, value := [], deriv := [] }, due := 2240 }
theorem test_witness_resident : ((C { load := some resident }).cl 0).load = some resident := by decide +kernel

/-! ## Witnesses: memories -/

def entry : MergeEntry := { block := 64, data := 5, mask := 1, since := 21, owners := [] }
def merging : State := { P with mem := { merge := [entry] } }
theorem test_witness_merge : merging.mem.merge.find? (fun e => e.block == 64) = some entry ∧
    ((merging.runTo (entry.since + 128 * nsT)).mem.commitOut (merging.runTo (entry.since + 128 * nsT)).mx entry).newPoison = [] := by
  decide +kernel
theorem test_witness_scrub : (SramStore.carrel 0).bankOk 31 = true ∧ P.sramOn (.carrel 0) = true ∧ sget 0 P.mem.scrubRow (sramBankNo (.carrel 0) 31) + 1 < bankRows ∧
    (P.mem.scrub P.mx (sramRowAt (.carrel 0) 31 0 / 64)).newPoison = [] := by decide +kernel
def scrubbing : State := { P with mem := { hbmCfg := [(0, 0x101)] }, reset_ := { pd := 2 ^ 36 } }
theorem test_witness_hbm_scrub : scrubbing.inReset 0 = false ∧ bit scrubbing.reset_.pd 36 = true ∧
    bit (sget scrubCfgReset scrubbing.mem.hbmCfg 0) 8 = true ∧ sget 0 scrubbing.mem.hbmNext 0 + 1 < stackBlocks ∧
    decodeBlock (scrubbing.mem.blockNat 0) (scrubbing.mem.code 0) = .ok ∧ scrubbing.stackAt 0 0 = 0 ∧
    ((scrubbing.mem.commitBlock scrubbing.mx 0).reveal 0).newPoison = [] ∧ ((scrubbing.mem.commitBlock scrubbing.mx 0).reveal 0).vague = [] := by
  decide +kernel
def ageReq (st src : Nat) : MemReq := { addr := 0x1000, stamp := BitVec.ofNat 32 st, source := src }
def aged1 : State := { P with mem := { aged := [(pseudoNo P.layout 0x1000, ageReq 9 1)] } }
theorem test_witness_aged : reqOk (ageReq 9 1).addr = true ∧ (∀ x ∈ P.mem.aged, x.1 ≠ pseudoNo P.layout 0x1000) ∧
    aged1.mem.aged = [(pseudoNo aged1.layout 0x1000, ageReq 9 1)] ∧ memReqBefore (ageReq 8 7) (ageReq 9 1) = true ∧
    memReqBefore (ageReq 9 2) (ageReq 9 1) = false := by decide +kernel

/-! ## Witnesses: halts, forwarded commands, contexts, updates -/

/-- Cluster 0 of a running task has halted; cluster 1 runs on. -/
def halt0 : HaltInfo := { code := 0x101, cmdAddr := 0x40, flags := 0, due := 0 }
def haltedTask : State :=
  T { P with clusters := [(0, { halt := some halt0, cur := { mode := .halted } }), (1, { clasps := [(3, 7)], cur := { mode := .running } })] } (task .running)
theorem test_witness_halt : haltedTask.haltOf 0 = some (task .running, halt0) ∧ haltedTask.regOn = true ∧
    ((task .running).firstHalt 0 halt0).halt = some (0, halt0) ∧ haltedTask.ctxsOf (haltedTask.clPart 0) 0 = [] ∧ haltedTask.bindings = [] ∧
    1 ∈ ((task .running).firstHalt 0 halt0).clusters ∧ (haltedTask.cl 1).prog = 0 ∧ (haltedTask.cl 1).halt = none ∧
    Rising haltedTask.clusters ∧ ((task .running).firstHalt 0 halt0).clusters.Nodup := by unfold Rising; decide +kernel

/-- A forwarded command of cluster 0 at its hub. -/
def hc (ws : List Nat) : HubCmd := { q := qc ws, prog := 0 }
def H (ws : List Nat) : State := C { hubq := [hc ws] }
/-- The same over memory whose block 0x40 holds `d`. -/
def HM (ws : List Nat) (d : Nat) : State := { H ws with mem := ({} : MemSt).writeWhole P.mx 0x40 d }
/-- A RED_OPEN of `n` elements with its plan at `a`. -/
def openWords (n a : Nat) : List Nat := [0x3D0, 0, 0, 0, 0, 0, 0, n, 0, 0, a]
def okPlan : Nat := 2 ^ 8 + 2 ^ 32
theorem test_witness_open : (H (openWords 8 0x1000)).hubNext 0 0xD0 = some (hc (openWords 8 0x1000)) ∧
    (H (openWords 0 0x1000)).openBad 0 (hc (openWords 0 0x1000)) = true ∧ (H (openWords 8 0x1000)).openBad 0 (hc (openWords 8 0x1000)) = false ∧
    (H (openWords 8 0x1000)).rangeOk 0 0x1000 64 = true ∧ (H (openWords 8 0x1000)).clPart 0 = 0 ∧
    (H (openWords 8 ledgerBase)).rangeOk 0 (ledgerBase + ledgerBase) 64 = false ∧
    roResult (cmd (openWords 8 0x1000)) = 0 ∧ pLogSize (BitVec.ofNat 512 okPlan) = 0 := by decide +kernel
theorem test_witness_open_plan : ((HM (openWords 8 0x1000) okPlan).hubRead 0 0x1000 64).2.map leNat = some okPlan ∧
    (H []).planOk 0 (BitVec.ofNat 512 okPlan) 0 false = true ∧ (H []).roomFor 0 1 = true ∧ (H []).planOk 0 0 0 false = false := by decide +kernel
def poisonedPlan : State := { H (openWords 8 0x1000) with mem := { codes := [(0x40, 127 * 2 ^ 73)] } }
theorem test_witness_open_poisoned : (poisonedPlan.hubRead 0 0x1000 64).2 = none := by decide +kernel

/-- A context of job 0 and eight elements. -/
def ctx0 (topk : Bool) (st : CtxSt) : Ctx :=
  { part := 0, prog := 0, job := 0, registrar := false, ctx := 0, gradient := false, topk := topk, k := 1, twin := false, step := 0
    elements := 8, deadline := 0, plan := BitVec.ofNat 512 okPlan, result := 0, st := st }
def withCtx (s : State) (x : Ctx) : State := { s with red := { s.red with ctxs := [x] } }
/-- A contribution of `n` elements from address 0x2000 and, for the sparse form, its residue at 0x3000. -/
def contribWords (op n res : Nat) : List Nat := [op, 0, 0, 0, 0, 0, 0x2000, 0, 0, n, res]
theorem test_witness_contrib : ∀ x ∈ [(0xD1, false, 0), (0xD2, true, 0x3000)],
    (H (contribWords (x.1 + 768) 8 x.2.2)).hubNext 0 x.1 = some (hc (contribWords (x.1 + 768) 8 x.2.2)) ∧
    (H (contribWords (x.1 + 768) 8 x.2.2)).ctx? 0 0 0 = none ∧
    (withCtx (H (contribWords (x.1 + 768) 8 x.2.2)) (ctx0 x.2.1 .open_)).ctx? 0 0 0 = some (ctx0 x.2.1 .open_) ∧
    (withCtx (H []) (ctx0 x.2.1 .open_)).contribBad 0 (hc (contribWords (x.1 + 768) 0 x.2.2)) (ctx0 x.2.1 .open_) x.2.1 = true ∧
    (withCtx (H []) (ctx0 x.2.1 .open_)).contribBad 0 (hc (contribWords (x.1 + 768) 8 x.2.2)) (ctx0 x.2.1 .open_) x.2.1 = false ∧
    (H []).rangeOk 0 0x2000 32 = true ∧ (H []).rangeOk 0 0x3000 64 = true ∧ (H []).rangeOk 0 (ledgerBase * 2) 32 = false ∧
    hRemote (cmd (contribWords (x.1 + 768) 8 x.2.2)) = false := by decide +kernel
def waitWords : List Nat := [0x3D3]
def underWait : HubCmd := { hc waitWords with started := true }
theorem test_witness_wait : (H waitWords).hubNext 0 0xD3 = some (hc waitWords) ∧ (H waitWords).ctx? 0 0 0 = none ∧
    (withCtx (H waitWords) (ctx0 false .open_)).ctx? 0 0 0 = some (ctx0 false .open_) ∧ wz (cmd waitWords) 5 13 19 = true ∧
    wordsFrom (cmd waitWords) 6 = true ∧
    (withCtx (H waitWords) (ctx0 false .failed)).settledCtx 0 underWait = some (ctx0 false .failed) ∧
    (withCtx (H waitWords) (ctx0 false .complete)).settledCtx 0 underWait = some (ctx0 false .complete) := by decide +kernel

/-- A RING_PASS of `n` bytes, forwarded with `fwd` 1. -/
def rpWords (n off fwd cnt dst : Nat) : List Nat := [0x3D4, 0, 0, fwd * 2 ^ 15, 0, 0x2000, 0, n, off, cnt * 2 ^ 9 + fwd * 2 ^ 19, dst]
theorem test_witness_ring : (H (rpWords 64 0 0 1 0)).hubNext 0 0xD4 = some (hc (rpWords 64 0 0 1 0)) ∧ ringPassOk (cmd (rpWords 64 0 0 1 0)) = true ∧
    ringPassOk (cmd (rpWords 63 0 0 1 0)) = false ∧ (H []).rangeOk 0 0x2000 64 = true ∧ rpOff (cmd (rpWords 64 0 0 1 0)) + 64 ≤ carrelSize ∧
    (∀ d ∈ span (rpFirst (cmd (rpWords 64 0 0 1 0))) (rpCount (cmd (rpWords 64 0 0 1 0))), (H []).rangeOk 0 (carrelAt d 0) 64 = true) ∧
    rpFwd (cmd (rpWords 64 0 0 1 0)) = false ∧ rpCount (cmd (rpWords 64 0 0 1 0)) = 1 ∧ (H []).rangeOk 0 (2 * ledgerBase) 64 = false ∧
    rpFwd (cmd (rpWords 64 0 1 0 0x4000)) = true ∧ ringPassOk (cmd (rpWords 64 0 1 0 0x4000)) = true ∧
    rpCount (cmd (rpWords 64 0 1 0 0x4000)) = 0 := by decide +kernel
/-- The package enables every feature, as at the factory. -/
def feat (s : State) : State := { s with panel := { s.panel with copyA := some factoryCatalogue } }
theorem test_witness_features : (H []).feature featRing = false ∧ (feat (H (rpWords 64 0 0 1 0))).feature featRing = true ∧
    (feat (H (rpWords 64 0 0 1 0))).hubNext 0 0xD4 = some (hc (rpWords 64 0 0 1 0)) ∧ (feat (H [])).rangeOk 0 0x2000 64 = true ∧
    (feat (H [])).rangeOk 0 (carrelAt 0 0) 64 = true := by decide +kernel
/-- The package is under notice, or its stream has a counter. -/
def noticedTo (s : State) (j p : Nat) : State := { s with fabric := { s.fabric with notices := [(j, p)] } }
def counted (s : State) (k : Stream) : State := s.onHub 0 (fun h => { h with outStreams := [{ stream := k, count := 0, prog := 0 }] })
theorem test_witness_ring_streams : (noticedTo (feat (H (rpWords 64 0 1 0 0x4000))) 0 0).noticed 0 0 = true ∧ (feat (H [])).noticed 0 0 = false ∧
    (feat (H [])).streamOpen 0 0 ((H []).streamTo 0 0 0) = false ∧
    (counted (feat (H (rpWords 64 0 1 0 0x4000))) ((H []).streamTo 0 0 0)).streamOpen 0 0 ((H []).streamTo 0 0 0) = true ∧
    (feat (H (rpWords 64 0 1 0 0x4000))).hubNext 0 0xD4 = some (hc (rpWords 64 0 1 0 0x4000)) ∧
    (H []).named 0 0 = 0 := by decide +kernel

/-- A SEND or RECV of `n` bytes from 0x2000 to 0x3000, word 3 as given, the other package in word 10. -/
def srWords (op n w3 pkg : Nat) : List Nat := [op, 0, 0, w3, 0, 0x2000, 0, 0x3000, 0, n, pkg]
theorem test_witness_send : (H (srWords 0x3D5 64 0 0)).hubNext 0 0xD5 = some (hc (srWords 0x3D5 64 0 0)) ∧
    sendRecvOk (cmd (srWords 0x3D5 0 0 0)) = false ∧ sendRecvOk (cmd (srWords 0x3D5 64 0 0)) = true ∧ wordsFrom (cmd (srWords 0x3D5 64 0 0)) 10 = true ∧
    (H []).rangeOk 0 0x2000 64 = true ∧ (H []).rangeOk 0 0x3000 64 = true ∧ hRemote (cmd (srWords 0x3D5 64 0 0)) = false ∧
    hRemote (cmd (srWords 0x3D5 64 0x8000 0)) = true := by decide +kernel
/-- This package and its neighbour on the first axis; jobs 0 and 1 are slices of both; link 0 belongs to port 0. -/
def slice2 : BitVec 256 := BitVec.ofNat 256 (1 + 15 * 8 + 2 * 2 ^ 32 + 2 ^ 38 + 2 ^ 44)
def twoPkgs : Plan := { header := BitVec.ofNat 512 (2 ^ 45), jobs := [(0, slice2), (1, slice2)], links := [(0, 8 + 2 ^ 4)] }
def fab (s : State) : State := { s with fabric := { s.fabric with plan := twoPkgs } }
/-- Contributions to chunk 1, which package 1 homes, bound for it, over a stream with a counter or none. -/
def farWords (op res : Nat) : List Nat := [op, 0, 0, 0x18000, 0, 0, 0x2000, 0, 256, 8, res]
def farCtx (topk : Bool) : Ctx :=
  { ctx0 topk .open_ with elements := 264, plan := BitVec.ofNat 512 (1 + okPlan + 2 * 2 ^ 130) }
def farAt (op res : Nat) (topk : Bool) : State := withCtx (fab (H (farWords op res))) (farCtx topk)
theorem test_witness_contrib_remote : ∀ x ∈ [(0xD1, false, 0), (0xD2, true, 0x3000)],
    (farAt (x.1 + 768) x.2.2 x.2.1).hubNext 0 x.1 = some (hc (farWords (x.1 + 768) x.2.2)) ∧
    (farAt (x.1 + 768) x.2.2 x.2.1).ctx? 0 0 0 = some (farCtx x.2.1) ∧ hRemote (cmd (farWords (x.1 + 768) x.2.2)) = true ∧
    (farAt (x.1 + 768) x.2.2 x.2.1).contribBad 0 (hc (farWords (x.1 + 768) x.2.2)) (farCtx x.2.1) x.2.1 = false ∧
    (farAt (x.1 + 768) x.2.2 x.2.1).rangeOk 0 0x2000 32 = true ∧ (farAt (x.1 + 768) x.2.2 x.2.1).rangeOk 0 0x3000 64 = true ∧
    (farAt (x.1 + 768) x.2.2 x.2.1).named 0 1 = 1 ∧
    (farAt (x.1 + 768) x.2.2 x.2.1).streamOpen 0 0 ((farAt (x.1 + 768) x.2.2 x.2.1).streamTo 0 1 0) = false ∧
    ((farAt (x.1 + 768) x.2.2 x.2.1).onHub 0 (fun h => { h with
      outStreams := [{ stream := (H []).streamTo 0 1 0, count := 0, prog := 0 }] })).streamOpen 0 0 ((H []).streamTo 0 1 0) = true := by decide +kernel
theorem test_witness_recv : (H (srWords 0x3D6 64 0 1)).hubNext 0 0xD6 = some (hc (srWords 0x3D6 64 0 1)) ∧
    wz (cmd (srWords 0x3D6 64 0 1)) 10 13 19 = true ∧ wfld (cmd (srWords 0x3D6 64 0 1)) 10 0 13 = 1 ∧ (H []).ownId ≠ 1 ∧
    sendRecvOk (cmd (srWords 0x3D6 0 0 1)) = false ∧ (fab (H [])).plan.member 0 1 = true ∧ (fab (H [])).ownId = 0 ∧
    (noticedTo (fab (H [])) 0 1).noticed 0 1 = true ∧ (fab (H [])).noticed 0 1 = false ∧ hRemote (cmd (srWords 0x3D6 64 0 1)) = false := by decide +kernel

/-- An UPD_APPLY of context 0 and the descriptor at 0x4000, and an UPD_INSTALL of `n` groups. -/
def uaWords : List Nat := [0x3E0, 0, 0, 0, 0, 0, 0x4000]
def uiWords (n : Nat) : List Nat := [0x3E1, 0, 0, 0, 0, 0x2000, 0, 0x4000, 0, 0, n]
def bnd (st : BindSt) (step : BitVec 20) : Binding :=
  { id := 3, part := 0, cluster := 0, cmdAddr := 0x1000, cmd := cmd uaWords, stamp := 0, desc := 0x4000, job := 0, ctx := 0, prog := 0, st := st
    stepCtl := false, hstep := step, elements := 8, result := 0, chunks := [] }
def bound (s : State) (b : Binding) : State := s.setBindings [b]
theorem test_witness_apply : (H uaWords).hubNext 0 0xE0 = some (hc uaWords) ∧ updApplyRsv (cmd uaWords) = true ∧
    updApplyRsv (cmd [0x3E0, 0, 0, 0, 0, 2 ^ 31]) = false ∧ (H uaWords).ctx? 0 0 (uaCtx (cmd uaWords)) = none ∧
    (withCtx (H uaWords) (ctx0 false .open_)).ctx? 0 0 0 = some (ctx0 false .open_) ∧ (ctx0 false .open_).bound = false ∧
    (withCtx (H uaWords) { ctx0 false .open_ with bound := true }).ctx? 0 0 0 = some { ctx0 false .open_ with bound := true } ∧
    (∃ y ∈ (bound (H []) (bnd .waiting 1)).bindings, y.desc = uaDesc (cmd uaWords) ∧ (y.holds = true ∨ y.st = .waiting) ∧
      y.hstep ≠ (ctx0 false .open_).step) ∧
    (∀ y ∈ (H []).bindings, y.desc ≠ uaDesc (cmd uaWords)) := by decide +kernel
/-- One waiting binding; two, the younger of another stamp listed first; and one behind a binding of another step. -/
def younger : Binding := { bnd .waiting 0 with id := 4, stamp := 5 }
theorem test_witness_waiting : (bound P (bnd .waiting 0)).bindings.filter (fun b => b.desc == 0x4000 && b.st == .waiting) = [bnd .waiting 0] ∧
    (∀ y ∈ (bound P (bnd .waiting 0)).bindings, y.desc = 0x4000 → y.hstep ≠ (bnd .waiting 0).hstep → y.holds = false) ∧
    (P.setBindings [younger, bnd .waiting 0]).bindings.filter (fun b => b.desc == 0x4000 && b.st == .waiting) = [younger, bnd .waiting 0] ∧
    stampLt (bnd .waiting 0).stamp younger.stamp = true ∧ stampLt younger.stamp (bnd .waiting 0).stamp = false ∧
    (P.setBindings [bnd .bound 1, bnd .waiting 0]).bindings.filter (fun b => b.desc == 0x4000 && b.st == .waiting) = [bnd .waiting 0] ∧
    (∃ y ∈ (P.setBindings [bnd .bound 1, bnd .waiting 0]).bindings, y.desc = 0x4000 ∧ y.holds = true ∧ y.hstep ≠ (bnd .waiting 0).hstep) := by
  decide +kernel
/-- A descriptor of rule 3 with 16 elements at 0x4000, its auxiliary region at 0x8000. -/
theorem test_witness_install : (H (uiWords 1)).hubNext 0 0xE1 = some (hc (uiWords 1)) ∧ updInstallOk (cmd (uiWords 0)) = false ∧
    updInstallOk (cmd (uiWords 1)) = true ∧ (H []).rangeOk 0 0x4000 320 = true ∧ (H []).rangeOk 0 (2 * ledgerBase) 320 = false ∧
    ((H []).hubRead 0 0x4000 320).2 = some (List.replicate 320 0) ∧ uRule 0 ≠ 3 := by decide +kernel

def cfg3 : Nat := 3 + 16 * 2 ^ 32 + 0x8000 * 2 ^ 288
def installing : State := { feat (H (uiWords 1)) with mem := ({} : MemSt).writeWhole P.mx 0x100 cfg3 }
theorem test_witness_install_ok : (installing.hubRead 0 0x4000 320).2.map (fun bs => leNat (bs.take 128)) = some cfg3 ∧
    uRule (BitVec.ofNat 1024 cfg3) = 3 ∧ installing.feature featBlockpre = true ∧ installing.hubNext 0 0xE1 = some (hc (uiWords 1)) ∧ 0 + 1 ≤ uCount (BitVec.ofNat 1024 cfg3) / 8 ∧ uCount (BitVec.ofNat 1024 cfg3) / 8 < 0 + 3 ∧
    installing.rangeOk 0 0x2000 256 = true ∧ installing.rangeOk 0 (uAux (BitVec.ofNat 1024 cfg3)) 512 = true ∧
    (installing.installGroups 0 (ownerOf 0 .hub) 0x2000 (0x8000 + 256) 1).2 = true := by decide +kernel

/-- A binding whose region is all applied, frozen or not. -/
def closingB (frozen : Bool) : Binding := { bnd .closing 0 with cfg := if frozen then 8 else 0 }
theorem test_witness_close : ∀ f ∈ [false, true], (bound P (closingB f)).bindings.find? (fun b => b.part == P.partOf 0 && b.st == .closing) = some (closingB f) ∧
    uRow (closingB f).cfg = false ∧ uFrozen (closingB f).cfg = f ∧ ((bound P (closingB f)).hubRead 0 (0x4000 + 256) 64).2 = some (List.replicate 64 0) := by
  decide +kernel

/-- A task under step control whose step has been released and has raised its clasp. -/
def stepTask : Task := { task .running with desc := BitVec.ofNat 2048 (2 ^ 116) }
def stepping (raised : Bool) : State :=
  (T P stepTask).onSrec 0 0 (fun r => { r with released := true, raised := raised, step := 9 })
theorem test_witness_step_close : (stepping false).closeReady 0 0 = false ∧ (stepping true).closeReady 0 0 = true ∧
    (stepping true).taskInSlot 0 0 = some stepTask ∧ (stepping true).stepCtxs 0 0 9 = [] ∧ ((stepping true).srec 0 0).dlSeen = 0 ∧
    ((stepping true).srec 0 0).step = 9 ∧ sget 0 ((stepping true).srec 0 0).verdicts 9 = 0 ∧ (stepping true).partOf 0 = 0 := by decide +kernel

/-- A kept packet, and a context with a logged one. -/
def unit0 : Unit_ := { pkt := pk 4 2, at_ := 0, hub := 0 }
def kept : State := P.onHub 0 (fun h => { h with preopen := [unit0] })
/-- A context whose arrival log, of 4096 bytes from 0x8000, holds that packet at offset 0; and its memory, readable or not. -/
def logPlan : Block := BitVec.ofNat 512 (okPlan + 0x8000 * 2 ^ 48 + 4096 * 2 ^ 96)
def loggedCtx : Ctx := { ctx0 false .open_ with plan := logPlan, log := [unit0], logBytes := 160, logAt := 160 }
def logged : State := withCtx P loggedCtx
def loggedBad : State := { logged with mem := { codes := [(0x200, 127 * 2 ^ 73)] } }
theorem test_witness_log : (32 + unit0.pkt.payload.length = 160) ∧ (160 + pLogSize logPlan - (0 + 160)) % pLogSize logPlan = 0 ∧
    0 + 160 ≤ pLogSize logPlan ∧ pLogBase logPlan = 0x8000 ∧ (logged.read 0x8000 160).2 = some (List.replicate 160 0) ∧
    (loggedBad.read 0x8000 160).2 = none := by decide +kernel
theorem test_witness_timers : (kept.hub 0).preopen = unit0 :: [] ∧ (P.hub 0).preopen = [] ∧ P.retakable 0 = none ∧ P.red.ctxs = [] ∧
    (logged.retakable 0).map (fun x => x.2) = some unit0 ∧
    (withCtx P (ctx0 false .open_)).red.ctxs = [ctx0 false .open_] ∧ (ctx0 false .open_).part = P.partOf 0 ∧
    (ctx0 false .open_).deadline ≤ ((withCtx P (ctx0 false .open_)).runToNow 0).now := by decide +kernel

/-! ## Witnesses: links and packets -/

/-- Link 0 as given, in the fabric of two packages. -/
def LK (k : Link) : State := { fab P with fabric := { (fab P).fabric with links := [(0, k)] } }
def up : State := LK { up := true, port := 0 }
theorem test_witness_link : (arr (pk 0 2)).pkt.wf 0 = true ∧ (∀ k ∈ [1, 3, 10], (pk k 0).wf k = true) ∧ (∀ k ∈ [2, 4, 5, 6, 7, 8], (pk k 2).wf k = true) ∧
    up.mem.newPoison = [] ∧ up.commitDue = false ∧ (up.link 0).up = true ∧ (P.link 0).up = false ∧ (pk 0 2).seq = ((acked up (arr (pk 0 2))).link 0).rxSeq + 1 ∧
    { pk 0 2 with seq := 2 }.seq ≠ ((acked up (arr { pk 0 2 with seq := 2 })).link 0).rxSeq + 1 := by decide +kernel
theorem test_witness_replay : Rising up.fabric.links ∧
    ((LK { up := true, replayAt := List.replicate 15 0 }).link 0).replayAt.length = 15 ∧
    15 ≤ (((LK { up := true, replayAt := List.replicate 15 0 }).link 0).replayAt.filter (fun t => decide (up.time.ticks < t + 1000000 * nsT))).length ∧
    (((LK { up := true, replayAt := List.replicate 14 0 }).link 0).replayAt.filter (fun t => decide (up.time.ticks < t + 1000000 * nsT))).length < 15 := by
  unfold Rising; decide +kernel
theorem test_accepted : ∀ k ∈ [0, 1, 2, 3, 4, 5, 6, 7, 8, 10], Accepted up (arr (pk k 2)) := by unfold Accepted; decide +kernel
/-- Packets that are dropped: of a reserved kind, of an invalid job, of a wrong epoch, from no member, and to no member. -/
theorem test_witness_drops : (pk 11 0).kind.toNat = 11 ∧ jValid ((heard up (arr { pk 0 2 with job := 5 })).jobEntry 5) = false ∧
    (heard up (arr (pk 0 2))).epochOk { pk 0 2 with epoch := 7 } = false ∧ (heard up (arr (pk 0 2))).plan.member 1 2 = false ∧
    (heard up (arr (pk 0 2))).plan.member 1 1 = true ∧ up.signalsFull (pk 3 0) = false ∧
    (heard up (arr (pk 0 2))).linkDrop 0 (pk 0 2) = none ∧ (heard up (arr (pk 0 2))).epochOk (pk 0 2) = true ∧
    (heard up (arr (pk 0 2))).nextHop 0 (some ((heard up (arr (pk 0 2))).plan.portOf 0)) (pk 0 2) = .land ∧
    (heard up (arr (pk 0 2))).landOk { pk 0 2 with addr := 0xFFFFFFFFFFFF } = false ∧ (heard up (arr (pk 0 2))).landOk (pk 0 2) = true := by decide +kernel
/-- The partition of job 1 resets on a member-down notice; and a hub that no ring edge leads from, for a job of another quadrant. -/
def noticeResetting : State := { up with reset_ := { parts := [(0, some { quads := 15, phase := 1, cause := 6, from_ := 0 })] } }
def quarters (q : Nat) : State := { up with
  stw := { memcfgOn := 4, memcfg := 4 }
  fabric := { up.fabric with plan := { twoPkgs with jobs := [(1, BitVec.ofNat 256 (1 + q * 8 + 2 * 2 ^ 32 + 2 ^ 38 + 2 ^ 44))] } } }
theorem test_witness_notice_reset : jValid ((heard noticeResetting (arr (pk 0 2))).jobEntry 1) = true ∧
    (heard noticeResetting (arr (pk 0 2))).noticeReset 1 = true ∧ (heard up (arr (pk 0 2))).noticeReset 1 = false ∧
    (heard noticeResetting (arr (pk 0 2))).plan.member 1 1 = true ∧ (heard noticeResetting (arr (pk 0 2))).ownId = 0 ∧
    (match (heard (quarters 2) (arr (pk 0 2))).nextHop 0 (some ((heard (quarters 2) (arr (pk 0 2))).plan.portOf 0)) (pk 0 2) with
      | .none => true | _ => false) = true ∧ (heard (quarters 2) (arr (pk 0 2))).linkDrop 0 (pk 0 2) = none := by decide +kernel
theorem test_accepted_more : Accepted noticeResetting (arr (pk 0 2)) ∧ Accepted (quarters 2) (arr (pk 0 2)) := by
  unfold Accepted; decide +kernel
/-- A packet for package 1 goes out at port 1, where no link is up, or at port 0, where one is. -/
theorem test_witness_hop : (match up.nextHop 0 none { pk 0 2 with dstPkg := 1 } with | .go p _ => p == 0 | _ => false) = true ∧
    up.plan.usedPort 1 0 = true ∧ up.plan.usedPort 1 6 = false ∧
    (match (fab P).nextHop 0 none { pk 0 2 with dstPkg := 1 } with | .none => true | _ => false) = true := by decide +kernel

/-- A context of job 1, and a RECV of package 1 under way. -/
def ctx1 (twin : Bool) : Ctx := { ctx0 false .open_ with job := 1, twin := twin }
def unitCtx (twin : Bool) : State := withCtx up (ctx1 twin)
def recving : State := { up with clusters := [(0, { hubq := [{ hc (srWords 0x3D6 64 0 1) with started := true, left := 64 }] })] }
def rsp : Packet := { pk 2 2 with dstCluster := 0, addr := 0x3000, aux := 64 }
theorem test_witness_landing : ∀ p ∈ [pk 0 2, { pk 1 0 with srcCluster := 4 }, rsp, { pk 3 0 with dstCluster := 0 }, pk 4 2, pk 5 2, pk 6 2, pk 7 2, pk 8 2],
    p.wf p.kind.toNat = true ∧ (heard up (arr p)).linkDrop 0 p = none ∧
    (heard up (arr p)).nextHop 0 (some ((heard up (arr p)).plan.portOf 0)) p = .land ∧ (heard up (arr p)).landOk p = true := by decide +kernel
theorem test_witness_landed : ((heard recving (arr rsp)).cl 0).hubq.any (recvFor rsp) = true ∧ bit rsp.aux 31 = false ∧
    up.signalsFull { pk 3 0 with dstCluster := 0 } = false ∧
    (heard up (arr (pk 4 2))).ctx? 1 (aReg (pk 4 2)) (aCtx (pk 4 2)) = none ∧ redForm (pk 4 2) = true ∧ redForm { pk 4 2 with addr := 2 ^ 47 } = false ∧
    (heard (unitCtx false) (arr (pk 4 2))).ctx? 1 (aReg (pk 4 2)) (aCtx (pk 4 2)) = some (ctx1 false) ∧
    (heard (unitCtx true) (arr (pk 8 2))).ctx? 1 (aReg (pk 8 2)) (aCtx (pk 8 2)) = some (ctx1 true) := by decide +kernel
/-- Quadrant 0 alone runs job 1: its hub's pre-open buffer has room, or has none. -/
def preFull : State := (quarters 1).onHub 0 (fun h => { h with preopen := List.replicate 2048 unit0 })
theorem test_witness_preopen : (heard (quarters 1) (arr (pk 4 2))).preHub (pk 4 2) = 0 ∧ ((heard (quarters 1) (arr (pk 4 2))).hub 0).preopen.length < 2048 ∧
    (heard (quarters 1) (arr (pk 4 2))).linkDrop 0 (pk 4 2) = none ∧ (heard (quarters 1) (arr (pk 4 2))).landOk (pk 4 2) = true ∧
    (heard preFull (arr (pk 4 2))).preHub (pk 4 2) = 0 := by decide +kernel
theorem test_witness_prefull : 2048 ≤ ((heard preFull (arr (pk 4 2))).hub 0).preopen.length := by
  have h : (heard preFull (arr (pk 4 2))).hub 0 = preFull.hub 0 := by decide +kernel
  have h2 : (preFull.hub 0).preopen = List.replicate 2048 unit0 := rfl
  have h3 : (preFull.hub 0).preopen.length = 2048 := by rw [h2, List.length_replicate]
  rw [h]; omega

def powered (k : Link) : State := { LK k with reset_ := { pd := BitVec.ofNat 92 (2 ^ 92 - 2 ^ 64) } }
/-- The beacon of package 1 that the plan expects on link 0, of serial 9, and one of another package. -/
def bcn (id : Nat) : Block := BitVec.ofNat 512 (9 + id * 2 ^ 64 + 2 ^ 77 + 2 ^ 100 + 2 ^ 101)
theorem test_witness_beacon : (powered { training := true }).linkPowered 0 = true ∧ (LK {}).linkPowered 0 = false ∧ bcLoaded 0 = false ∧
    bcLoaded (bcn 1) = true ∧ Rising (powered { heard := true, up := true }).fabric.links ∧ lUsed ((powered {}).plan.link 0) = true ∧
    (powered { heard := true, up := true }).beaconReason 0 (bcn 1) = 0 ∧ (powered { heard := true, up := true }).beaconReason 0 (bcn 2) ≠ 0 ∧
    ((powered { training := true }).link 0).heard = false ∧ ((powered { cls := 3 }).link 0).training = false ∧
    ((powered { cls := 3 }).link 0).cls = 3 := by unfold Rising; decide +kernel
/-- A beacon that matches, of a neighbour that has classified its end and of one that has not yet; and one of a plan that a miswired
link has already heard. -/
theorem test_witness_beacon_class : bcClass (bcn 1) = 1 ∧ bcClass (BitVec.ofNat 512 ((bcn 1).toNat - 2 ^ 101)) ≠ 1 ∧
    (powered { heard := true, up := true }).beaconReason 0 (BitVec.ofNat 512 ((bcn 1).toNat - 2 ^ 101)) = 0 ∧
    ((powered { cls := 2 }).link 0).cls = 2 ∧ bcPlan (bcn 2) = ((powered { cls := 2 }).link 0).peerPlan ∧
    (powered { cls := 2 }).linkPowered 0 = true := by decide +kernel
theorem test_beacon_miswired : (match exec (.beacon 0 (bcn 2) true) (powered { heard := true, up := true }) with
    | .next t => decide ((t.link 0).cls = 2 ∧ (t.link 0).reason = 2 ∧ (t.link 0).peerId = 2)
    | _ => false) = true := by decide +kernel
/-- Two links of port 0, one lost. -/
def bundle : State := { up with fabric := { up.fabric with
  plan := { twoPkgs with links := [(0, 8 + 2 ^ 4), (1, 8 + 2 ^ 4)] }, links := [(0, { up := true, port := 0 }), (1, { up := true, port := 0 })] } }
/-- What LINK_DOWN makes of the link. -/
def downed (s : State) : State := (s.acked 0 0).onLink 0 (fun k => { (if k.cls = 1 then k.train (s.acked 0 0).time.ticks else
  { k with up := false, lost := false, rejoining := false }) with downs := satAdd k.downs 1 })
theorem test_witness_down : (P.link 0).up = false ∧ (P.link 0).lost = false ∧ (up.link 0).named = false ∧ up.mem.newPoison = [] ∧
    (downed up).upLinks 0 = [] ∧ (downed bundle).upLinks 0 = [1] ∧ up.plan.portOf 0 = 0 := by decide +kernel
def rejoin (ps : List Packet) : State := { bundle with fabric := { bundle.fabric with
  links := [(0, { up := true, rejoining := true }), (1, { up := true, replay := ps })] } }
theorem test_witness_rejoin : ((rejoin []).link 0).rejoining = true ∧ (rejoin []).misplaced 0 = false ∧ (rejoin []).plan.portOf 0 = 0 := by decide +kernel
/-- One of the two links holds the packet though the hash chooses the other, whatever the hash. -/
def rejoinB (ps : List Packet) : State := { bundle with fabric := { bundle.fabric with
  links := [(0, { up := true, replay := ps }), (1, { up := true, rejoining := true })] } }
theorem test_witness_misplaced : (rejoin [pk 0 2]).misplaced 0 = true ∨ (rejoinB [pk 0 2]).misplaced 0 = true := by
  have ha : (rejoin [pk 0 2]).upLinks 0 = [0, 1] ∧ (rejoin [pk 0 2]).choice 0 = [1] ∧ ((rejoin [pk 0 2]).link 1).replay = [pk 0 2] := by decide +kernel
  have hb : (rejoinB [pk 0 2]).upLinks 0 = [0, 1] ∧ (rejoinB [pk 0 2]).choice 0 = [0] ∧ ((rejoinB [pk 0 2]).link 0).replay = [pk 0 2] := by decide +kernel
  have hk : ((pk 0 2).kind != 10) = true := by decide
  unfold State.misplaced
  rw [ha.1, ha.2.1, hb.1, hb.2.1]
  simp only [List.any_cons, List.any_nil, Bool.or_false, ha.2.2, hb.2.2, hk, Bool.true_and]
  have h : pickLink [0, 1] (pk 0 2) ≠ some 1 ∨ pickLink [0, 1] (pk 0 2) ≠ some 0 := by
    by_cases hp : pickLink [0, 1] (pk 0 2) = some 1
    · right; rw [hp]; decide
    · exact Or.inl hp
  simpa [bne_iff_ne] using h

/-! ## Witnesses: time -/

def TM (t : TimeSt) : State := { up with time := t, stw := { up.stw with neg := 1 } }
theorem test_witness_time_set : ∀ st ∈ [TimeState.acquire, .locked], (TM { state := st }).dark = false ∧ (TM { state := st }).agreedNow = true ∧
    (TM { state := st }).stw.registrar.st = .running ∧ (TM { state := st }).host.held = [] ∧ (TM { state := st }).time.state = st := by decide +kernel
theorem test_witness_ref : (TM { cfgOn := 9 }).isRoot = true ∧ (TM { cfgOn := 9 }).refSrc = 2 ∧ (TM { cfgOn := 5 }).refSrc = 1 ∧
    (TM { cfgOn := 5 }).isRoot = true ∧ (TM { cfgOn := 2 }).isRoot = false ∧ (TM { cfgOn := 5, setSecs := some 3 }).time.setSecs = some 3 ∧
    (TM { cfgOn := 2, state := .locked }).time.state = .locked ∧ (TM { state := .holdover }).time.state = .holdover := by decide +kernel
theorem test_witness_measure : ∀ x ∈ [((20 : Int), (7 : Nat)), (-20, 6), (21, 7)], ({ everLocked := true, good := x.2 } : TimeSt).state = .acquire ∧
    (x.1.natAbs ≤ 20 ∨ 20 < x.1.natAbs) := by decide
def fedBy (n cap : Nat) (st : TimeState) : State :=
  { TM { cfgOn := 2 + 2 ^ 16, state := st } with fabric := { up.fabric with links := [(0, { up := true, cap := BitVec.ofNat 64 cap, peerId := BitVec.ofNat 13 n })] } }
theorem test_witness_sync : (fedBy 1 0 .locked).timeLinks = [] ∧ (fedBy 1 2 .locked).timeLinks = [0] ∧ (fedBy 1 2 .holdover).parentLink = some 0 ∧
    (fedBy 1 2 .holdover).isRoot = false ∧ (TM { cfgOn := 1 }).isRoot = true ∧ (fedBy 1 2 .locked).parentLink ≠ some 3 ∧
    (∀ code ∈ [0, 2, 3], nfld (leNat (leBytes (0x01 + code * 2 ^ 97) 64)) 97 3 ∈ [0, 2, 3]) := by decide +kernel
/-- A SYSTEM packet of message type `t`, with member 1 or 0 of job 1. -/
def sysPk (t m : Nat) : Packet := { pk 9 1 with job := 0, payload := leBytes (t + m * 2 ^ 16 + 2 ^ 32) 64 }
theorem test_witness_system : ∀ t ∈ [0x01, 0x10, 0x11, 0x12, 0x13, 0x14, 0x15], (sysPk t 1).wfSystem t = true ∧ SystemHere up (arr (sysPk t 1)) := by
  unfold SystemHere Accepted; decide +kernel

/-! ## Witnesses: members and resync -/

theorem test_witness_members : (heard up (arr (sysPk 0x11 1))).ownId ≠ nMember (sysPk 0x11 1).payload ∧
    (heard up (arr (sysPk 0x11 0))).ownId = nMember (sysPk 0x11 0).payload ∧ nJob (sysPk 0x11 0).payload = 1 ∧
    (heard up (arr (sysPk 0x11 0))).jobPart 1 = some 0 ∧ (heard up (arr (sysPk 0x11 0))).plan.member 1 0 = true ∧
    (heard up (arr (sysPk 0x12 0))).plan.member 1 (heard up (arr (sysPk 0x12 0))).ownId = true := by decide +kernel
theorem test_witness_notice : (noticedTo up 1 1).noticed 1 1 = true ∧ up.noticed 1 1 = false ∧ up.plan.member 1 1 = true ∧
    up.plan.member 1 up.ownId = true ∧ 1 ≠ up.ownId ∧ up.resyncWith 1 1 = false := by decide +kernel
def img1 : Image := { img with job := 1 }
def releasing : State := (T P { task .running with image := some img1 }).onSrec 0 0 (fun r => { r with releaseAt := some 4 })
theorem test_witness_release : P.regOn = true ∧ P.mem.newPoison = [] ∧ P.waitingRelease 1 = [] ∧ releasing.waitingRelease 1 = [(0, 0, 4)] ∧
    releasing.regOn = true := by decide +kernel

/-- Job 1 of two packages that are twins. -/
def twins : State := { P with fabric := { plan :=
  { header := BitVec.ofNat 512 (2 ^ 45 + 2 ^ 64 + 2 ^ 77), jobs := [(1, BitVec.ofNat 256 (3 + 15 * 8 + 2 * 2 ^ 32 + 2 ^ 38 + 2 ^ 44))] } } }
def armJob1 : W64 := BitVec.ofNat 64 (2 ^ 5 + 2 ^ 6)
def resyncing (n : BitVec 3) : State := { twins with reset_ := { rsState := n, rsCtl := armJob1, rsReady := some (7, 1) } }
theorem test_witness_resync : rsArm armJob1 = true ∧ rsArm 0 = false ∧ twins.plan.twin = some 1 ∧ up.plan.twin = none ∧ rsJob armJob1 = 1 ∧
    jTwin (twins.jobEntry 1) = true ∧ twins.plan.member 1 twins.ownId = true ∧ twins.noticed 1 1 = false ∧
    (resyncing 1).reset_.rsState = 1 ∧ (resyncing 2).reset_.rsState = 2 ∧ (resyncing 2).reset_.rsLeft = [] ∧
    (resyncing 2).reset_.rsReady = some (7, 1) ∧ twins.dark = false := by decide +kernel

/-! ## Witnesses: the mesh -/

def withEdge (s : State) (e : Nat) (k : Edge) : State := { s with mesh := { s.mesh with edges := [(e, k)] } }
def flit (n : Nat) (ok : Bool) : Flit := { seq := n, data := 5, crcOk := ok, laneError := [] }
def live : Edge := { up := true, sliceUp := 0xF, fwd := { expect := 4 } }
theorem test_witness_flit : sliceOk 72 3 = true ∧ ((withEdge P 72 live).edge 72).up = true ∧ bit ((withEdge P 72 live).edge 72).sliceUp 3 = true ∧
    (flit 3 true).seq < ((withEdge P 72 live).edge 72).fwd.expect ∧ (flit 4 true).seq = ((withEdge P 72 live).edge 72).fwd.expect ∧
    ((withEdge P 72 live).edge 72).fwd.expect < (flit 5 true).seq ∧ ((withEdge P 72 live).edge 72).fwd.early = [] ∧ ((withEdge P 72 live).edge 72).fwd.unacked = [] := by decide +kernel
/-- Backward, flit 3 is behind its turn and 4 in turn; forward, flit 4 is kept by the sender on slice 3. -/
def keeping : Edge := { live with fwd := { expect := 4, unacked := [{ seq := 4, data := 9, slice := 3 }] }, back := { expect := 4 } }
theorem test_witness_flit_kept : ((withEdge P 72 keeping).edge 72).fwd.unacked = [{ seq := 4, data := 9, slice := 3 }] ∧
    ((withEdge P 72 keeping).edge 72).up = true ∧ bit ((withEdge P 72 keeping).edge 72).sliceUp 3 = true ∧
    ((withEdge P 72 keeping).edge 72).fwd.early = [] ∧ (flit 4 true).seq = ((withEdge P 72 keeping).edge 72).fwd.expect ∧
    (flit 3 false).seq < ((withEdge P 72 keeping).edge 72).back.expect ∧ ((withEdge P 72 keeping).edge 72).back.expect ≤ (flit 4 false).seq ∧
    ((withEdge P 72 keeping).edge 72).back.early = [] ∧ ((withEdge P 72 keeping).edge 72).back.unacked = [] := by decide +kernel
/-- Lane 5 of slice 3 has failed: with both spares free, and with both in use. -/
def hurt (spares : List Nat) : Edge := { live with dirs := [(6, { failed := 5 :: spares })] }
theorem test_witness_lanes : (live.live 3) = true ∧ (live.dir 3 false).failed.contains 5 = false ∧ ((hurt []).live 3) = true ∧
    ((hurt []).dir 3 false).pending = some 5 ∧ ((hurt []).dir 3 false).freeSpare = some 0 ∧ ((hurt [64]).dir 3 false).freeSpare = some 1 ∧
    (hurt [64, 65]).beyondRepair 3 = true ∧
    ((withEdge P 72 (hurt [64, 65])).onEdge 72 (fun k => ({ k with retired := setBit k.retired 3 } : Edge).stopSlice 3)).edgeBw 72 ≠ 0 := by
  decide +kernel
def laneRec : Repair := { edge := 72, slice := 3, lane := 5, action := 0, spare := 0, dir := false, time := 0 }
def owed : State := { State.reset with mesh := { unrecorded := [laneRec] } }
theorem test_witness_record : P.mesh.unrecorded = [] ∧ owed.mesh.unrecorded = laneRec :: [] ∧ owed.stw.custodian.st = .running ∧ owed.dark = false ∧
    owed.panel.catalogue.isSome = true := by decide +kernel

/-! ## Witnesses: power, input, temperature -/

/-- The steward serves its pages: the negotiation is agreed. -/
def SV (b : RunSt) : State := { P with stw := { neg := 1, bursar := { st := b } } }
theorem test_witness_pages : (∀ x ∈ [(Proc.bursar, pkgPage + 0x40), (.registrar, stageCtlReg .pkg), (.registrar, stageCtlReg (.part 0)),
      (.custodian, negPage + 0x58), (.custodian, pkgPage + 0x50), (.custodian, pkgPage + 0x180), (.custodian, pkgPage + 0x100),
      (.custodian, negPage + 0x90), (.custodian, pkgPage + 0x60), (.registrar, pkgPage + 0x300), (.registrar, partPage 0 + 0x100),
      (.registrar, partPage 0 + 0x108)], PageServes (SV .running) x.1 x.2) := by unfold PageServes; decide +kernel
theorem test_witness_cap : (SV .restarting).stw.bursar.st = .restarting ∧ (SV .restarting).dark = false ∧ (SV .restarting).agreedNow = true ∧
    (SV .failed).stw.bursar.st = .failed ∧ (SV .running).stw.bursar.st = .running ∧ (SV .running).stw.romOnly = false := by decide +kernel
theorem test_witness_fraction : ∃ p : PowerSt, p.thermalHold = true ∧ p.capEff < 5001 := ⟨{ thermalHold := true }, rfl, by decide⟩

def off (n : Nat) : State := { P with power := { on := false, goodFor := n } }
def sagging (n : Nat) : State := { P with power := { lowFor := n } }
theorem test_witness_input : (off 10000).power.on = false ∧ (off 10000).power.mayStart = true ∧ (off 9999).power.mayStart = false ∧
    P.power.on = true ∧ (∀ v ∈ [440, 560], 440 ≤ v ∧ v ≤ 560) ∧ (600 < 601 ∨ 601 < 400) ∧ (600 < 399 ∨ 399 < 400) ∧
    1000 ≤ (sagging 1000).power.lowFor ∧ (sagging 999).power.lowFor < 1000 := by decide +kernel
def temps (t : Nat) : EnvSample := { dies := List.replicate 65 (some t), inlet := some 30, outlet := some 40, pinW := 1000 }
def after (t : Nat) : PowerSt := (P.power.warm (temps t)).hot (temps t)
theorem test_witness_temperature : (∀ t ∈ [84, 85, 95, 110], wholeSample (temps t) = temps t) ∧ (after 110).tripped (temps 110) = true ∧
    (∀ t ∈ [84, 85, 95], (after t).tripped (temps t) = false) ∧ (∃ t ∈ (temps 85).dies, 85 ≤ reading t) ∧
    (∀ t ∈ (temps 84).dies, reading t < 85) ∧ (∃ t ∈ (temps 95).dies, 95 ≤ reading t) := by decide +kernel

/-! ## Witnesses: staging -/

/-- A check of set 7 of scope 0 for beat C, at beat 0: too late at 5, in time at 6; and another set that waits. -/
def ctlWord : W64 := BitVec.ofNat 64 (7 + 2 ^ 44)
def stagedAt (c : Nat) (run : Option StageRun) : State := { SV .running with stage := { at_ := BitVec.ofNat 64 c, run := run } }
def runOf (go : Bool) (res : BitVec 8) (scope : BitVec 2) : StageRun :=
  { id := 7, job := 0, scope := scope, commit := 6, result := res, ready := true, go := go }
theorem test_witness_check : bit ctlWord 44 = true ∧ bit (0 : W64) 44 = false ∧
    fld (stagedAt 5 none).stage.at_ 0 54 < (stagedAt 5 none).beat + 6 + 2 * (stagedAt 5 none).stageDg (sgScope ctlWord) (sgJob ctlWord) ∧
    (stagedAt 6 none).beat + 6 + 2 * (stagedAt 6 none).stageDg (sgScope ctlWord) (sgJob ctlWord) ≤ fld (stagedAt 6 none).stage.at_ 0 54 ∧
    (stagedAt 6 (some (runOf false 0 0))).stage.run.isSome = true := by decide +kernel
def rootOf (failed : Bool) (res : BitVec 8) : RootRec :=
  { id := 7, scope := 0, job := 0, commit := 6, set := some .pkg, reports := [(0, 0, res, true)], members := [0], failed := failed }
def deciding (a : RootRec) : State := { stagedAt 6 (some (runOf false 0 0)) with roots := [a] }
theorem test_witness_decide : ∀ x ∈ [(false, (0 : BitVec 8)), (true, 0), (false, 1)], (deciding (rootOf x.1 x.2)).regOn = true ∧
    (deciding (rootOf x.1 x.2)).roots.find? (fun a => a.id == 7) = some (rootOf x.1 x.2) ∧ (rootOf x.1 x.2).scope = 0 ∧ (rootOf x.1 x.2).members = [(deciding (rootOf x.1 x.2)).ownId] ∧
    (rootOf x.1 x.2).reports = [((deciding (rootOf x.1 x.2)).ownId, 0, x.2, true)] := by decide +kernel
theorem test_witness_apply_set : ((stagedAt 6 (some (runOf true 0 0))).stageOf .pkg).run = some (runOf true 0 0) ∧
    (((stagedAt 6 none).setStage (.part 1) (fun g => { g with run := some (runOf true 0 0) })).stageOf (.part 1)).run = some (runOf true 0 0) ∧
    ((stagedAt 6 (some (runOf false 1 0))).stageOf .pkg).run = some (runOf false 1 0) := by decide +kernel
/-- Sets that can be read at C, and sets that cannot: a plan outside the carve-out, a list of descriptors outside HBM. -/
def applying (r : StageSet) (good : Bool) : State :=
  let s := (stagedAt 6 none).setStage r (fun g => { g with run := some (runOf true 0 0) })
  let s := s.onPart 1 (fun t => { t with updListStg := if good then 0 else BitVec.ofNat 64 (2 ^ 48 + 2 ^ 64 - 2 ^ 50) })
  { s with fabric := { s.fabric with planStg := if good then 0 else 64 } }
theorem test_witness_readable : ∀ r ∈ [StageSet.pkg, .part 1], (applying r true).applyBehind r (runOf true 0 0) = false ∧
    (applying r false).applyBehind r (runOf true 0 0) = false ∧ ((applying r false).stageOf r).run = some (runOf true 0 0) ∧
    (((applying r true).runToNow 6144).setReadable r).2 = true ∧ (((applying r false).runToNow 6144).setReadable r).2 = false := by decide +kernel
def graced : State := { P with fabric := { prevEpoch := [(1, some (4, 9))] } }
theorem test_witness_grace : sget none P.fabric.prevEpoch 1 = none ∧ sget none graced.fabric.prevEpoch 1 = some (4, 9) := by decide
def stagePk (t : Nat) : Packet := { pk 9 1 with job := 0, payload := leBytes (t + 2 ^ 142) 64 }
theorem test_witness_stage_messages : ∀ t ∈ [2, 3, 4], (stagePk t).wfSystem t = true ∧ smRemote (stagePk t).payload = true ∧ SystemHere up (arr (stagePk t)) := by
  unfold SystemHere Accepted; decide +kernel
theorem test_witness_go : (stagedAt 6 (some (runOf false 1 1))).stage.run = some (runOf false 1 1) ∧ (runOf false 1 1).scope = 1 ∧
    (stagedAt 6 none).now < ((runOf false 1 1).commit - 2) * 1024 ∧
    ({ stagedAt 6 none with time := { now := 4096 * 21 } } : State).now = ((runOf false 1 1).commit - 2) * 1024 ∧ (3 : W32) ≠ (runOf false 1 1).id ∧
    (runOf false 1 1).result ≠ 0 := by decide +kernel
theorem test_witness_go_parts : ∀ p : Nat, ((stagedAt 6 (some (runOf false 1 1))).prt p).stage.run = none := fun _ => rfl

/-! ## Witnesses: resets, archive, firmware, security -/

/-- Quadrant 0's partition, or the package, in a phase of its reset. -/
def rec (n : BitVec 4) : PartReset := { quads := 15, phase := n, cause := 1, from_ := 0 }
def resetting (n : BitVec 4) : State := { P with reset_ := { parts := [(0, some (rec n))] } }
def pkgResetting (n : BitVec 4) (p : PowerSt) : State := { P with power := p, reset_ := { pkg := some (rec n) } }
theorem test_witness_reset_write : P.dark = false ∧ (off 0).dark = true ∧ fld (0xD50C : W64) 8 8 = 0xD5 ∧ bit (0xD50C : W64) 3 = true ∧
    bit (0xD504 : W64) 3 = false ∧ bit (0xD504 : W64) 2 = true ∧ fld (0xD404 : W64) 8 8 ≠ 0xD5 := by decide +kernel
theorem test_witness_reset_phases : (∀ n ∈ [1, 2, 4, 5, 8, 9], sget none (resetting n).reset_.parts 0 = some (rec n)) ∧
    P.mem.newPoison = [] ∧ (∀ n ∈ [1, 2, 3, 6, 7], (pkgResetting n {}).reset_.pkg = some (rec n)) ∧ (∀ n ∈ [3, 6, 7], ((pkgResetting n {}).runTo 0).power.mayBoot = true ∧
    ((pkgResetting n { pinLow := true }).runTo 0).power.mayBoot = false) ∧
    (({ resetting 5 with stw := { custodian := { st := .restarting } } } : State).runTo 0).stw.custodian.st = .restarting := by decide +kernel
theorem test_witness_reset_start : Rising P.reset_.parts ∧ P.inReset (P.partOf 2) = false := by unfold Rising; decide +kernel
theorem test_witness_archive : bit (5 : W64) 2 = true ∧ P.reset_.arBusy = none ∧ bit (3 : W64) 2 = false ∧ P.inCarve 0 archiveSlotBytes = false ∧
    ({ P with reset_ := { arBusy := some (1, 0) } } : State).reset_.arBusy = some (1, 0) := by decide +kernel
/-- A carve-out of 1 GiB; an archived reset, and attestation agreed, with buffers at its first byte. -/
def carved : State := { P with
  stw := { memcfgOn := 8, attBusy := some (1, 1, (P.carve.2 - 2 ^ 30), 0), agreed := 2 ^ 69, lifecycle := 1, certsHeld := true }
  reset_ := { arBusy := some (1, P.carve.2 - 2 ^ 30), archive := [(1, some { seq := 0, time := 0, qmask := 1, package := false, cause := 1, entries := [] })] } }
theorem test_witness_carved : carved.inCarve (P.carve.2 - 2 ^ 30) archiveSlotBytes = true ∧ carved.stw.custodian.st = .running ∧
    carved.dark = false ∧ (sget none carved.reset_.archive (1#2).toNat).isSome = true ∧ carved.custodianOn = true ∧ carved.attestAgreed = true ∧
    carved.inCarve (P.carve.2 - 2 ^ 30) (carved.reportBytes 1 0).length = true ∧ carved.stw.lifecycle = 1 := by decide +kernel
def proc0 (k : FwProc) (clock : Nat) : State := { P with stw := { custodian := k, bursar := k, registrar := k }, time := { ticks := clock } }
theorem test_witness_watchdog : (proc0 {} 0).procUp .custodian = true ∧ ((proc0 {} 0).proc .custodian).st = .running ∧
    (([] : List Nat) ++ [0]).length < 3 ∧ ((proc0 {} 0).proc .custodian).restarts.length < 2 ∧ (off 0).procUp .custodian = false ∧ ((proc0 { st := .failed } 0).proc .bursar).st = .failed ∧
    ((proc0 { st := .restarting } 0).proc .bursar).st = .restarting ∧ procBound .bursar * nsT < procBound .bursar * nsT + 1 ∧
    (proc0 { st := .restarting } 0).host.held = [] ∧ procBound .bursar * nsT ≤ 0 + procBound .bursar * nsT := by decide +kernel
theorem test_witness_negotiation : (SV .running).ringsOn = false ∧
    ((SV .running).onPart 0 (fun t => { t with subq := 0x24 })).ringsOn = true ∧ 4 < fld (5 : W32) 0 3 ∧ fld (4 : W32) 0 3 ≤ 4 ∧
    bit (SV .running).stw.ucie 1 = true ∧ bit ({ SV .running with stw := { ucie := 1 } } : State).stw.ucie 1 = false := by decide +kernel
def committing : State := { P with stw := { svnBusy := some 5, svn := [3, 4, 5] } }
theorem test_witness_svn : fld (8 : W64) 0 3 = 0 ∧ fld (5 : W64) 0 3 ≠ 0 ∧ committing.custodianOn = true ∧ committing.stw.svnBusy = some 5 := by
  decide +kernel
def attesting (op : BitVec 2) (agreed : BitVec 256) : State := { P with stw := { attBusy := some (op, 1, 0, 0), agreed := agreed } }
theorem test_witness_attest : P.stw.attBusy = none ∧ (attesting 2 0).stw.attBusy.isSome = true ∧ (attesting 2 0).custodianOn = true ∧
    (attesting 2 0).stw.attBusy = some (2, 1, 0, 0) ∧ (attesting 2 (2 ^ 69)).attestAgreed = true ∧ (attesting 1 0).attestAgreed = false := by decide +kernel
def cycle (n redeploys : Nat) : State := { P with stw := { lifecycle := BitVec.ofNat 3 n, redeploys := BitVec.ofNat 4 redeploys } }
theorem test_witness_lifecycle : bit (0xA0 : W64) 7 = true ∧ (cycle 1 3).lifecycleResult 2 0 = 1 ∧ (cycle 2 3).lifecycleResult 2 0 ≠ 1 ∧
    ({ P with stw := { lcBusy := some 2 } } : State).stw.lcBusy.isSome = true ∧ (cycle 4 3).stw.lcBusy = none ∧ (cycle 4 3).stw.lifecycle = 4 ∧
    (cycle 1 3).stw.lifecycle = 1 ∧ (cycle 3 0).stw.lifecycle = 3 ∧ (cycle 3 0).stw.redeploys = 0 ∧ (cycle 2 3).stw.lifecycle = 2 ∧
    (cycle 2 3).tokenOk 0 3 = false ∧ fld (0xA0 : W64) 4 3 = 2 := by decide +kernel
/-- A request is served from PRODUCTION. -/
theorem test_witness_lifecycle_page : ∃ s : State, PageServes s .custodian (negPage + 0x90) ∧ s.stw.romOnly = false ∧ s.stw.lifecycle = 1 ∧
    s.stw.lcBusy = none := ⟨{ P with stw := { neg := 1, lifecycle := 1 } }, by unfold PageServes; decide +kernel, by decide +kernel⟩

/-! ## Witnesses: host accesses, rings, tasks, programs -/

def load (a : Addr) : HostReq := { agent := .load, addr := a, size := 8, data := [] }
def store (a : Addr) : HostReq := { agent := .store, addr := a, size := 1, data := [7] }
def serving : State := { SV .running with parts := [(0, { subq := 0x3024, cq := 0x4024 })] }
theorem test_witness_host : wholeReq (load 0x1000) = load 0x1000 ∧ wholeReq (store 0x1000) = store 0x1000 ∧ P.stw.ucie ≠ 0 ∧ (0x1000 : Nat) < hbmEnd ∧
    State.reset.hostRange 0x1000 8 false = true ∧ State.reset.hostRange 0x1000 1 true = true ∧ State.reset.dark = false ∧ State.reset.stw.ucie ≠ 0 ∧
    State.reset.ringReach 2 (State.reset.hubBehind 0x1000 % 4) = true ∧ State.reset.mem.heldAt State.reset.layout 0x1000 sourceSteward = false ∧
    (State.reset.onMem (fun m => m.grant sourceSteward)).mem = State.reset.mem ∧
    (resetting 4).hostRange 0x1000 8 false = false ∧
    (State.reset.read 0x1000 8).2 = some (List.replicate 8 0) ∧
    (({ State.reset with mem := { codes := [(0x40, 127 * 2 ^ 73)] } } : State).read 0x1000 8).2 = none ∧ (off 0).dark = true := by decide +kernel
theorem test_witness_rings : bit ((SV .running).subqNow 0) 5 = false ∧ bit (serving.cqNow 0) 5 = true ∧
    bit (0 : W64) 5 = false ∧ serving.ringsServed 0 = true ∧ (serving.prt 0).readBeat ≠ some serving.beat ∧ serving.partOf 0 = 0 ∧
    Rising serving.parts ∧ (serving.ringRead 0 (ringBase (serving.subqNow 0)) 16).2 = some 0 ∧ indexGap 0 0 ≤ ringEntries (serving.subqNow 0) ∧
    ringEntries (serving.subqNow 0) < indexGap 0 17 ∧ (serving.cqIndex 0).2 = some (0, 0) := by unfold Rising; decide +kernel
/-- A task that has been read: its descriptor with `bits`, readable or not. -/
def readTask (r : Bool) (bits : Nat) : Task := { task .read with readable := r, desc := BitVec.ofNat 2048 bits }
theorem test_witness_admission : (∀ r ∈ [true, false], (T P (readTask r 0)).regOn = true ∧ (T P (readTask r 0)).inReset 0 = false ∧
      (T P (readTask r 0)).partOf 0 = 0 ∧ (T P (readTask r 0)).prt 0 = { tasks := [readTask r 0] } ∧ (readTask r 0).accepted = false) ∧
    descBroken (readTask true (2 ^ 304)).desc = true ∧
    (match ((T P (readTask false 0)).judge 0 (readTask false 0)).2 with | .error c => c == 0x0201 | .ok _ => false) = true := by decide +kernel

/-- An accepted task of slot 0, of one cluster, whose release is 5000 ns and whose deadline 9000 ns. -/
def ready : Task := { task .accepted with image := some { img with entries := [(0, 0x40)] }, desc := BitVec.ofNat 2048 (5000 * 2 ^ 128 + 9000 * 2 ^ 192) }
def starting : State := (T P ready).onPart 0 (fun t => t.onProg 0 (fun g => { g with active := true }))
theorem test_witness_start : starting.regOn = true ∧ starting.inReset 0 = false ∧ (starting.prt 0).switching = none ∧
    starting.nextStart 0 = some (0, ready) ∧ starting.startBeat ready = 5 ∧ starting.switchBeat 0 = none ∧
    (∀ e ∈ [((0 : Nat), (0x40 : Nat))], (starting.cl e.1).rested = true) ∧ (((starting.runToNow 5120).prt 0).prog 0).active = true ∧
    tdStep ready.desc = false ∧ starting.unmissed 0 = [ready] ∧ Rising starting.clusters := by unfold Rising; decide +kernel

/-- A slot table of one entry, for program 1, from beat 0; and a switch to it under way. -/
def tabled : State := P.onPart 0 (fun t => { t with slots := [(0, 0x100004)] })
def switching : State := P.onPart 0 (fun t => { t with switching := some (100, some 1) })
theorem test_witness_switch : P.switchBeat 0 = none ∧ P.mem.newPoison = [] ∧ tabled.switchBeat 0 = some 0 ∧
    ((tabled.runToNow 0).runningIn 0 ((tabled.runToNow 0).prt 0).active).isNone = true ∧
    ((tabled.runToNow 0).waitingIn 0 (((tabled.runToNow 0).prt 0).table.prog 0)).isNone = true ∧
    (switching.prt 0).switching = some (100, some 1) ∧ (switching.runningIn 0 (switching.prt 0).active).isNone = true ∧ switching.regOn = true ∧
    switching.inReset 0 = false := by decide +kernel
theorem test_witness_stopped : ((stopped (.stopFence 2) []).cl 0).cur.mode ≠ .idle ∧ ((stopped (.stopFence 2) []).cl 0).cur.mode ≠ .halted ∧
    ((stopped (.stopFence 2) []).cl 0).cur.mode ≠ .switched := by decide +kernel
/-- A cluster whose engine still finishes a command is not quiet. -/
theorem test_witness_quiet : ({} : Cluster).quiet = true ∧ ({ vxDone := some { q := qc [0x140], status := 0, flags := 0, due := 0 } } : Cluster).quiet = false := by
  decide +kernel

/-! ## Witnesses: whole memories and values -/

theorem test_witness_values : ({} : MemSt).wf = true ∧ codePoisoned (codeFor 7) = false ∧ (0 : Nat) % 512 = 0 ∧ (0x40000A00 : Nat) < 0 + 4 * quadBytes ∧
    codePoisoned (127 * 2 ^ 73) = true ∧ (7 : Nat) < 2 ^ 512 := by decide +kernel
theorem test_witness_chunk : Rising [((40 : Nat), ({ n := 5 } : Ledger)), (43, { pinf := true })] ∧
    (∀ e ∈ [((40 : Nat), ({ n := 5 } : Ledger)), (43, { pinf := true })], e.1 < 256 ∧ e.2.present = true ∧ e.2.mag < 2 ^ 319) := by
  unfold Rising; decide +kernel
theorem test_witness_perm : [(0x3F800000 : W32), 0x40000000].Perm [0x40000000, 0x3F800000] := List.Perm.swap _ _ _


/-- R494: an alert stands while a W1C flag of STW_ENV_STATUS does, and the trip output with the trip. -/
theorem test_alert_outputs : P.pkgAlertN = true ∧ ({ P with power := { env := setBit 0 46 }, reset_ := { pd := setBit 0 88 } } : State).pkgAlertN = false ∧
    ({ P with power := { env := setBit 0 46 }, reset_ := {} } : State).pkgAlertN = true ∧ P.thermTripN = true ∧
    ({ P with power := { trip := true } } : State).thermTripN = false := by decide +kernel
/-- R435, R466: a die found failed while the Custodian restarts is marked when it serves again. -/
theorem test_marks_wait : let s := ({ P with stw := { custodian := { st := .restarting } } } : State).markFailed 3 stMem
    s.panel.failedSlots = [] ∧ s.panel.marks = [(3, stMem)] ∧ s.custodianBack.panel.failedSlots = [3] ∧ s.custodianBack.panel.marks = [] := by
  decide +kernel

/-- R142: of the FP32 values near e the library may deliver those within 2 ulp; exact values of EXP and RSQRT from their definitions. -/
theorem test_exp_bound : (expExact vOne).all (fun a => within2Ulp (v32 0x402DF854) a && within2Ulp (v32 0x402DF853) a && !within2Ulp (v32 0x402DF857) a) = true ∧
    expExact (.zero true) = some vOne := by decide +kernel
theorem test_rsqrt_bound : (rsqrtExact (vInt 4)).all (fun a => within2Ulp (v32 0x3F000000) a && !within2Ulp (v32 0x3F000003) a) = true := by
  decide +kernel

end Sys2Proof.Tests
end

section
/-!
Every command answers a next state and leaves the queue alone: each meaning writes its result through its family's frame, and no
frame has the queue.
-/
namespace Sys2Proof.Machine

/-- On an empty queue the clock runs on by one nanosecond (log 2). -/
theorem step_of_empty {s : State} (h : s.pending = []) : step s = .next (s.runTo (s.time.ticks + 21)) := by
  simp only [step, h, State.idle, nsT]

/-- The command at the front acts on the state with the rest of the queue. -/
theorem step_of_cons {s : State} {c : Instr} {rest : List Instr} (h : s.pending = c :: rest) : step s = exec c { s with pending := rest } := by
  simp only [step, h]

/-- Settles O1, by the two shapes of the queue. -/
theorem stepRunsTheCommandAtTheFront : Obligations.StepRunsTheCommandAtTheFront :=
  ⟨fun _ _ _ h => step_of_cons h, fun _ h => step_of_empty h⟩

section Frames
variable (s t : State)

@[simp] theorem State.coreFrame_pending : (s.coreFrame t).pending = s.pending := rfl
@[simp] theorem State.taskFrame_pending : (s.taskFrame t).pending = s.pending := rfl
@[simp] theorem State.curFrame_pending : (s.curFrame t).pending = s.pending := rfl
@[simp] theorem State.doneFrame_pending : (s.doneFrame t).pending = s.pending := rfl
@[simp] theorem State.pageFrame_pending : (s.pageFrame t).pending = s.pending := rfl
@[simp] theorem State.admitFrame_pending : (s.admitFrame t).pending = s.pending := rfl
@[simp] theorem State.capFrame_pending : (s.capFrame t).pending = s.pending := rfl
@[simp] theorem State.meshFrame_pending : (s.meshFrame t).pending = s.pending := rfl
@[simp] theorem State.linkFrame_pending : (s.linkFrame t).pending = s.pending := rfl
@[simp] theorem State.stageFrame_pending : (s.stageFrame t).pending = s.pending := rfl
@[simp] theorem State.timeFrame_pending : (s.timeFrame t).pending = s.pending := rfl
@[simp] theorem State.archiveFrame_pending : (s.archiveFrame t).pending = s.pending := rfl
@[simp] theorem State.resetFrame_pending : (s.resetFrame t).pending = s.pending := rfl
@[simp] theorem State.packetFrame_pending : (s.packetFrame t).pending = s.pending := rfl
@[simp] theorem State.recoverFrame_pending : (s.recoverFrame t).pending = s.pending := rfl
@[simp] theorem State.stewardFrame_pending : (s.stewardFrame t).pending = s.pending := rfl

end Frames

/-- The outcome `o` of a command met in state `s`, whose operands pass their check when `ok`, is a next state with the queue of `s`,
and is `s` itself when they fail it (log 1). -/
def KeepsQueue (s : State) (ok : Bool) (o : Host.Outcome State Fault Refusal) : Prop :=
  (∃ t, o = .next t ∧ t.pending = s.pending) ∧ (ok = false → o = .next s)

/-- A meaning without a check of its operands answers its framed result. -/
theorem keepsQueue_next {s t : State} (h : t.pending = s.pending) : KeepsQueue s true (.next t) :=
  ⟨⟨t, rfl, h⟩, nofun⟩

/-- A meaning with a check answers its framed result where the check passes, and the state as it was where it fails. -/
theorem keepsQueue_formed {s t : State} {ok : Bool} (h : t.pending = s.pending) : KeepsQueue s ok (formed ok s t) := by
  cases ok with
  | false => exact ⟨⟨s, rfl, rfl⟩, fun _ => rfl⟩
  | true => exact keepsQueue_next h

/-- Every command keeps the queue, and changes nothing where its operands fail their check: the commands by the frame that their
meanings write through, those whose operands are checked last. -/
theorem exec_keepsQueue (s : State) : ∀ i : Instr, KeepsQueue s i.wellFormed (exec i s)
  | .mma _ | .mmaComputeEnd _ | .mmaEpilogueEnd _ | .vop _ | .vfunc _ | .funcLoadResident _ | .vrowstat _ | .vnormFwd _ | .vnormBwd _
  | .vsoftmaxFwd _ | .vsoftmaxBwd _ | .vconv _ | .copy _ | .copy2d _ | .copyt _ | .reblock _ | .gather _ | .scatter _ | .clusterPark _
  | .clusterWake _ | .hbmScrubBlock _ => keepsQueue_next (State.coreFrame_pending s _)
  | .folioFetch _ | .curatorDispatch _ | .wait _ | .signal _ | .fence _ | .fenceSatisfied _ | .call _ | .timeat _ | .timeatResume _
  | .end_ _ => keepsQueue_next (State.curFrame_pending s _)
  | .clusterPartEnd _ | .commandComplete _ _ | .haltReport _ | .redOpen _ | .redContrib _ | .redContribTopk _ | .redWait _ | .ringPass _
  | .send _ | .recv _ | .updApply _ | .waitingBindingCheck _ | .updInstall _ | .stepCloseBegin _ _ | .bindingClose _
  | .loggedUnitRetake _ | .preopenExpire _ | .contextDeadline _ => keepsQueue_next (State.taskFrame_pending s _)
  | .claspAdd _ _ _ | .tileClaspAdd _ _ _ | .signalRelease _ => keepsQueue_next (State.doneFrame_pending s _)
  | .ringConfigWrite _ _ _ => keepsQueue_next (State.pageFrame_pending s _)
  | .submissionRingRead _ | .admissionDecision _ | .deadlineMiss _ | .programSwitch _ | .switchComplete _ | .taskStart _ =>
    keepsQueue_next (State.admitFrame_pending s _)
  | .powerCapWrite _ | .bursarPowerMeasure _ => keepsQueue_next (State.capFrame_pending s _)
  | .reweightDrainEnd _ | .laneRepairRecord => keepsQueue_next (State.meshFrame_pending s _)
  | .beaconSend _ | .beacon _ _ _ | .trainingTimeout _ | .absentRetrain _ | .linkRejoinDrainEnd _ | .epochGraceEnd _ =>
    keepsQueue_next (State.linkFrame_pending s _)
  | .stageCheck _ _ | .stageDecision _ | .stageApply _ => keepsQueue_next (State.stageFrame_pending s _)
  | .timeSyncSend | .ppsEdge _ | .ptpMeasurement _ | .timeSet _ | .syncLossHoldover | .holdoverExpire | .refLossTimeout
  | .referenceLost => keepsQueue_next (State.timeFrame_pending s _)
  | .archiveRead _ | .archiveCopyDone | .archiveUnitTimeout _ _ _ _ => keepsQueue_next (State.archiveFrame_pending s _)
  | .powerOn | .vinSample _ _ | .pkgResetPin | .thermalSample _ | .partitionResetRequest _ | .packageResetRequest _
  | .partitionResetPhaseEnd _ _ | .packageResetPhaseEnd _ | .lifecycleRequest _ | .registerWrite _ | .hostAccess _ | .watchdogExpire _
  | .restartComplete _ | .restartExceedsBound _ => keepsQueue_next (State.resetFrame_pending s _)
  | .pkgResetNRelease => keepsQueue_next rfl
  | .linkDown _ _ | .rejoinRelease _ | .resyncArm _ | .resyncCopyDone => keepsQueue_next (State.recoverFrame_pending s _)
  | .featAcceptWrite _ | .memcfgWrite _ | .svnCommit _ | .svnCommitDone | .report | .extend | .certs | .attestOpDone
  | .ucieModuleDown _ => keepsQueue_next (State.stewardFrame_pending s _)
  | .flitReceive _ _ _ _ | .laneFailure _ _ _ _ | .laneReplaced _ _ _ | .sliceRetire _ _ => keepsQueue_formed (State.meshFrame_pending s _)
  | .mergeCommit _ | .requestAgeBlock _ _ _ | .carrelScrubRow _ _ => keepsQueue_formed (State.coreFrame_pending s _)
  | .write _ | .readReq _ | .readRsp _ | .remoteSignal _ | .contrib _ | .contribTopk _ | .fragment _ | .result _ | .twin _
  | .credit _ => keepsQueue_formed (State.packetFrame_pending s _)
  | .stageReport _ | .stageGo _ | .stageAbandon _ => keepsQueue_formed (State.stageFrame_pending s _)
  | .timeSync _ => keepsQueue_formed (State.timeFrame_pending s _)
  | .memberDown _ | .memberUp _ | .resyncReq _ | .resyncReady _ | .resyncDone _ => keepsQueue_formed (State.recoverFrame_pending s _)
  | .memberDownProxy _ => keepsQueue_formed (State.resetFrame_pending s _)

/-- Settles O2: every command, whatever its operands and the state, answers a next state with the queue kept. -/
theorem everyWellFormedCommandGoesOn : Obligations.EveryWellFormedCommandGoesOn :=
  fun i s => exec_keepsQueue s i

end Sys2Proof.Machine
end

section
/-!
Numbers as bits and bytes (R3), and the parity code of a block (R270, R271): a block with its fresh code decodes without error.
-/
namespace Sys2Proof.Machine

/-! ### Fields and bytes -/

theorem nfld_eq (n lo len : Nat) : nfld n lo len = n / 2 ^ lo % 2 ^ len := by
  rw [nfld, Nat.shiftRight_eq_div_pow]

theorem nfld_lt (n lo len : Nat) : nfld n lo len < 2 ^ len := Nat.mod_lt _ (Nat.two_pow_pos len)

/-- The field of a number past its first byte is a field of the number without that byte. -/
theorem nfld_byte_succ (n i : Nat) : nfld n (8 * (i + 1)) 8 = nfld (n / 256) (8 * i) 8 := by
  rw [nfld_eq, nfld_eq, Nat.div_div_eq_div_mul, Nat.mul_succ, Nat.add_comm, Nat.pow_add]

theorem map_range_byteField (k n : Nat) : (List.range k).map (fun i => BitVec.ofNat 8 (nfld n (8 * i) 8)) = leBytes n k := by
  induction k generalizing n with
  | zero => rfl
  | succ k ih =>
    have h0 : BitVec.ofNat 8 (nfld n (8 * 0) 8) = BitVec.ofNat 8 n := BitVec.eq_of_toNat_eq (by simp [nfld_eq])
    rw [List.range_succ_eq_map, List.map_cons, List.map_map, h0, leBytes, ← ih]
    simp only [Function.comp_def, nfld_byte_succ, Nat.succ_eq_add_one]

/-- Reading back the bytes of a number gives what they hold of it. -/
theorem leNat_leBytes (n k : Nat) : leNat (leBytes n k) = n % 2 ^ (8 * k) := by
  induction k generalizing n with
  | zero => simp [leBytes, leNat, Nat.mod_one]
  | succ k ih =>
    rw [leBytes, leNat, ih, BitVec.toNat_ofNat, Nat.mul_succ, Nat.add_comm (8 * k), Nat.pow_add, Nat.mod_mul]

/-! ### Parity -/

/-- The parity of the low bits depends on them only. -/
theorem parityOf_congr {m n : Nat} : ∀ {k : Nat}, (∀ j < k, m.testBit j = n.testBit j) → parityOf m k = parityOf n k
  | 0, _ => rfl
  | k + 1, h => by
    rw [parityOf, parityOf, h k (by omega), parityOf_congr (fun j hj => h j (by omega))]

theorem parityOf_xor (m n : Nat) : ∀ k, parityOf (m ^^^ n) k = (parityOf m k ^^ parityOf n k)
  | 0 => rfl
  | k + 1 => by
    simp only [parityOf, parityOf_xor m n k, Nat.testBit_xor]
    cases parityOf m k <;> cases parityOf n k <;> cases m.testBit k <;> cases n.testBit k <;> rfl

@[simp] theorem parityOf_zero : ∀ k, parityOf 0 k = false
  | 0 => rfl
  | k + 1 => by simp [parityOf, parityOf_zero k]

/-- The number whose bit `i` is `p i`, for `i` below `n`. -/
def bitSum (p : Nat → Bool) (n : Nat) : Nat := (List.range n).foldl (fun a i => a + b2n (p i) * 2 ^ i) 0

theorem bitSum_succ (p : Nat → Bool) (n : Nat) : bitSum p (n + 1) = bitSum p n + b2n (p n) * 2 ^ n := by
  simp [bitSum, List.range_succ]

theorem b2n_lt_two (b : Bool) : b2n b < 2 := by cases b <;> decide

theorem bitSum_lt (p : Nat → Bool) : ∀ n, bitSum p n < 2 ^ n
  | 0 => Nat.one_pos
  | n + 1 => by
    have hn := bitSum_lt p n
    have hb : b2n (p n) * 2 ^ n ≤ 1 * 2 ^ n := Nat.mul_le_mul_right _ (Nat.le_of_lt_succ (b2n_lt_two (p n)))
    rw [bitSum_succ, Nat.pow_succ]
    omega

theorem testBit_bitSum (p : Nat → Bool) : ∀ {n j : Nat}, j < n → (bitSum p n).testBit j = p j
  | n + 1, j, h => by
    have hn := bitSum_lt p n
    rw [bitSum_succ, Nat.add_comm, Nat.mul_comm, Nat.testBit_two_pow_mul_add _ hn]
    by_cases hj : j < n
    · rw [if_pos hj, testBit_bitSum p hj]
    · have hjn : j = n := by omega
      subst hjn
      cases p j <;> simp [b2n]

/-- The XOR of the words' parities is the parity of the words' XOR. -/
theorem parityOf_bitSum (w : Nat → Nat) (k : Nat) : ∀ n,
    parityOf (bitSum (fun i => parityOf (w i) k) n) n = parityOf ((List.range n).foldl (fun a i => a ^^^ w i) 0) k
  | 0 => by simp [bitSum]
  | n + 1 => by
    have hlow : parityOf (bitSum (fun i => parityOf (w i) k) (n + 1)) n = parityOf (bitSum (fun i => parityOf (w i) k) n) n :=
      parityOf_congr (fun j hj => by rw [testBit_bitSum _ (by omega), testBit_bitSum _ hj])
    rw [parityOf, hlow, testBit_bitSum _ (by omega), parityOf_bitSum w k n, List.range_succ, List.foldl_append, List.foldl_cons,
      List.foldl_nil, parityOf_xor]

/-! ### The code of a block (R270) -/

theorem rowParity_lt (d : Nat) : rowParity d < 2 ^ 8 := bitSum_lt _ 8

theorem foldl_xor_lt {w : Nat → Nat} {k : Nat} (h : ∀ i, w i < 2 ^ k) : ∀ n, (List.range n).foldl (fun a i => a ^^^ w i) 0 < 2 ^ k
  | 0 => Nat.two_pow_pos k
  | n + 1 => by
    rw [List.range_succ, List.foldl_append]
    exact Nat.xor_lt_two_pow (foldl_xor_lt h n) (h n)

theorem colParity_lt (d : Nat) : colParity d < 2 ^ 64 := foldl_xor_lt (fun i => nfld_lt d (64 * i) 64) 8

/-- The corner is the parity of the rows and of the columns alike. -/
theorem parityOf_rowParity (d : Nat) : parityOf (rowParity d) 8 = parityOf (colParity d) 64 := parityOf_bitSum (dword d) 64 8

theorem toNat_codeFor (d : Nat) :
    (codeFor d).toNat = colParity d + rowParity d * 2 ^ 64 + b2n (parityOf (rowParity d) 8) * 2 ^ 72 := by
  have hc := colParity_lt d
  have hr := rowParity_lt d
  have hk := b2n_lt_two (parityOf (rowParity d) 8)
  simp only [codeFor, BitVec.toNat_ofNat]
  omega

/-- The column field of a fresh code. -/
theorem fld_codeFor_col (d : Nat) : fld (codeFor d) 0 64 = colParity d := by
  have hc := colParity_lt d
  rw [fld, nfld_eq, toNat_codeFor]
  omega

/-- The row field of a fresh code. -/
theorem fld_codeFor_row (d : Nat) : fld (codeFor d) 64 8 = rowParity d := by
  have hc := colParity_lt d
  have hr := rowParity_lt d
  rw [fld, nfld_eq, toNat_codeFor]
  omega

/-- The corner bit of a fresh code. -/
theorem bit_codeFor_corner (d : Nat) : bit (codeFor d) 72 = parityOf (rowParity d) 8 := by
  have hc := colParity_lt d
  have hr := rowParity_lt d
  have hq : (codeFor d).toNat / 2 ^ 72 % 2 = b2n (parityOf (rowParity d) 8) := by
    have hk := b2n_lt_two (parityOf (rowParity d) 8)
    rw [toNat_codeFor]
    omega
  rw [bit, Nat.testBit_eq_decide_div_mod_eq, hq]
  cases parityOf (rowParity d) 8 <;> rfl

/-- The state field of a fresh code says valid. -/
theorem fld_codeFor_state (d : Nat) : fld (codeFor d) 73 7 = 0 := by
  have hc := colParity_lt d
  have hr := rowParity_lt d
  have hk := b2n_lt_two (parityOf (rowParity d) 8)
  rw [fld, nfld_eq, toNat_codeFor]
  omega

@[simp] theorem codePoisoned_codeFor (d : Nat) : codePoisoned (codeFor d) = false := by
  rw [codePoisoned, fld_codeFor_state]
  rfl

/-- A block with its fresh code decodes without error: no row, column or corner differs. -/
theorem decodeBlock_codeFor (d : Nat) : decodeBlock d (codeFor d) = .ok := by
  have hkr : (bit (codeFor d) 72 != parityOf (rowParity d) 8) = false := by rw [bit_codeFor_corner, bne_self_eq_false]
  have hkc : (bit (codeFor d) 72 != parityOf (colParity d) 64) = false := by
    rw [bit_codeFor_corner, parityOf_rowParity, bne_self_eq_false]
  have hzero : oneBit 0 = none := rfl
  simp [decodeBlock, fld_codeFor_row, fld_codeFor_col, hkr, hkc, hzero]

end Sys2Proof.Machine
end

section
/-!
A block written whole (R259, R273): what it reads then, and what the write leaves alone.
-/
namespace Sys2Proof.Machine

/-- After `n` writes at the numbers from `lo` on, those numbers read what was written and every other what it read before. -/
theorem sget_foldl_sset_range {α : Type} [DecidableEq α] (d : α) (lo : Nat) (v : Nat → α) {m : Sparse α} (h : sok d m = true)
    (a : Nat) : ∀ n,
    sget d ((List.range n).foldl (fun m i => sset d m (lo + i) (v i)) m) a = if lo ≤ a ∧ a < lo + n then v (a - lo) else sget d m a
  | 0 => by rw [if_neg (by omega)]; rfl
  | n + 1 => by
    have hr := ((sok_iff d).mp (sok_foldl_sset d (fun i => lo + i) v (List.range n) h)).2
    rw [List.range_succ, List.foldl_append, List.foldl_cons, List.foldl_nil]
    by_cases ha : a = lo + n
    · rw [ha, sget_sset_self d _ _ hr, if_pos (by omega), Nat.add_sub_cancel_left]
    · rw [sget_sset_ne d _ _ _ ha, sget_foldl_sset_range d lo v h a n]
      congr 1
      exact propext (by omega)

theorem sget_setBlockBytes {bytes : List Host.Cell} (b d a : Nat) (h : sok 0 bytes = true) :
    sget 0 (setBlockBytes bytes b d) a =
      if 64 * b ≤ a ∧ a < 64 * b + 64 then BitVec.ofNat 8 (nfld d (8 * (a - 64 * b)) 8) else sget 0 bytes a :=
  sget_foldl_sset_range 0 (64 * b) (fun i => BitVec.ofNat 8 (nfld d (8 * i) 8)) h a 64

/-! ### writeWhole -/

section WriteWhole
variable (m : MemSt) (x : MemX) (b d : Nat)

theorem MemSt.writeWhole_bytes : (m.writeWhole x b d).bytes = setBlockBytes m.bytes b d := by
  simp only [MemSt.writeWhole]
  split <;> rfl

theorem MemSt.writeWhole_codes : (m.writeWhole x b d).codes = sset 0 m.codes b (codeFor d) := by
  unfold MemSt.writeWhole
  generalize codeFor d = c
  simp only
  split <;> rfl

@[simp] theorem MemSt.writeWhole_merge : (m.writeWhole x b d).merge = m.merge := by
  simp only [MemSt.writeWhole]
  split <;> rfl

@[simp] theorem MemSt.writeWhole_newPoison : (m.writeWhole x b d).newPoison = m.newPoison := by
  simp only [MemSt.writeWhole]
  split <;> rfl

variable {m}

/-- A byte after the write of a whole block. -/
theorem MemSt.sget_writeWhole_bytes (h : m.wf = true) (a : Nat) : sget 0 (m.writeWhole x b d).bytes a =
    if 64 * b ≤ a ∧ a < 64 * b + 64 then BitVec.ofNat 8 (nfld d (8 * (a - 64 * b)) 8) else sget 0 m.bytes a := by
  rw [MemSt.writeWhole_bytes, sget_setBlockBytes b d a ((MemSt.wf_iff m).mp h).1]

theorem MemSt.blockNat_writeWhole_self (h : m.wf = true) (hd : d < 2 ^ 512) : (m.writeWhole x b d).blockNat b = d := by
  have hbytes : (List.range 64).map (fun i => sget 0 (m.writeWhole x b d).bytes (64 * b + i)) = leBytes d 64 := by
    rw [← map_range_byteField]
    refine List.map_congr_left (fun i hi => ?_)
    have hi := List.mem_range.mp hi
    rw [MemSt.sget_writeWhole_bytes x b d h, if_pos (by omega), Nat.add_sub_cancel_left]
  rw [MemSt.blockNat, hbytes, leNat_leBytes, show 8 * 64 = 512 from rfl, Nat.mod_eq_of_lt hd]

theorem MemSt.blockNat_writeWhole_ne (h : m.wf = true) {a : Nat} (hab : a ≠ b) : (m.writeWhole x b d).blockNat a = m.blockNat a := by
  refine congrArg leNat (List.map_congr_left (fun i hi => ?_))
  have hi := List.mem_range.mp hi
  rw [MemSt.sget_writeWhole_bytes x b d h, if_neg (by omega)]

theorem MemSt.code_writeWhole_self (h : m.wf = true) : (m.writeWhole x b d).code b = codeFor d := by
  rw [MemSt.code, MemSt.writeWhole_codes, sget_sset_self 0 b _ ((sok_iff 0).mp ((MemSt.wf_iff m).mp h).2).2]

@[simp] theorem MemSt.code_writeWhole_ne {a : Nat} (hab : a ≠ b) : (m.writeWhole x b d).code a = m.code a := by
  rw [MemSt.code, MemSt.writeWhole_codes, sget_sset_ne 0 _ b _ hab, MemSt.code]

end WriteWhole

/-- Settles O10: the 64 bytes of the block are those of `d`, its code is fresh, and the write meets no other number. -/
theorem blocksReadBackAndStayApart : Obligations.BlocksReadBackAndStayApart := by
  intro m x b d h hd
  have hdata := MemSt.blockNat_writeWhole_self x b d h hd
  have hcode := MemSt.code_writeWhole_self x b d h
  refine ⟨hdata, hcode, ?_, fun a ha => ⟨MemSt.blockNat_writeWhole_ne x b d h ha, MemSt.code_writeWhole_ne x b d ha⟩, fun a ha => ?_,
    MemSt.writeWhole_merge m x b d, MemSt.writeWhole_newPoison m x b d⟩
  · rw [hdata, hcode, decodeBlock_codeFor]
  · rw [MemSt.sget_writeWhole_bytes x b d h, if_neg (by omega)]

end Sys2Proof.Machine
end

section
/-!
Accesses of the host, the steward and devices (R58, R277, R430, R440, R452): where each is met, what the memories answer, and what a
register takes.
-/
namespace Sys2Proof.Machine

/-- A step that kept the queue and poisoned nothing is kept whole by its frame. -/
theorem resetFrame_settle {s t : State} (hp : t.pending = s.pending) (hn : t.mem.newPoison = []) : s.resetFrame t.settle = t := by
  rw [State.settle_of_nil hn, State.resetFrame, ← hp]

/-! ### Where an access is met -/

section Access
variable {s : State} {r : HostReq}

theorem not_in_range {lo hi a : Nat} (h : hi ≤ a) : ¬ (lo ≤ a ∧ a < hi) := fun x => Nat.not_lt.mpr h x.2

/-- Nobody answers while the package is dark and no boot ROM serves (R452). -/
theorem access_of_dark (hd : s.dark = true) (hr : s.stw.romOnly = false) : s.access r = s := by
  simp [State.access, hd, hr]

/-- With both UCIe modules down no access reaches another die (R430). -/
theorem access_without_ucie (hd : s.dark = false) (hu : s.stw.ucie = 0) (ha : r.addr < ctlBase) : s.access r = s.respond .none := by
  simp [State.access, hd, hu, ha]

/-- A device reaches no page (R431). -/
theorem access_page_of_dma (hd : s.dark = false) (hr : isDma r.agent = true) (ha : ctlBase ≤ r.addr) :
    s.access r = s.respond .unsupported := by
  have hother : ¬ r.addr < ctlBase := Nat.not_lt.mpr ha
  have hhbm : hbmEnd ≤ r.addr := Nat.le_trans (by decide) ha
  have htile : tileBase ≤ r.addr := Nat.le_trans (by decide) ha
  simp [State.access, hd, hr, hother, hhbm, htile]

/-- An access to HBM that H2 and the ring carry goes to the memories (R11, R54, R57). -/
theorem access_hbm (hd : s.dark = false) (hu : s.stw.ucie ≠ 0) (hring : s.ringReach 2 (s.hubBehind r.addr % 4) = true)
    (ha : r.addr < hbmEnd) : s.access r = s.memAccess r := by
  have hdma : ¬ hbmEnd ≤ r.addr := Nat.not_le.mpr ha
  have hucie : ¬ s.stw.ucie = 0#2 := hu
  simp [State.access, hd, hucie, hring, hdma, ha]

/-- An access of the host or the steward to a page that serves is served at once (R440). -/
theorem access_page {p : Proc} (h : PageServes s p r.addr) (hp : pageProc r.addr = some p) (hok : pageAccessOk r = true)
    (hr : isDma r.agent = false) (hlo : ctlBase ≤ r.addr) (hhi : r.addr < partPage 4) : s.access r = s.serveReg r := by
  have hd : s.dark = false := h.1
  have hmem : ¬ (r.addr < hbmEnd ∨ (carrelBase ≤ r.addr ∧ r.addr < carrelBase + 512 * carrelSize) ∨
      (ledgerBase ≤ r.addr ∧ r.addr < ledgerBase + 4 * ledgerSize)) :=
    not_or.mpr ⟨Nat.not_lt.mpr (Nat.le_trans (by decide) hlo),
      not_or.mpr ⟨not_in_range (Nat.le_trans (by decide) hlo), not_in_range (Nat.le_trans (by decide) hlo)⟩⟩
  have htile : ¬ (tileBase ≤ r.addr ∧ r.addr < tileBase + 0x20000000) := not_in_range (Nat.le_trans (by decide) hlo)
  have hhub : ¬ (hubBase ≤ r.addr ∧ r.addr < hubBase + 0x4000000) := not_in_range (Nat.le_trans (by decide) hlo)
  have hedge : ¬ (edgeBase ≤ r.addr ∧ r.addr < edgeBase + 0x4C000) := not_in_range (Nat.le_trans (by decide) hlo)
  have hctl : ctlBase ≤ r.addr ∧ r.addr < ctlBase + 0x10000000 := ⟨hlo, Nat.lt_of_lt_of_le hhi (by decide)⟩
  have hother : ¬ r.addr < ctlBase := Nat.not_lt.mpr hlo
  rw [State.access]
  simp only [hd, hother, hr, decide_false, Bool.false_and, Bool.false_eq_true, if_false, if_neg hmem, if_neg htile, if_neg hhub,
    if_neg hedge, if_pos hctl, hp]
  exact gated_serves _ h hok

end Access

/-! ### What the memories answer -/

section MemAccess
variable {s : State} {r : HostReq}

/-- An access outside what its agent may reach is refused and logged (R58, R442). -/
theorem memAccess_refused (h : s.hostRange r.addr r.size (hostWrites r) = false) : s.memAccess r = s.refuseAccess r := by
  simp [State.memAccess, h]

/-- A granted read delivers its bytes, or meets an uncorrectable block (R277). -/
theorem memAccess_read {u : State} {bs : Option (List Byte)} (h : s.hostRange r.addr r.size (hostWrites r) = true)
    (hheld : s.mem.heldAt s.layout r.addr sourceSteward = false) (hr : r.data = [])
    (hread : (s.onMem (fun m => m.grant sourceSteward)).read r.addr r.size = (u, bs)) :
    s.memAccess r = bs.elim (u.badBlock r) (fun b => u.respond (.done (leNat b))) := by
  have hw : hostWrites r = false := by simp [hostWrites, hr]
  rw [hw] at h
  cases bs <;> simp [State.memAccess, h, hheld, hw, hread]

/-- A granted write lands and is acknowledged, or meets an uncorrectable block (R277, R280). -/
theorem memAccess_write {u : State} {ok : Bool} (h : s.hostRange r.addr r.size (hostWrites r) = true)
    (hheld : s.mem.heldAt s.layout r.addr sourceSteward = false) (hr : r.data ≠ [])
    (hwrite : (s.onMem (fun m => m.grant sourceSteward)).writeAck ownerHost r.addr r.data = (u, ok)) :
    s.memAccess r = if ok then u.respond (.done 0) else u.badBlock r := by
  have hw : hostWrites r = true := by simp [hostWrites, hr]
  rw [hw] at h
  simp [State.memAccess, h, hheld, hw, hwrite]

end MemAccess

/-! ### What a register takes -/

/-- The write of a page register carries the low bytes of its value. -/
theorem leNat_pageWrite (a size : Nat) (v : W64) : leNat (pageWrite a size v).data = v.toNat % 2 ^ (8 * size) := leNat_leBytes v.toNat size

theorem hostWrites_pageWrite (a size : Nat) (v : W64) : hostWrites (pageWrite a (size + 1) v) = true := rfl

/-- A 64-bit register written whole takes the value, and no earlier low half is kept (R440). -/
theorem serveReg_write8 (s : State) {a : Addr} (v : W64) (ha : a % 8 = 0) (hn : narrowReg a = false) :
    s.serveReg (pageWrite a 8 v) = ((s.keepLow a none).put8 a v).respond (.done 0) := by
  have hbase : (pageWrite a 8 v).addr / 8 * 8 = a := Nat.div_mul_cancel (Nat.dvd_of_mod_eq_zero ha)
  have hv : BitVec.ofNat 64 (leNat (pageWrite a 8 v).data) = v := by
    rw [leNat_pageWrite, show 8 * 8 = 64 from rfl, Nat.mod_eq_of_lt v.isLt, BitVec.ofNat_toNat, BitVec.setWidth_eq]
  have hsize : (pageWrite a 8 v).size = 8 := rfl
  rw [State.serveReg, hostWrites_pageWrite a 7 v, if_pos rfl, State.putReg]
  simp only [hbase, hn, hv, hsize, if_true, if_false, Bool.false_eq_true]

/-- The low half of a 64-bit register is kept until its high half comes (R440). -/
theorem serveReg_write4_low (s : State) {a : Addr} (v : W64) (ha : a % 8 = 0) (hn : narrowReg a = false) :
    s.serveReg (pageWrite a 4 v) = (s.keepLow a (some (BitVec.ofNat 32 v.toNat))).respond (.done 0) := by
  have haddr : (pageWrite a 4 v).addr = a := rfl
  have hbase : a / 8 * 8 = a := Nat.div_mul_cancel (Nat.dvd_of_mod_eq_zero ha)
  have hv : BitVec.ofNat 32 (leNat (pageWrite a 4 v).data) = BitVec.ofNat 32 v.toNat :=
    BitVec.eq_of_toNat_eq (by rw [leNat_pageWrite, BitVec.toNat_ofNat, BitVec.toNat_ofNat, Nat.mod_mod])
  have hsize : ((pageWrite a 4 v).size = 8) = False := eq_false (by simp [pageWrite])
  rw [State.serveReg, hostWrites_pageWrite a 3 v, if_pos rfl, State.putReg]
  simp only [haddr, hbase, hn, hv, hsize, if_true, if_false, Bool.false_eq_true]

/-! ### The rows -/

theorem exec_hostAccess (x : HostReq) (s : State) : exec (.hostAccess x) s = .next (s.resetFrame (s.access (wholeReq x)).settle) := rfl

/-- An access that only gets an answer changes the answer alone. -/
theorem exec_hostAccess_answered {x : HostReq} {s : State} {a : HostResp} (hn : s.mem.newPoison = []) (h : s.access (wholeReq x) = s.respond a) :
    exec (.hostAccess x) s = .next { s with host := { s.host with resp := a } } := by
  rw [exec_hostAccess, h, resetFrame_settle (State.respond_pending s a) hn, State.respond]

@[simp] theorem wholeReq_addr (x : HostReq) : (wholeReq x).addr = x.addr := by unfold wholeReq; split <;> rfl
@[simp] theorem wholeReq_agent (x : HostReq) : (wholeReq x).agent = x.agent := by unfold wholeReq; split <;> rfl

/-- The write of a register of a page that serves, as its own row (R6). -/
theorem exec_registerWrite_page {s : State} {p : Proc} {a : Addr} {size : Nat} {v : W64} (h : PageServes s p a)
    (hp : pageProc a = some p) (hok : pageAccessOk (pageWrite a size v) = true) (hlo : ctlBase ≤ a) (hhi : a < partPage 4) :
    exec (.registerWrite { addr := a, size := size, value := v }) s = .next (s.resetFrame (s.serveReg (pageWrite a size v)).settle) := by
  have hacc : s.access (pageWrite a size v) = s.serveReg (pageWrite a size v) := access_page h hp hok rfl hlo hhi
  exact congrArg (fun t => Host.Outcome.next (s.resetFrame (State.settle t))) hacc

/-- A write of STW_EVENTS clears the bits written (R441). -/
theorem exec_write_events {s : State} (v : W64) (h : PageServes s .custodian (pkgPage + 0x60)) (hn : s.mem.newPoison = []) :
    exec (.registerWrite { addr := pkgPage + 0x60, size := 8, value := v }) s = .next { s with
      stw := { s.stw with events := s.stw.events &&& ~~~(v &&& 0x1DF) }
      host := { s.host with low := sset none s.host.low (pkgPage + 0x60) none, resp := .done 0 } } := by
  rw [exec_registerWrite_page h (by decide) (pageAccessOk_write8 v (by decide)) (by decide) (by decide),
    serveReg_write8 s v (by decide) (by decide)]
  exact congrArg Host.Outcome.next (resetFrame_settle rfl hn)

/-- The low half of STW_FABRIC_PLAN waits for its high half (R440). -/
theorem exec_write_planLow {s : State} (v : W64) (h : PageServes s .registrar (pkgPage + 0x300)) (hn : s.mem.newPoison = []) :
    exec (.registerWrite { addr := pkgPage + 0x300, size := 4, value := v }) s = .next { s with
      host := { s.host with low := sset none s.host.low (pkgPage + 0x300) (some (BitVec.ofNat 32 v.toNat)), resp := .done 0 } } := by
  rw [exec_registerWrite_page h (by decide) (pageAccessOk_write4 v (by decide)) (by decide) (by decide),
    serveReg_write4_low s v (by decide) (by decide)]
  exact congrArg Host.Outcome.next (resetFrame_settle rfl hn)

/-- Settles O57: each access is met at its place, and the memories or the register answer it. -/
theorem hostAccessesMeetTheirRules : Obligations.HostAccessesMeetTheirRules := by
  refine ⟨fun v s h hn => exec_write_events v h hn, fun v s h hn => exec_write_planLow v h hn, ?_, ?_, ?_⟩
  · rintro x r s v rfl hd hu hring ha rfl
    rw [exec_hostAccess, access_hbm hd hu hring ha]
    refine ⟨fun hrange => ?_, fun hrange hheld hr => ⟨fun u bs hread => ?_, fun u hread => ?_⟩, fun hrange hheld hr u ok hwrite => ?_⟩
    · rw [memAccess_refused hrange]
    · rw [memAccess_read hrange hheld hr hread, Option.elim_some]
    · rw [memAccess_read hrange hheld hr hread, Option.elim_none]
    · rw [memAccess_write hrange hheld hr hwrite]
  · intro x s hd hn
    refine ⟨fun hu ha => ?_, fun ha hdma => ?_⟩
    · exact exec_hostAccess_answered hn (access_without_ucie hd hu (by rwa [wholeReq_addr]))
    · exact exec_hostAccess_answered hn (access_page_of_dma hd (by rwa [wholeReq_agent]) (by rwa [wholeReq_addr]))
  · intro x s hd hrom hn
    rw [exec_hostAccess, access_of_dark hd hrom, resetFrame_settle rfl hn]

end Sys2Proof.Machine
end

section
/-!
A Custodian that serves again marks the dies found failed while it restarted (R435, R466; `State.custodianBack`).
-/
namespace Sys2Proof.Machine

/-- A package whose Custodian restarts, and which has found the die of slot 3 failed meanwhile. -/
def custodianOwesMark : State := { stw := { custodian := { st := .restarting } }, panel := { marks := [(3, stMem)] } }

/-- The Custodian serves again in time: it marks the die, and nothing is left to mark. -/
theorem exec_restartComplete_custodianOwesMark : ∃ t, exec (.restartComplete .custodian) custodianOwesMark = .next t ∧
    t.panel.marks = [] ∧ t.panel.failedSlots = [3] :=
  ⟨_, rfl, by decide⟩

/-- A change of a processor leaves the panel as it was. -/
theorem State.onProc_panel (s : State) (p : Proc) (f : FwProc → FwProc) : (s.onProc p f).panel = s.panel := rfl

/-- Refutes O4: its RESTART_COMPLETE clause says that a Custodian back in time changes nothing but its own state, and leaves out the die
failures found during its restart, which it marks then (R435, R466). In `custodianOwesMark` one is owed, and is marked. -/
theorem not_stewardAndHostCommandsComplete : ¬ Obligations.StewardAndHostCommandsComplete := by
  unfold Obligations.StewardAndHostCommandsComplete
  rintro ⟨-, -, -, hrestart, -⟩
  have hexec := (hrestart .custodian custodianOwesMark (by decide) (by decide)).1 (by decide) (.inl rfl) rfl rfl
  obtain ⟨t, ht, hmarks, -⟩ := exec_restartComplete_custodianOwesMark
  have heq : t = custodianOwesMark.onProc .custodian (fun k => { k with st := .running }) := Host.Outcome.next.inj (ht.symm.trans hexec)
  rw [heq, State.onProc_panel] at hmarks
  exact absurd hmarks (by decide)

end Sys2Proof.Machine
end

section
/-!
Every code of a floating-point format rounds back to itself (R72, R73, R78, R81). A finite value is an integer on the format's own grid
at that value, so nothing is left to round, and counted on from the grid of the subnormals that integer is the code's magnitude. No
width, bias or largest code enters, so the law holds of every `Fmt` with a sign bit.
-/
namespace Sys2Proof.Machine

/-! ### A code as a sign bit and a magnitude -/

/-- Sign bit of a code (R72). -/
def codeSign (F : Fmt) (c : Nat) : Bool := c.testBit (F.w - 1)

/-- Magnitude of a code: the bits below its sign (R72). -/
def codeMag (F : Fmt) (c : Nat) : Nat := c % 2 ^ (F.w - 1)

theorem signed_codeSign_codeMag {F : Fmt} {c : Nat} (hw : 0 < F.w) (hc : c < 2 ^ F.w) : signed F (codeSign F c) (codeMag F c) = c := by
  unfold signed codeSign codeMag
  have htop : c / 2 ^ (F.w - 1) < 2 := by
    rw [Nat.div_lt_iff_lt_mul (Nat.two_pow_pos _), ← Nat.pow_succ', Nat.succ_eq_add_one, Nat.sub_one_add_one (Nat.ne_of_gt hw)]
    exact hc
  have hsplit := Nat.mod_add_div c (2 ^ (F.w - 1))
  rw [Nat.testBit_eq_decide_div_mod_eq, Nat.mod_eq_of_lt htop]
  rcases Nat.le_one_iff_eq_zero_or_eq_one.mp (Nat.le_of_lt_succ htop) with h | h <;> rw [h] at hsplit ⊢
  · simpa using hsplit
  · simpa using hsplit

section
variable {F : Fmt} {c : Nat}

/-- Above the largest finite value stand infinity, where the format has it, and the NaNs (R73). -/
theorem decode_of_top_lt (h : F.top < codeMag F c) :
    decode F c = if F.inf = true ∧ codeMag F c = F.top + 1 then .inf (codeSign F c) else .nan := if_pos h

/-- Below 2^p the exponent field is 0: a zero or a subnormal (R72). -/
theorem decode_of_lt (h : codeMag F c ≤ F.top) (hp : codeMag F c < 2 ^ F.p) :
    decode F c = if codeMag F c = 0 then .zero (codeSign F c) else .num (codeSign F c) (codeMag F c) 1 (1 - (F.bias : Int) - F.p) := by
  have hex : codeMag F c >>> F.p = 0 := by rw [Nat.shiftRight_eq_div_pow, Nat.div_eq_of_lt hp]
  have hfr : codeMag F c % 2 ^ F.p = codeMag F c := Nat.mod_eq_of_lt hp
  calc decode F c = _ := if_neg (Nat.not_lt_of_le h)
    _ = _ := if_pos hex
    _ = if codeMag F c % 2 ^ F.p = 0 then .zero (codeSign F c) else
        .num (codeSign F c) (codeMag F c % 2 ^ F.p) 1 (1 - (F.bias : Int) - F.p) := rfl
    _ = _ := by rw [hfr]

/-- From 2^p on the value is normal (R72). -/
theorem decode_of_ge (h : codeMag F c ≤ F.top) (hp : 2 ^ F.p ≤ codeMag F c) :
    decode F c = .num (codeSign F c) (2 ^ F.p + codeMag F c % 2 ^ F.p) 1 (((codeMag F c / 2 ^ F.p : Nat) : Int) - F.bias - F.p) := by
  have hex : codeMag F c >>> F.p ≠ 0 := by
    rw [Nat.shiftRight_eq_div_pow]
    exact Nat.ne_of_gt (Nat.div_pos hp (Nat.two_pow_pos _))
  calc decode F c = _ := if_neg (Nat.not_lt_of_le h)
    _ = _ := if_neg hex
    _ = _ := by rw [← Nat.shiftRight_eq_div_pow]; rfl

end

/-! ### Rounding on the grid -/

theorem log2Frac_one {n : Nat} (hn : n ≠ 0) : log2Frac n 1 = Nat.log2 n := by
  have hle : shl 1 (Nat.log2 n) ≤ n := by simpa [shl, Nat.one_shiftLeft] using Nat.log2_self_le hn
  have hone : Nat.log2 1 = 0 := by decide
  simp [log2Frac, hone, hle]

theorem rneDiv_one (n : Nat) : rneDiv n 1 = n := by simp [rneDiv, Nat.mod_one]

/-- The grid at n·2^(k − p) is that of exponent k: the value's own exponent, and no less than that of the subnormals. -/
def OnGrid (F : Fmt) (n : Nat) (k : Int) : Prop := n ≠ 0 ∧ max ((Nat.log2 n : Int) + (k - F.p)) (1 - F.bias) = k

/-- A value on the grid keeps its integer, counted on from the grid of the subnormals (R78). -/
theorem rneCode_of_onGrid {F : Fmt} {n : Nat} {k : Int} (h : OnGrid F n k) :
    rneCode F n 1 (k - F.p) = n + (k - (1 - F.bias)).toNat * 2 ^ F.p := by
  obtain ⟨hn, hk⟩ := h
  have hbig : ¬ (Nat.log2 n : Int) + (k - F.p) < 1 - (F.bias : Int) - F.p - 1 := by omega
  simp [rneCode, log2Frac_one hn, hk, hbig, shl, rneDiv_one]

theorem onGrid_subnormal {F : Fmt} {m : Nat} (h0 : m ≠ 0) (hp : m < 2 ^ F.p) : OnGrid F m (1 - F.bias) := by
  have hlog : Nat.log2 m < F.p := (Nat.log2_lt h0).mpr hp
  exact ⟨h0, by omega⟩

theorem onGrid_normal {F : Fmt} {fr ex : Nat} (hfr : fr < 2 ^ F.p) (hex : 0 < ex) : OnGrid F (2 ^ F.p + fr) ((ex : Int) - F.bias) := by
  have hn : 2 ^ F.p + fr ≠ 0 := by have := Nat.two_pow_pos F.p; omega
  have hlog : Nat.log2 (2 ^ F.p + fr) = F.p := (Nat.log2_eq_iff hn).mpr ⟨by omega, by rw [Nat.pow_succ]; omega⟩
  exact ⟨hn, by omega⟩

/-! ### Rounding a decoded value -/

/-- A magnitude that is neither zero nor above the largest finite value is the rounded code, and no flag is set (R80, R81). -/
theorem roundTo_num {F : Fmt} {s : Bool} {n d m : Nat} {e : Int} (hold : Bool) (h : rneCode F n d e = m) (h0 : m ≠ 0) (htop : m ≤ F.top) :
    roundTo F hold (.num s n d e) = pure (signed F s m) := by
  simp [roundTo, h, h0, htop]

section
variable {F : Fmt} {c : Nat} (hold : Bool)

/-- A finite value rounds back to its code's sign and magnitude and sets no flag. -/
theorem roundTo_decode_finite (h : codeMag F c ≤ F.top) : roundTo F hold (decode F c) = pure (signed F (codeSign F c) (codeMag F c)) := by
  by_cases hp : codeMag F c < 2 ^ F.p
  · rw [decode_of_lt h hp]
    by_cases h0 : codeMag F c = 0
    · rw [if_pos h0, h0]; rfl
    · rw [if_neg h0]
      exact roundTo_num hold (by rw [rneCode_of_onGrid (onGrid_subnormal h0 hp)]; simp) h0 h
  · have hp := Nat.le_of_not_lt hp
    have hex : 0 < codeMag F c / 2 ^ F.p := Nat.div_pos hp (Nat.two_pow_pos _)
    have hfr : codeMag F c % 2 ^ F.p < 2 ^ F.p := Nat.mod_lt _ (Nat.two_pow_pos _)
    rw [decode_of_ge h hp]
    refine roundTo_num hold ?_ (by have := Nat.two_pow_pos F.p; omega) h
    calc rneCode F (2 ^ F.p + codeMag F c % 2 ^ F.p) 1 (((codeMag F c / 2 ^ F.p : Nat) : Int) - F.bias - F.p)
        = 2 ^ F.p + codeMag F c % 2 ^ F.p + (codeMag F c / 2 ^ F.p - 1) * 2 ^ F.p := by
          rw [rneCode_of_onGrid (onGrid_normal hfr hex)]
          congr 2; omega
      _ = codeMag F c % 2 ^ F.p + (2 ^ F.p + (codeMag F c / 2 ^ F.p - 1) * 2 ^ F.p) := by rw [Nat.add_comm (2 ^ F.p), Nat.add_assoc]
      _ = codeMag F c % 2 ^ F.p + codeMag F c / 2 ^ F.p * 2 ^ F.p := by
          rw [Nat.sub_one_mul, Nat.add_sub_cancel' (Nat.le_mul_of_pos_left _ hex)]
      _ = codeMag F c := by rw [Nat.mul_comm, Nat.mod_add_div]

/-- The finite codes are those up to the largest finite value's (R72, R73). -/
theorem vFinite_decode_iff : vFinite (decode F c) = true ↔ codeMag F c ≤ F.top := by
  refine ⟨fun h => ?_, fun h => ?_⟩
  · refine Nat.le_of_not_lt (fun hlt => ?_)
    rw [decode_of_top_lt hlt] at h
    split at h <;> exact Bool.false_ne_true h
  · by_cases hp : codeMag F c < 2 ^ F.p
    · rw [decode_of_lt h hp]
      split <;> rfl
    · rw [decode_of_ge h (Nat.le_of_not_lt hp)]; rfl

theorem roundTo_of_vIsNan {v : Val} (h : vIsNan v = true) : roundTo F hold v = pure (F.nan.getD 0) := by
  cases v with
  | nan => rfl
  | _ => exact absurd h Bool.false_ne_true

/-- An infinity is read only where the format has one, just above its largest finite value (R73). -/
theorem inf_of_decode {sg : Bool} (h : decode F c = .inf sg) : F.inf = true ∧ codeSign F c = sg ∧ codeMag F c = F.top + 1 := by
  have hlt : F.top < codeMag F c := by
    refine Nat.lt_of_not_le (fun hle => ?_)
    have hfin := vFinite_decode_iff.mpr hle
    rw [h] at hfin
    exact Bool.false_ne_true hfin
  rw [decode_of_top_lt hlt] at h
  split at h
  case isTrue hinf => exact ⟨hinf.1, Val.inf.inj h, hinf.2⟩
  case isFalse => cases h

theorem roundTo_decode_inf {sg : Bool} (h : decode F c = .inf sg) : roundTo F hold (decode F c) = pure (signed F (codeSign F c) (codeMag F c)) := by
  obtain ⟨hinf, hsign, hmag⟩ := inf_of_decode h
  rw [h, hsign, hmag]
  exact if_pos hinf

end

/-- Settles O12: the law of every format, used at the widths of these eight. -/
theorem formatValuesRoundBackToTheirCodes : Obligations.FormatValuesRoundBackToTheirCodes := by
  unfold Obligations.FormatValuesRoundBackToTheirCodes
  intro F hold c hF hc
  have hw : 0 < F.w := (by decide : ∀ G ∈ [fp32, fp16, bf16, e4m3, e5m2, e3m2, e2m3, e2m1], 0 < G.w) F hF
  have hcode := signed_codeSign_codeMag hw hc
  refine ⟨fun h => ?_, fun h => ?_, fun sg h => ?_⟩
  · rw [roundTo_decode_finite hold (vFinite_decode_iff.mp h), hcode]; rfl
  · rw [roundTo_of_vIsNan hold h]; rfl
  · rw [roundTo_decode_inf hold h, hcode]; rfl

end Sys2Proof.Machine
end

section
/-!
What each family of commands leaves alone (R45, R99, R187, R299, R324, R343, R429): a meaning writes its result through the frame of its
family, and a frame copies only what the family may change.
-/
namespace Sys2Proof.Machine

/-- Whatever state it is met in, command `i` answers a result written through the frame `F`. -/
def WritesThrough (F : State → State → State) (i : Instr) : Prop := ∀ s, ∃ u, exec i s = .next (F s u)

/-- What holds of every result of a frame holds of what the commands that write through it answer. -/
theorem answers_of_writesThrough {F : State → State → State} {l : List Instr} {P : State → State → Prop}
    (hl : ∀ i ∈ l, WritesThrough F i) (hF : ∀ s u, P s (F s u)) (s t : State) (i : Instr) (hi : i ∈ l) (h : exec i s = .next t) : P s t := by
  obtain ⟨u, hu⟩ := hl i hi s
  have ht : t = F s u := Host.Outcome.next.inj (h.symm.trans hu)
  exact ht ▸ hF s u

theorem engine_writesThrough (c : ClusterId) : ∀ i ∈ [Instr.mma c, .mmaComputeEnd c, .mmaEpilogueEnd c, .vop c, .vfunc c,
    .funcLoadResident c, .vrowstat c, .vnormFwd c, .vnormBwd c, .vsoftmaxFwd c, .vsoftmaxBwd c, .vconv c, .copy c, .copy2d c, .copyt c,
    .reblock c, .gather c, .scatter c], WritesThrough State.coreFrame i := by
  intro i hi s
  simp only [List.mem_cons, List.not_mem_nil, or_false] at hi
  rcases hi with rfl | rfl | rfl | rfl | rfl | rfl | rfl | rfl | rfl | rfl | rfl | rfl | rfl | rfl | rfl | rfl | rfl | rfl <;> exact ⟨_, rfl⟩

theorem curator_writesThrough (c : ClusterId) : ∀ i ∈ [Instr.folioFetch c, .curatorDispatch c, .wait c, .signal c, .fence c,
    .fenceSatisfied c, .call c, .timeat c, .timeatResume c, .end_ c], WritesThrough State.curFrame i := by
  intro i hi s
  simp only [List.mem_cons, List.not_mem_nil, or_false] at hi
  rcases hi with rfl | rfl | rfl | rfl | rfl | rfl | rfl | rfl | rfl | rfl <;> exact ⟨_, rfl⟩

/-- An edge event whose operands name nothing of the edge leaves the state as it is (log 1), which its frame allows too. -/
theorem formed_meshFrame (ok : Bool) (s u : State) : ∃ v, formed ok s (s.meshFrame u) = .next (s.meshFrame v) := by
  cases ok with
  | false => exact ⟨s, rfl⟩
  | true => exact ⟨u, rfl⟩

theorem edge_writesThrough (e : EdgeId) (sl : Fin 16) (d : Bool) (lane : Fin 66) (f : Flit) (r : DieId) :
    ∀ i ∈ [Instr.flitReceive e sl d f, .laneFailure e sl d lane, .laneReplaced e sl d, .sliceRetire e sl, .reweightDrainEnd r,
      .laneRepairRecord], WritesThrough State.meshFrame i := by
  simp only [List.forall_mem_cons]
  exact ⟨fun s => formed_meshFrame _ s _, fun s => formed_meshFrame _ s _, fun s => formed_meshFrame _ s _, fun s => formed_meshFrame _ s _,
    fun _ => ⟨_, rfl⟩, fun _ => ⟨_, rfl⟩, List.forall_mem_nil _⟩

theorem link_writesThrough (l : LinkId) (b : Block) (ok : Bool) (j : JobId) : ∀ i ∈ [Instr.beaconSend l, .beacon l b ok,
    .trainingTimeout l, .absentRetrain l, .linkRejoinDrainEnd l, .epochGraceEnd j], WritesThrough State.linkFrame i := by
  simp only [List.forall_mem_cons]
  exact ⟨fun _ => ⟨_, rfl⟩, fun _ => ⟨_, rfl⟩, fun _ => ⟨_, rfl⟩, fun _ => ⟨_, rfl⟩, fun _ => ⟨_, rfl⟩, fun _ => ⟨_, rfl⟩, List.forall_mem_nil _⟩

theorem time_writesThrough (v : W64) (off : Int) (n : Nat) : ∀ i ∈ [Instr.timeSyncSend, .ppsEdge n, .ptpMeasurement off, .timeSet v,
    .syncLossHoldover, .holdoverExpire, .refLossTimeout, .referenceLost], WritesThrough State.timeFrame i := by
  intro i hi s
  simp only [List.mem_cons, List.not_mem_nil, or_false] at hi
  rcases hi with rfl | rfl | rfl | rfl | rfl | rfl | rfl | rfl <;> exact ⟨_, rfl⟩

theorem powerCap_writesThrough (v : W64) (n : Nat) : ∀ i ∈ [Instr.powerCapWrite v, .bursarPowerMeasure n], WritesThrough State.capFrame i := by
  intro i hi s
  simp only [List.mem_cons, List.not_mem_nil, or_false] at hi
  rcases hi with rfl | rfl <;> exact ⟨_, rfl⟩

theorem custodian_writesThrough (v : W64) (w : W32) (m : Fin 2) : ∀ i ∈ [Instr.featAcceptWrite v, .memcfgWrite w, .svnCommit v,
    .svnCommitDone, .report, .extend, .certs, .attestOpDone, .ucieModuleDown m], WritesThrough State.stewardFrame i := by
  intro i hi s
  simp only [List.mem_cons, List.not_mem_nil, or_false] at hi
  rcases hi with rfl | rfl | rfl | rfl | rfl | rfl | rfl | rfl | rfl <;> exact ⟨_, rfl⟩

/-- Settles O5, by the frame of each family. -/
theorem familiesChangeOnlyTheirOwnState : Obligations.FamiliesChangeOnlyTheirOwnState := by
  unfold Obligations.FamiliesChangeOnlyTheirOwnState
  exact ⟨fun c => answers_of_writesThrough (engine_writesThrough c) fun _ _ => rfl,
    fun c => answers_of_writesThrough (curator_writesThrough c) fun _ _ => rfl,
    fun e sl d lane f r => answers_of_writesThrough (edge_writesThrough e sl d lane f r) fun _ _ => rfl,
    fun l b ok j => answers_of_writesThrough (link_writesThrough l b ok j) fun _ _ => rfl,
    fun v off n => answers_of_writesThrough (time_writesThrough v off n) fun _ _ => rfl,
    fun v n => answers_of_writesThrough (powerCap_writesThrough v n) fun _ _ => rfl,
    fun v w m => answers_of_writesThrough (custodian_writesThrough v w m) fun _ _ => rfl⟩

end Sys2Proof.Machine
end

section
/-!
The matrix engine: what its three steps make of the state and of the cluster (R105, R117 to R125, R230), and what a wait that begins
leaves of the product array.
-/
namespace Sys2Proof.Machine

/-! ### One cluster changed -/

/-- A second write at a number overrides the first. -/
theorem sset_sset_over {α : Type} [DecidableEq α] (d : α) (k : Nat) (v w : α) : ∀ {m : Sparse α}, Rising m →
    sset d (sset d m k v) k w = sset d m k w
  | [], _ => by by_cases hv : v = d <;> simp [sset, hv]
  | (i, x) :: t, h => by
    obtain ⟨hi, ht⟩ := List.pairwise_cons.mp h
    rcases Nat.lt_trichotomy k i with hk | rfl | hk
    · by_cases hv : v = d <;> simp [sset, hk, hv]
    · by_cases hv : v = d
      · cases t with
        | nil => simp [sset, hv]
        | cons e r => simp [sset, hv, hi e (by simp)]
      · simp [sset, hv]
    · simp only [sset, if_neg (Nat.lt_asymm hk), if_neg (Nat.ne_of_gt hk), sset_sset_over d k v w ht]

theorem State.setCl_setCl {s : State} (c : Nat) (k l : Cluster) (h : Rising s.clusters) : (s.setCl c k).setCl c l = s.setCl c l :=
  congrArg (fun m => { s with clusters := m }) (sset_sset_over {} c k l h)

theorem State.setCl_draw (s : State) (c : Nat) (k : Cluster) : (s.setCl c k).draw = s.draw.setCl c k := rfl

/-- A result that differs from `s` in what an engine may change, and that poisoned nothing, is the outcome as it stands. -/
theorem coreFrame_settle {s t : State} (hf : t = { s with mem := t.mem, clusters := t.clusters, time := t.time, fresh := t.fresh })
    (hn : t.mem.newPoison = []) : s.coreFrame t.settle = t := by
  rw [State.settle_of_nil hn, hf]; rfl

/-! ### Flagged computations -/

theorem NumM.run_bind {α β : Type} (x : NumM α) (f : α → NumM β) (g : Flags) : (x >>= f).run g = (f (x.run g).1).run (x.run g).2 := rfl

theorem NumM.run_pure {α : Type} (a : α) (g : Flags) : (pure a : NumM α).run g = (a, g) := rfl

theorem mapF_map {α β γ : Type} (f : β → NumM α) (g : γ → β) : ∀ l : List γ, mapF f (l.map g) = mapF (fun x => f (g x)) l
  | [] => rfl
  | x :: t => by simp only [mapF, List.map_cons, mapF_map f g t]

/-- An operation that does not look at the positions needs none. -/
theorem mapF_indexed {α β : Type} (f : β → NumM α) (l : List β) : mapF (fun p => f p.2) (l.mapIdx (fun i v => (i, v))) = mapF f l := by
  rw [← mapF_map f Prod.snd, List.mapIdx_eq_zipIdx_map, List.map_map]
  exact congrArg (mapF f) (List.zipIdx_map_fst 0 l)

/-! ### The product array -/

namespace Cluster

/-- What a cluster's product array holds: the MMA that waits for it, the one in it, when that one started, and when it is free (R123). -/
def array (k : Cluster) : Option MxJob × Option MxJob × Nat × Nat := (k.mxIssued, k.mxComp, k.mxStart, k.mxCompFree)

theorem grant_array (k : Cluster) (n : Nat) (w : Waiter) : (k.grant n w).array = k.array := by
  unfold grant
  cases w.who with
  | curator => dsimp only; split <;> rfl
  | _ => rfl

theorem foldl_grant_array (n : Nat) : ∀ (ws : List Waiter) (k : Cluster), (ws.foldl (fun k w => k.grant n w) k).array = k.array
  | [], _ => rfl
  | w :: ws, k => (foldl_grant_array n ws _).trans (k.grant_array n w)

theorem evaluate_array (k : Cluster) (n i : Nat) : (k.evaluate n i).array = k.array := foldl_grant_array n _ _

theorem beginWait_array (k : Cluster) (n : Nat) (who : Waiting) (q : QCmd) : (k.beginWait n who q).array = k.array := by
  unfold beginWait
  split
  · rfl
  · dsimp only
    split
    · rfl
    · exact evaluate_array _ _ _

theorem armHead_array (k : Cluster) (n : Nat) (who : Waiting) (q : List QCmd) (free : Bool) : (k.armHead n who q free).array = k.array := by
  unfold armHead
  split
  · rfl
  · split
    · exact beginWait_array _ _ _ _
    · rfl

/-- The waits of queue heads do not touch the product array (R194). -/
theorem arm_array (k : Cluster) (n : Nat) : (k.arm n).array = k.array := by simp only [arm, armHead_array]

/-- A change that leaves the jobs as they are counts no busy cycle (R128). -/
theorem rejob_of_eq {k : Cluster} {f : Cluster → Cluster} (a : Nat) (h : f k = k) : k.rejob a f = k := by
  simp only [rejob, h, BitVec.add_sub_cancel]

end Cluster

/-! ### An MMA that has issued -/

/-- The job that an MMA becomes when it issues at cycle `issue`: it starts there, or 48 cycles later if the array is idle (R123, R230). -/
def Cluster.issuedJob (k : Cluster) (q : QCmd) (d : MmaDescs) (issue conf : Nat) : MxJob :=
  { q := q, da := d.a, db := d.b, dc := d.c, dr := d.r, dp := d.p, start := issue + (if k.mxCompFree ≤ issue then 48 else 0), conf := conf }

/-- The head of the matrix queue leaves it as job `j`. -/
def Cluster.issue (k : Cluster) (j : MxJob) : Cluster := { k.pop .mx with mxIssued := some j }

/-- Cycle at which an issued job starts: array, buffer and issue are all past (R123). -/
def Cluster.startOf (k : Cluster) (j : MxJob) : Nat := max (max k.mxCompFree (sget 0 k.mxBufFree (mmBuf j.q.cmd))) j.start

section StartIssued
variable {k : Cluster} {j : MxJob} (n : Nat)

theorem Cluster.startIssued_of_none (h : k.mxIssued = none) : k.startIssued n = k := by
  simp only [startIssued, h]

/-- It stays issued while the array or its buffer is not free (R123). -/
theorem Cluster.startIssued_of_busy (hj : k.mxIssued = some j) (h : k.mxComp.isSome = true ∨ k.bufFree (mmBuf j.q.cmd) = false) :
    k.startIssued n = k := by
  simp only [startIssued, hj]
  rcases h with h | h <;> simp [h]

/-- Else it starts, and computes for the cycles of its K-groups and bank conflicts (R123). -/
theorem Cluster.startIssued_array (hj : k.mxIssued = some j) (hc : k.mxComp = none) (hb : k.bufFree (mmBuf j.q.cmd) = true)
    (hm : k.cur.mode ≠ .switched) : (k.startIssued n).array =
      (none, some { j with start := k.startOf j, computeEnd := k.startOf j + j.compute }, k.startOf j, k.startOf j + j.compute) := by
  have hfree : (k.mxComp.isSome || !k.bufFree (mmBuf j.q.cmd) || k.cur.mode == .switched) = false := by simp [hc, hb, hm]
  simp only [startIssued, hj, hfree, Bool.false_eq_true, if_false, arm_array]
  rfl

end StartIssued

/-- The command at the head of a queue is taken there only while no program switch has stopped the cluster (R333). -/
theorem Cluster.mode_of_head {k : Cluster} {op : Nat} {q : QCmd} (h : k.head .mx op = some q) : k.cur.mode ≠ .switched := by
  unfold head at h
  dsimp only at h
  intro hm
  split at h
  · simp [hm] at h
  · cases h

end Sys2Proof.Machine
end

section
/-!
The three rows of the matrix engine (R105, R117 to R125, R230): issue, end of the computation, end of the epilogue. Each changes its own
cluster once, and the memories by what it reads and writes.
-/
namespace Sys2Proof.Machine

/-! ### Issue -/

theorem State.rising_mxTurn {s : State} (c : Nat) (h : Rising s.clusters) : Rising (s.mxTurn c).clusters :=
  State.rising_onCl c _ (State.rising_runTo _ h)

theorem State.mxTurn_shape (s : State) (c : Nat) : ∃ x l, s.mxTurn c = { s with time := x, clusters := l } := by
  obtain ⟨x, l, h⟩ := s.runTo_shape ((s.cl c).mxStart * cycT)
  exact ⟨x, _, by rw [State.mxTurn, h]; rfl⟩

/-- What an MMA with sound descriptors leaves: issued, or refused 48 cycles after its issue (R105, R124, R230; log 87). -/
def mmaOutcome (c : Nat) (u : State) (q : QCmd) (k : Cluster) (issue : Nat) : State :=
  if u.mmaCheck c q.cmd (mmaDescs u.mem c q.cmd) = stOk then
    u.draw.setCl c ((k.issue (k.issuedJob q (mmaDescs u.mem c q.cmd) issue (Config.bankConflicts u.fresh))).startIssued
      (u.time.ticks / cycT))
  else u.setCl c (((k.pop .mx).mxFinish q (u.mmaCheck c q.cmd (mmaDescs u.mem c q.cmd)) 0 ((issue + 48) * cycT)).arm u.cycle)

section Issue
variable {c : ClusterId} {s w u : State} {q : QCmd} {k : Cluster} {issue : Nat}

theorem mmaStep_of_head (hr : Rising w.clusters) (hw : w = s.mxTurn c) (hk : k = w.cl c) (hq : k.head .mx 0x01 = some q)
    (hu : u = w.onMem (fun m => m.touchAll w.mx ((mmaTds q.cmd).map (tdBlock c))))
    (hs : u.mem.sound ((mmaTds q.cmd).map (tdBlock c)) = true) (hi : issue = max q.ready k.mxStart) :
    mmaStep c s = mmaOutcome c u q k issue := by
  have hru : Rising u.clusters := by rw [hu]; exact hr
  have hrd : Rising u.draw.clusters := hru
  have hku : u.cl c = k := by rw [hu, hk]; rfl
  unfold mmaStep mmaOutcome
  simp only [← hw, ← hk, hq, ← hu, hs, ← hi, if_true, State.onCl, hku, State.setCl_draw, State.cl_setCl_self c _ hru,
    State.cl_setCl_self c _ hrd, State.setCl_setCl c _ _ hru, State.setCl_setCl c _ _ hrd]
  rfl

/-- An MMA at the head of its queue, its descriptors sound, is the outcome as it stands. -/
theorem exec_mma (hr : Rising s.clusters) (hw : w = s.mxTurn c) (hk : k = w.cl c) (hq : k.head .mx 0x01 = some q)
    (hu : u = w.onMem (fun m => m.touchAll w.mx ((mmaTds q.cmd).map (tdBlock c)))) (hn : u.mem.newPoison = [])
    (hs : u.mem.sound ((mmaTds q.cmd).map (tdBlock c)) = true) (hi : issue = max q.ready k.mxStart) :
    exec (.mma c) s = .next (mmaOutcome c u q k issue) := by
  obtain ⟨x, l, hx⟩ := s.mxTurn_shape c
  have hstep := mmaStep_of_head (hw ▸ State.rising_mxTurn c hr) hw hk hq hu hs hi
  have hframe : mmaOutcome c u q k issue = { s with
      mem := (mmaOutcome c u q k issue).mem, clusters := (mmaOutcome c u q k issue).clusters
      time := (mmaOutcome c u q k issue).time, fresh := (mmaOutcome c u q k issue).fresh } := by
    unfold mmaOutcome
    split <;> rw [hu, hw, hx] <;> rfl
  have hpoison : (mmaOutcome c u q k issue).mem.newPoison = [] := by
    unfold mmaOutcome
    split <;> exact hn
  calc exec (.mma c) s = .next (s.coreFrame (mmaStep c s).settle) := rfl
    _ = .next (mmaOutcome c u q k issue) := by rw [hstep, coreFrame_settle hframe hpoison]

end Issue

/-- Settles O25, by the check of the command: one that passes is issued, and starts at once where array and buffer are free. -/
theorem mmaStartsOrIsRefused : Obligations.MmaStartsOrIsRefused := by
  unfold Obligations.MmaStartsOrIsRefused
  intro c s w u q k d st issue hr hw hk hq hu hn hs hd hst hi
  have hru : Rising u.clusters := by rw [hu, hw]; exact State.rising_mxTurn c hr
  have hfresh : u.fresh = s.fresh := by
    obtain ⟨x, l, hx⟩ := s.mxTurn_shape c
    rw [hu, hw, hx]; rfl
  have hexec := exec_mma hr hw hk hq hu hn hs hi
  have hothers : ∀ e : Nat, u.cl e = w.cl e := fun e => by rw [hu]; rfl
  rw [mmaOutcome, ← hd, ← hst, hfresh] at hexec
  by_cases hok : st = stOk
  · rw [if_pos hok] at hexec
    have hrd : Rising u.draw.clusters := hru
    refine ⟨_, hexec, rfl, fun e he => (State.cl_setCl_ne _ _ he).trans (hothers e),
      fun _ => ⟨congrArg (· + 1) hfresh, k.issuedJob q d issue (Config.bankConflicts s.fresh), rfl, ?_, ?_⟩, fun h => absurd hok h⟩
    · intro hbusy
      rw [State.cl_setCl_self (c : Nat) _ hrd]
      exact Cluster.startIssued_of_busy _ rfl hbusy
    · intro hcomp hbuf
      have hmode : k.cur.mode ≠ .switched := Cluster.mode_of_head hq
      have hstart := Cluster.startIssued_array (k := k.issue (k.issuedJob q d issue (Config.bankConflicts s.fresh))) (u.time.ticks / cycT)
        rfl hcomp hbuf hmode
      simp only [Cluster.array, Prod.mk.injEq, MxJob.compute, ← Nat.add_assoc] at hstart
      obtain ⟨hissued, hjob, hbegin, hfree⟩ := hstart
      rw [State.cl_setCl_self (c : Nat) _ hrd]
      exact ⟨_, _, rfl, rfl, hjob, hissued, hbegin, hfree⟩
  · rw [if_neg hok] at hexec
    exact ⟨_, hexec, rfl, fun e he => (State.cl_setCl_ne _ _ he).trans (hothers e), fun h => absurd h hok,
      fun _ => ⟨hfresh, State.cl_setCl_self (c : Nat) _ hru⟩⟩

/-! ### The end of the computation -/

/-- A job that enters the epilogue path, when the path is free at cycle `free` (R123). -/
def MxJob.inEpilogue (j : MxJob) (free : Nat) (fl : Flags) : MxJob :=
  { j with epiStart := max j.computeEnd free, flags := fl
           epiEnd := max j.computeEnd free + epiCycles j.q.cmd { a := j.da, b := j.db, c := j.dc, r := j.dr, p := j.dp } }

namespace Cluster

/-- The product leaves the array for its buffer (R105, R121, R128). -/
def computed (k : Cluster) (j : MxJob) (vals : List W32) : Cluster :=
  ({ k with mxComp := none, mxCompFree := j.computeEnd, mxConflicts := k.mxConflicts + BitVec.ofNat 64 j.conf } : Cluster).setAcc
    (mmBuf j.q.cmd) { k.acc (mmBuf j.q.cmd) with m := mmM j.q.cmd, n := mmN j.q.cmd, vals := vals }

/-- The epilogue path takes a job (R123). -/
def toEpilogue (k : Cluster) (j : MxJob) : Cluster :=
  { k with mxEpi := k.mxEpi ++ [j], mxEpiFree := j.epiEnd, mxBufFree := sset 0 k.mxBufFree (mmBuf j.q.cmd) j.epiEnd }

/-- After a computation whose K-groups could all be read: the job goes to its epilogue, or is finished (R122, R123). -/
def computeEnded (k : Cluster) (j : MxJob) (vals : List W32) (fl : Flags) (cyc : Nat) : Cluster :=
  if mmWrite j.q.cmd = true then (k.computed j vals).rejob cyc (fun k => k.toEpilogue (j.inEpilogue k.mxEpiFree fl))
  else (k.computed j vals).mxFinish j.q stOk fl (j.computeEnd * cycT)

@[simp] theorem setAcc_acc (k : Cluster) (b : Nat) (a : AccBuf) : (k.setAcc b a).acc b = a := by
  unfold setAcc acc
  split <;> rfl

/-- A buffer's new contents leave every part of the cluster but the two buffers. -/
theorem setAcc_shape (k : Cluster) (b : Nat) (a : AccBuf) :
    k.setAcc b a = { k with acc0 := (k.setAcc b a).acc0, acc1 := (k.setAcc b a).acc1 } := by
  unfold setAcc
  split <;> rfl

theorem mxIssued_computeEnded {k : Cluster} (j : MxJob) (vals : List W32) (fl : Flags) (cyc : Nat) (h : k.mxIssued = none) :
    (k.computeEnded j vals fl cyc).mxIssued = none := by
  unfold computeEnded computed
  rw [setAcc_shape]
  split <;> exact h

end Cluster

section ComputeEnd
variable {c : ClusterId} {s : State} {m : MemSt} {j : MxJob} {vals : List W32} {fl : Flags} {k : Cluster}

/-- The K-groups of a product hold all of its positions (R111). -/
theorem min_kGroups (n : Nat) : min n (32 * kGroups n) = n := by
  unfold kGroups ceilDiv
  omega

theorem computeEndStep_of_read (hr : Rising s.clusters) (hk : k = s.cl c) (hj : k.mxComp = some j)
    (hdue : j.computeEnd * 10 ≤ s.time.ticks) (hi : k.mxIssued = none)
    (hread : s.mem.readGroups s.mx c j (kGroups (mmK j.q.cmd)) 0 = (m, kGroups (mmK j.q.cmd)))
    (hv : (m.product c j (k.acc (mmBuf j.q.cmd)) (mmK j.q.cmd)).run 0 = (vals, fl)) :
    computeEndStep c s = ({ s with mem := m } : State).setCl c (k.computeEnded j vals fl (s.time.ticks / cycT)) := by
  have hrm : Rising ({ s with mem := m } : State).clusters := hr
  have hkm : ({ s with mem := m } : State).cl c = k := hk.symm
  have hclock : ({ s with mem := m } : State).runTo (j.computeEnd * cycT) = { s with mem := m } := State.runTo_of_le hdue
  have hsame : k.rejob (s.time.ticks / cycT) (fun k => { k with mxComp := some j }) = k := Cluster.rejob_of_eq _ (by rw [← hj])
  have hnext := Cluster.startIssued_of_none (s.time.ticks / cycT)
    (Cluster.mxIssued_computeEnded j vals fl (s.time.ticks / cycT) hi)
  unfold computeEndStep
  simp only [← hk, hj, hread, if_true, hclock, min_kGroups, hkm, hv, State.onCl, hsame, State.cl_setCl_self c _ hrm,
    State.setCl_setCl c _ _ hrm]
  rw [← hnext, Cluster.computeEnded]
  split <;> simp only [State.cl_setCl_self c _ hrm, State.setCl_setCl c _ _ hrm] <;> rfl

end ComputeEnd

/-- Settles O26, by whether the command writes: it is finished, or its job is the last of the epilogue path. -/
theorem mmaComputationEnds : Obligations.MmaComputationEnds := by
  unfold Obligations.MmaComputationEnds
  intro c s m j vals fl hr hj hdue hi hread hn hv
  have hexec : exec (.mmaComputeEnd c) s =
      .next (({ s with mem := m } : State).setCl c ((s.cl c).computeEnded j vals fl (s.time.ticks / cycT))) :=
    calc exec (.mmaComputeEnd c) s = .next (s.coreFrame (computeEndStep c s).settle) := rfl
      _ = _ := by rw [computeEndStep_of_read hr rfl hj hdue hi hread hv, coreFrame_settle rfl hn]
  have hcl := State.cl_setCl_self (s := { s with mem := m }) (c : Nat) ((s.cl c).computeEnded j vals fl (s.time.ticks / cycT)) hr
  refine ⟨_, _, hexec, rfl, fun e he => State.cl_setCl_ne _ _ he, rfl, fun hw => ?_, fun hw => ?_⟩
  · rw [hcl, Cluster.computeEnded, hw]
    rfl
  · rw [hcl, Cluster.computeEnded, if_pos hw]
    have hacc : ((s.cl c).computed j vals).acc (mmBuf j.q.cmd) =
        { (s.cl c).acc (mmBuf j.q.cmd) with m := mmM j.q.cmd, n := mmN j.q.cmd, vals := vals } := Cluster.setAcc_acc _ _ _
    -- The rejob counts busy cycles alone, and the buffer's contents touch none of these fields.
    refine ⟨_, _, rfl, rfl, ?_, ?_, ?_, ?_, ?_, hacc⟩ <;> rw [Cluster.computed, Cluster.setAcc_shape] <;> rfl

/-! ### The end of the epilogue -/

theorem epilogueEndStep_of_plain {c : ClusterId} {s : State} {m : MemSt} {j : MxJob} {rest : List MxJob} {out : List OutRow} {fl : Flags}
    {k : Cluster} (hr : Rising s.clusters) (hk : k = s.cl c) (hj : k.mxEpi = j :: rest) (hdue : j.epiEnd * 10 ≤ s.time.ticks)
    (hfunc : mmFunc j.q.cmd = false) (hres : mmRes j.q.cmd = false) (hsave : mmSave j.q.cmd = false) (hdel : tDelayed j.dc = false)
    (hblk : fmtBlocked (tFmt j.dc) = false)
    (hrun : ((mapF (fun (a : W32) => epiElem j none a none) (k.acc (mmBuf j.q.cmd)).vals) >>= fun ps =>
      convRows j.dc (chunkRows (mmN j.q.cmd) (mmM j.q.cmd) (ps.map (fun p => p.2)))).run j.flags = (out, fl))
    (hm : m = s.mem.putRows s.mx (ownerCmd c .mx j.q) (carrelAt c (tBase j.dc)) (tPitch j.dc) 0 (carrelAt c (tBezBase j.dc))
      (tBezPitch j.dc) 0 0 out) :
    epilogueEndStep c s = ({ s with mem := m } : State).setCl c
      (({ k with mxEpi := rest } : Cluster).mxFinish j.q stOk fl (j.epiEnd * cycT)) := by
  have hrm : Rising ({ s with mem := m } : State).clusters := hr
  have hclock : s.runTo (j.epiEnd * cycT) = s := State.runTo_of_le hdue
  have htab : tableBlocks j.dc (mmM j.q.cmd) (mmN j.q.cmd) = [] := if_neg (by simp [hdel])
  have htouch : ∀ t : State, t.onMem (fun mm => mm.touchAll t.mx []) = t := fun _ => rfl
  have hsound : ∀ mm : MemSt, mm.sound [] = true := fun _ => rfl
  have hconv : ∀ (mm : MemSt) rows, mm.convertFor j.dc rows = convRows j.dc rows >>= fun o => pure (o, []) :=
    fun mm rows => if_neg (by simp [hdel])
  have helems := mapF_indexed (fun (a : W32) => epiElem j none a none) (k.acc (mmBuf j.q.cmd)).vals
  generalize hp : ({ k with mxEpi := rest } : Cluster) = p
  have hpop : s.onCl c (fun k => { k with mxEpi := rest }) = s.setCl c p := by rw [← hp, hk]; rfl
  have hcl : (s.setCl c p).cl c = p := State.cl_setCl_self c _ hr
  have hacc : p.acc (mmBuf j.q.cmd) = k.acc (mmBuf j.q.cmd) := by rw [← hp]; rfl
  have hf : p.epiFunc j.q.cmd = some none := if_neg (by simp [hfunc])
  rw [NumM.run_bind] at hrun
  unfold epilogueEndStep
  simp only [← hk, hj, hclock, hpop, hcl, hf, hres, htab, hsave, hblk, hconv, hacc, helems, htouch, hsound, Bool.false_eq_true, if_false,
    Bool.not_true, List.nil_append, Option.map_none, pure_bind, NumM.run_bind, NumM.run_pure, hrun, MemSt.putRows, MemSt.putEntries]
  rw [← State.setCl_setCl c p _ hrm, hm]
  exact congrArg (fun l => State.setCl _ c (Cluster.mxFinish l j.q stOk fl (j.epiEnd * cycT))) hcl

/-- Settles O27: the rows that the memories take are those converted from the accumulators, and the job leaves the path. -/
theorem mmaEpilogueWritesItsRows : Obligations.MmaEpilogueWritesItsRows := by
  unfold Obligations.MmaEpilogueWritesItsRows
  intro c s m j rest out fl hr hj hdue hfunc hres hsave hdel hblk hrun hm hn
  have hexec : exec (.mmaEpilogueEnd c) s = .next (({ s with mem := m } : State).setCl c
      (({ s.cl c with mxEpi := rest } : Cluster).mxFinish j.q stOk fl (j.epiEnd * cycT))) :=
    calc exec (.mmaEpilogueEnd c) s = .next (s.coreFrame (epilogueEndStep c s).settle) := rfl
      _ = _ := by rw [epilogueEndStep_of_plain hr rfl hj hdue hfunc hres hsave hdel hblk hrun hm, coreFrame_settle rfl hn]
  exact ⟨_, hexec, rfl, State.cl_setCl_self (s := { s with mem := m }) (c : Nat) _ hr, fun e he => State.cl_setCl_ne _ _ he⟩

end Sys2Proof.Machine
end

section
/-!
A function load (R138, R139): the blocks it reads leave the memories as they stood, so what it leaves is its cluster's change alone.
-/
namespace Sys2Proof.Machine

/-! ### Reads that change nothing -/

theorem MemSt.touchAll_of_unchanged {m : MemSt} {x : MemX} : ∀ {bs : List Nat}, (∀ b ∈ bs, m.touch x b = m) → m.touchAll x bs = m
  | [], _ => rfl
  | b :: t, h => by
    obtain ⟨hb, ht⟩ := List.forall_mem_cons.mp h
    rw [touchAll, hb, touchAll_of_unchanged ht, ite_self]

theorem MemSt.sound_iff {m : MemSt} {bs : List Nat} : m.sound bs = true ↔ ∀ b ∈ bs, m.poisoned b = false := by simp [sound]

/-- Sound blocks that a read leaves as they stand: the two facts a step asks of a list of them. -/
theorem MemSt.touchAll_and_sound {m : MemSt} {x : MemX} {bs : List Nat} (h : ∀ b ∈ bs, m.touch x b = m ∧ m.poisoned b = false) :
    m.touchAll x bs = m ∧ m.sound bs = true :=
  ⟨touchAll_of_unchanged fun b hb => (h b hb).1, sound_iff.mpr fun b hb => (h b hb).2⟩

theorem State.onMem_touchAll_of_eq {s : State} {x : MemX} {bs : List Nat} (h : s.mem.touchAll x bs = s.mem) :
    s.onMem (fun m => m.touchAll x bs) = s :=
  congrArg (fun m => { s with mem := m }) h

theorem div_mem_blocksOf {a n : Nat} (hn : n ≠ 0) : a / 64 ∈ blocksOf a n := by
  rw [blocksOf, if_neg hn]
  exact List.mem_cons_self

/-! ### What a cluster's change leaves -/

@[simp] theorem State.onCl_mx (s : State) (c : Nat) (f : Cluster → Cluster) : (s.onCl c f).mx = s.mx := rfl
@[simp] theorem State.onCl_cycle (s : State) (c : Nat) (f : Cluster → Cluster) : (s.onCl c f).cycle = s.cycle := rfl
@[simp] theorem State.onCl_numerics (s : State) (c : Nat) (f : Cluster → Cluster) : (s.onCl c f).numerics = s.numerics := rfl

/-! ### The load -/

/-- A cluster whose function load has begun: the command has left the queue and the slot is absent (R138). -/
def Cluster.beginLoad (k : Cluster) (j : LoadJob) : Cluster :=
  { k.pop .vx with funcs := sset none k.funcs j.slot none, load := some j }

section Load
variable {c : Nat} {s : State} {q : QCmd} {d : Block} {a : Nat}

/-- The load of a readable image with a good header, 224 cycles long (R138, R139). -/
theorem loadStep_of_readable (hr : Rising s.clusters) (hop : vfuncOpOk q.cmd = true) (hrsv : vRsvOk q.cmd = true)
    (hd : d = s.mem.td c (vS0 q.cmd)) (ha : a = carrelAt c (tBase d)) (hown : tOwnOk d = true) (halign : tBase d % 64 = 0)
    (hfit : tBase d + 12352 ≤ carrelSize)
    (hread : ∀ b ∈ tdBlock c (vS0 q.cmd) :: blocksOf a 12352, s.mem.touch s.mx b = s.mem ∧ s.mem.poisoned b = false)
    (hheader : headerOk (BitVec.ofNat 512 (s.mem.blockNat (a / 64))) s.numerics = true) :
    loadStep c q s = s.setCl c ((s.cl c).beginLoad
      { q := q, slot := vfSlot q.cmd, img := s.mem.image a, due := (s.cycle + 224) * 10 }) := by
  obtain ⟨htd, himg⟩ := List.forall_mem_cons.mp hread
  obtain ⟨htdTouch, htdSound⟩ := MemSt.touchAll_and_sound (List.forall_mem_singleton.mpr htd)
  obtain ⟨hheadTouch, hheadSound⟩ := MemSt.touchAll_and_sound
    (List.forall_mem_singleton.mpr (himg _ (div_mem_blocksOf (by decide))))
  obtain ⟨himgTouch, himgSound⟩ := MemSt.touchAll_and_sound himg
  -- The three reads, of the descriptor, the header's block and the image: none changes the state it meets.
  have hreadTd := State.onMem_touchAll_of_eq htdTouch
  have hreadHead := State.onMem_touchAll_of_eq (s := s.onCl c (fun k => k.pop .vx)) hheadTouch
  have hreadImg := State.onMem_touchAll_of_eq (s := s.onCl c (fun k => k.pop .vx)) himgTouch
  have hchecks : firstBad [(vfuncOpOk q.cmd, stOp),
      (vRsvOk q.cmd && tOwnOk d && tBase d % 64 == 0 && tBase d + 12352 ≤ carrelSize, stLayout)] = stOk := by
    simp [firstBad, hop, hrsv, hown, halign, hfit]
  unfold loadStep
  simp only [hreadTd, htdSound, ← hd, ← ha, hchecks, hreadHead, hheadSound, hheader, hreadImg, himgSound, State.onCl_mem, State.onCl_mx,
    State.onCl_cycle, State.onCl_numerics, Bool.not_true, Bool.false_eq_true, if_false, bne_self_eq_false]
  simp only [State.onCl, State.cl_setCl_self c _ hr, State.setCl_setCl c _ _ hr]
  rfl

end Load

theorem coreFrame_runTo_onCl (s : State) (t c : Nat) (f : Cluster → Cluster) :
    s.coreFrame ((s.runTo t).onCl c f) = (s.runTo t).onCl c f := by
  obtain ⟨x, l, h⟩ := s.runTo_shape t
  rw [h]
  rfl

/-- Settles O29, by the two steps of a load: its start, which changes its cluster alone, and its residence at its time. -/
theorem functionImageLoadsAndBecomesResident : Obligations.FunctionImageLoadsAndBecomesResident := by
  unfold Obligations.FunctionImageLoadsAndBecomesResident
  refine ⟨fun c s q d a hr hq hmode hop hrsv hd ha hown halign hfit hn hread hheader => ?_, fun c s j hj => ?_⟩
  · have hexec : exec (.vfunc c) s = .next (s.setCl c ((s.cl c).beginLoad
        { q := q, slot := vfSlot q.cmd, img := s.mem.image a, due := (s.cycle + 224) * 10 })) :=
      calc exec (.vfunc c) s = .next (s.coreFrame (vfuncStep c s).settle) := rfl
        _ = .next (s.coreFrame (loadStep c q s).settle) := by simp only [vfuncStep, hq, hmode, if_true]
        _ = _ := by
          rw [loadStep_of_readable hr hop hrsv hd ha hown halign hfit hread hheader]
          exact congrArg Host.Outcome.next (coreFrame_settle rfl hn)
    exact ⟨_, hexec, rfl, fun e he => State.cl_setCl_ne _ _ he, State.cl_setCl_self (c : Nat) _ hr⟩
  · have hstep : loadResident c s = (s.runTo j.due).onCl c (fun k => { k with
        load := none, funcs := sset none k.funcs j.slot (some j.img)
        vxDone := some { q := j.q, status := stOk, flags := 0, due := j.due } }) := by simp only [loadResident, hj]
    calc exec (.funcLoadResident c) s = .next (s.coreFrame (loadResident c s)) := rfl
      _ = _ := by rw [hstep, coreFrame_runTo_onCl]

end Sys2Proof.Machine
end

section
/-!
The state right after reset: every cluster, partition, link and hub is unlisted there, and so reads as its default.
-/
namespace Sys2Proof.Machine

@[simp] theorem State.cl_reset (c : Nat) : State.reset.cl c = {} := rfl
@[simp] theorem State.prt_reset (p : Nat) : State.reset.prt p = {} := rfl
@[simp] theorem State.link_reset (l : Nat) : State.reset.link l = {} := rfl
@[simp] theorem State.hub_reset (h : Nat) : State.reset.hub h = {} := rfl

theorem State.reset_clasp (c k : Nat) : (State.reset.cl c).clasp k = 0 := by rw [cl_reset, Cluster.clasp, sget]

theorem State.reset_cluster_idle (c : Nat) :
    (State.reset.cl c).cur.mode = .idle ∧ (State.reset.cl c).cur.stack = [] ∧ (State.reset.cl c).mxq = [] ∧
    (State.reset.cl c).vxq = [] ∧ (State.reset.cl c).cxq = [] ∧ (State.reset.cl c).acc0.valid = false ∧
    (State.reset.cl c).acc1.valid = false ∧ (State.reset.cl c).funcs = [] ∧ (State.reset.cl c).halt = none ∧
    (State.reset.cl c).parked = false := by simp

theorem State.reset_part_disabled (p : Nat) :
    (State.reset.prt p).subq = 0 ∧ (State.reset.prt p).cq = 0 ∧ (State.reset.prt p).park = 0x107D0 ∧
    (State.reset.prt p).tasks = [] ∧ (State.reset.prt p).active = some 0 ∧
    ∀ k : Nat, (State.reset.prt p).pol k = 0x000003E8019F7F8F := by
  rw [prt_reset]
  exact ⟨rfl, rfl, rfl, rfl, rfl, fun _ => rfl⟩

theorem State.reset_link_down (l : Nat) :
    (State.reset.link l).up = false ∧ (State.reset.link l).cls = 0 ∧ (State.reset.link l).port = 7 := by simp

theorem State.reset_hub_empty (h : Nat) :
    (State.reset.hub h).ledgerCfg = 0 ∧ (State.reset.hub h).preopen = [] ∧ (State.reset.hub h).heldSignals = [] := by simp

/-- Settles O6: the tables read as their defaults at every number, and the package's own registers are the fields' initial values. -/
theorem resetLeavesTheStatedValues : Obligations.ResetLeavesTheStatedValues := by
  unfold Obligations.ResetLeavesTheStatedValues
  exact ⟨rfl, wf_reset, rfl, State.reset_clasp, State.reset_cluster_idle, State.reset_part_disabled, State.reset_link_down,
    rfl, rfl, rfl, rfl, rfl, rfl, rfl, rfl, rfl, rfl, State.reset_hub_empty⟩

end Sys2Proof.Machine
end

section
/-!
The close of a step (R167, R168, R380): it waits for the step to be ready, and opens the verdict context with the Registrar's two values.
-/
namespace Sys2Proof.Machine

/-- The verdict context of a step whose contexts are all gone and whose number no earlier verdict holds: its deadline is 1 ms from now
(R167, R380). -/
def State.freshVerdict (s : State) (p prog : Nat) (t : Task) : Ctx :=
  { part := p, prog := prog, job := BitVec.ofNat 10 t.job, registrar := true
    ctx := BitVec.ofNat 12 ((s.srec p prog).step.toNat % 4096), gradient := false, topk := false, k := 1
    twin := jTwin (s.jobEntry t.job), step := BitVec.ofNat 20 (s.srec p prog).step.toNat, elements := 2
    deadline := s.now + 1000000, plan := verdictPlan (s.verdictStages t.job), result := 0 }

theorem stepCloseStep_of_not_ready {q prog : Nat} {s : State} (h : s.closeReady (s.partOf q) prog = false) :
    stepCloseStep q prog s = s := by
  simp [stepCloseStep, h]

/-- With no context of the step left, B and F are the values seen, and neither a context's deadline nor an earlier verdict of the same
number puts the close off (R168, R370, R380). -/
theorem stepCloseStep_of_fresh {q prog p : Nat} {s : State} {t : Task} (hp : p = s.partOf q) (htask : s.taskInSlot p prog = some t)
    (hready : s.closeReady p prog = true) (hctxs : s.stepCtxs p prog (s.srec p prog).step = []) (hdl : (s.srec p prog).dlSeen = 0)
    (hverdict : sget 0 (s.srec p prog).verdicts ((s.srec p prog).step.toNat % 4096) = 0) :
    stepCloseStep q prog s = (((s.onSrec p prog (fun r => { r with closing := true })).openCtx (s.freshVerdict p prog t)).contributeVerdict
      (s.freshVerdict p prog t) (s.srec p prog).bSeen (s.srec p prog).fSeen).afterHub := by
  subst hp
  simp [stepCloseStep, State.freshVerdict, hready, htask, hctxs, hdl, hverdict]

/-- Settles O39, by whether the step is ready to close. -/
theorem stepCloseOpensTheVerdictContext : Obligations.StepCloseOpensTheVerdictContext := by
  unfold Obligations.StepCloseOpensTheVerdictContext
  intro q k s u t r x p n hp hr htask
  subst hr
  have hexec : exec (.stepCloseBegin q k) s = .next (s.taskFrame (stepCloseStep q k s).afterHub.settle) := rfl
  refine ⟨fun hready => ?_, fun hready hctxs hdl hn hverdict hx hu => ?_⟩
  · rw [HubGoes, hexec, stepCloseStep_of_not_ready (hp ▸ hready)]
  · subst hn
    have hfresh : x = s.freshVerdict p k t := hx
    rw [HubGoes, hexec, stepCloseStep_of_fresh hp htask hready hctxs hdl hverdict, hu, hfresh]

end Sys2Proof.Machine
end

section
/-!
Adds to clasps (R198 to R203): an add that leaves the range halts the folio or is noted for the host, one within it sets the value and
runs the waits, the takes oldest first.
-/
namespace Sys2Proof.Machine

/-- The first halt of a cluster (R196). -/
theorem Cluster.halted_of_none {k : Cluster} (code : BitVec 16) (a : Addr) (f : Flags) (t : Nat) (h : k.halt = none) :
    k.halted code a f t = { k with
      cur := { k.cur with mode := .halted, prefetch := [], current := none }
      mxq := [], vxq := [], cxq := [], mxIssued := none, waiters := [], granted := []
      acc0 := { k.acc0 with valid := false }, acc1 := { k.acc1 with valid := false }
      halt := some { code := code, cmdAddr := a, flags := f, due := t + 21000 }
      wake := true } := by
  simp [halted, h, nsT]

theorem State.noteRaise_shape (s : State) (c i o n : Nat) : ∃ p, s.noteRaise c i o n = { s with parts := p } := by
  unfold State.noteRaise
  dsimp only
  split
  · exact ⟨_, rfl⟩
  · exact ⟨s.parts, rfl⟩

/-- An event sets its bits, and may send an interrupt (R441). -/
theorem State.event_shape (s : State) (mask : Nat) :
    ∃ x, s.event mask = { s with stw := { s.stw with events := s.stw.events ||| BitVec.ofNat 64 mask }, host := x } := by
  unfold State.event
  dsimp only
  split
  · exact ⟨s.host, rfl⟩
  · exact ⟨_, rfl⟩

/-! ### The sum of an add -/

section Add
variable {s : State} {c i n : Nat} {v : W32}

/-- An add that leaves the range is not applied and halts the folio (R200). -/
theorem claspAdd_of_range (hf : FirstAdd s c i) (hv : v = (s.cl c).clasp i + BitVec.ofNat 32 n) (h : 2 ^ 31 ≤ v.toNat) :
    s.claspAdd c i n = s.haltCluster c 0x0103 0 0 := by
  obtain ⟨harm, hlast⟩ := hf
  have hfit : claspFits v = false := decide_eq_false (Nat.not_lt.mpr h)
  unfold State.claspAdd
  simp only [harm, reopen_none hlast, claspSum, ← hv, hfit, Bool.false_eq_true, if_false]
  rfl

/-- An add within the range sets the clasp and runs its waits (R198, R199). -/
theorem claspAdd_of_fits (hf : FirstAdd s c i) (hp : (s.cl c).parked = false) (hv : v = (s.cl c).clasp i + BitVec.ofNat 32 n)
    (h : v.toNat < 2 ^ 31) : ∃ p, s.claspAdd c i n = ({ s with parts := p } : State).setCl c
      (((s.cl c).setClasp i v).evaluateAdd s.cycle i) := by
  obtain ⟨harm, hlast⟩ := hf
  obtain ⟨p, hnote⟩ := s.noteRaise_shape c i ((s.cl c).clasp i).toNat v.toNat
  have hfit : claspFits v = true := decide_eq_true h
  have hrun : ((s.cl c).setClasp i v).parked = false := hp
  refine ⟨p, ?_⟩
  unfold State.claspAdd
  simp only [harm, reopen_none hlast, claspSum, ← hv, hfit, hrun, Bool.false_eq_true, if_true, if_false, hnote]
  rfl

/-- Where nothing waits on the clasp, an add within the range changes the clasp alone, and keeps the evaluation for the cycle (R199). -/
theorem claspAdd_of_no_waiter (hf : FirstAdd s c i) (hp : (s.cl c).parked = false) (hr : Rising (s.cl c).clasps)
    (hw : ∀ w ∈ (s.cl c).waiters, w.clasp.toNat ≠ i) (hv : v = (s.cl c).clasp i + BitVec.ofNat 32 n) (h : v.toNat < 2 ^ 31) :
    ∃ p e, s.claspAdd c i n = ({ s with parts := p } : State).setCl c { (s.cl c).setClasp i v with lastEval := e } := by
  obtain ⟨p, hadd⟩ := claspAdd_of_fits hf hp hv h
  rw [Cluster.evaluateAdd, evaluate_none _ _ i v hr hw] at hadd
  exact ⟨p, _, hadd⟩

end Add

/-! ### The rows -/

/-- CLASP_ADD to a mapped cluster outside reset is an add in a state that differs in the signals in flight alone (R198, R202). -/
theorem exec_claspAdd {c : ClusterId} {k : ClaspId} {n : BitVec 16} {s : State} (hm : s.slotMapped (clusterSlot c) = true)
    (hi : s.inReset (clusterQuad c) = false) (hs : Arrives s c k n) : ∃ l : List Signal,
      exec (.claspAdd c k n) s = .next (s.doneFrame (({ s with fabric := { s.fabric with signals := l } } : State).claspAdd c k n.toNat)) ∧
      l.length + (if s.inFlight c k n = [] then 0 else 1) = s.fabric.signals.length := by
  obtain ⟨s', hstep, hs', hlen⟩ := claspAddStep_eq c k n s hm hi hs
  have hexec : exec (.claspAdd c k n) s = .next (s.doneFrame (claspAddStep c k n s)) := rfl
  exact ⟨s'.fabric.signals, by rw [hexec, hstep, ← hs'], hlen⟩

/-- An add within the range leaves its cluster with the clasp set and its waits run (R198, R199). -/
theorem exec_claspAdd_of_fits {c : ClusterId} {k : ClaspId} {n : BitVec 16} {s : State} {v : W32} (hr : Rising s.clusters)
    (hm : s.slotMapped (clusterSlot c) = true) (hi : s.inReset (clusterQuad c) = false) (hp : (s.cl c).parked = false)
    (hf : FirstAdd s c k) (hs : Arrives s c k n) (hv : v = (s.cl c).clasp k + BitVec.ofNat 32 n.toNat) (h : v.toNat < 2 ^ 31) :
    ∃ t, exec (.claspAdd c k n) s = .next t ∧ t.cl c = ((s.cl c).setClasp k v).evaluateAdd s.cycle k := by
  obtain ⟨l, hexec, -⟩ := exec_claspAdd hm hi hs
  have hf' : FirstAdd { s with fabric := { s.fabric with signals := l } } c k := hf
  obtain ⟨p, hadd⟩ := claspAdd_of_fits hf' hp hv h
  rw [hadd] at hexec
  exact ⟨_, hexec, sget_sset_self _ _ _ hr⟩

/-- Settles O15, by whether the sum stays within the range. -/
theorem claspAddAddsOrHalts : Obligations.ClaspAddAddsOrHalts := by
  unfold Obligations.ClaspAddAddsOrHalts
  intro c k n s v hv hr hm hi hp hh hw hf hs
  obtain ⟨l, hexec, hlen⟩ := exec_claspAdd hm hi hs
  -- The add meets the clusters and the clock as they stood.
  have hf' : FirstAdd { s with fabric := { s.fabric with signals := l } } c k := hf
  by_cases hfit : v.toNat < 2 ^ 31
  · obtain ⟨p, e, hadd⟩ := claspAdd_of_no_waiter hf' hp hr hw hv hfit
    rw [hadd] at hexec
    exact ⟨_, hexec, rfl, rfl, rfl, rfl, rfl, rfl, hlen, fun _ => ⟨e, rfl⟩, fun h => absurd hfit (Nat.not_lt.mpr h)⟩
  · rw [claspAdd_of_range hf' hv (Nat.not_lt.mp hfit)] at hexec
    refine ⟨_, hexec, rfl, rfl, rfl, rfl, rfl, rfl, hlen, fun h => absurd h hfit, fun _ => ⟨rfl, ?_⟩⟩
    exact congrArg (fun x => (s.setCl c x).clusters) (Cluster.halted_of_none 0x0103 0 0 s.time.ticks hh)

/-- Settles O16, by the three cases of a host's add: of 0, within the range, and beyond it. -/
theorem hostAddToClasp : Obligations.HostAddToClasp := by
  unfold Obligations.HostAddToClasp
  intro c k n s v hv hr hm hi hp hw hf
  have hanswers : s.tileAnswers c = true := by rw [State.tileAnswers, hm, hi]; rfl
  have hexec : exec (.tileClaspAdd c k n) s = .next (s.doneFrame ((s.hostClaspAdd c k n.toNat).respond (.done 0))) := by
    calc exec (.tileClaspAdd c k n) s = .next (s.doneFrame (tileClaspAddStep c k n s)) := rfl
      _ = _ := by rw [tileClaspAddStep, if_pos hanswers]
  have hsum : claspSum (((s.cl c).reopen s.cycle k).clasp k) n.toNat = v := by
    rw [reopen_none hf.2, claspSum, BitVec.ofNat_toNat, BitVec.setWidth_eq, hv]
  by_cases hn : n = 0
  · have hadd : s.hostClaspAdd c k n.toNat = s := by simp [State.hostClaspAdd, hn]
    rw [hadd] at hexec
    exact ⟨_, hexec, rfl, rfl, rfl, rfl, fun h => absurd hn h, fun h => absurd hn h, fun _ => ⟨rfl, rfl⟩⟩
  · have hn' : n.toNat ≠ 0 := fun h => hn (BitVec.eq_of_toNat_eq h)
    have hhost : s.hostClaspAdd c k n.toNat = if claspFits v then s.claspAdd c k n.toNat else s.event 1 := by
      rw [State.hostClaspAdd, if_neg hn', hsum]
    rw [hhost] at hexec
    by_cases hfit : v.toNat < 2 ^ 31
    · obtain ⟨p, e, hadd⟩ := claspAdd_of_no_waiter hf hp hr hw (by rw [BitVec.ofNat_toNat, BitVec.setWidth_eq, hv]) hfit
      rw [claspFits, decide_eq_true hfit, if_pos rfl, hadd] at hexec
      exact ⟨_, hexec, rfl, rfl, rfl, rfl, fun _ _ => ⟨⟨e, rfl⟩, rfl⟩, fun _ h => absurd hfit (Nat.not_lt.mpr h), fun h => absurd h hn⟩
    · obtain ⟨x, hevent⟩ := s.event_shape 1
      rw [claspFits, decide_eq_false hfit, if_neg Bool.false_ne_true, hevent] at hexec
      exact ⟨_, hexec, rfl, rfl, rfl, rfl, fun _ h => absurd h hfit, fun _ _ => ⟨rfl, rfl⟩, fun h => absurd h hn⟩

/-! ### Takes -/

/-- Granting an engine command touches neither clasps nor waits, and is recorded (R194). -/
theorem Cluster.grant_of_engine {k : Cluster} (cyc : Nat) {w : Waiter} (h : w.who ≠ .curator) :
    (k.grant cyc w).clasps = k.clasps ∧ (k.grant cyc w).waiters = k.waiters ∧ (k.grant cyc w).granted = k.granted ++ [w.who] := by
  unfold grant
  cases hw : w.who with
  | curator => exact absurd hw h
  | _ => exact ⟨rfl, rfl, rfl⟩

theorem Cluster.foldl_grant_of_engines (cyc : Nat) : ∀ (ws : List Waiter) (k : Cluster), (∀ w ∈ ws, w.who ≠ .curator) →
    (ws.foldl (fun k w => k.grant cyc w) k).clasps = k.clasps ∧ (ws.foldl (fun k w => k.grant cyc w) k).waiters = k.waiters ∧
    (ws.foldl (fun k w => k.grant cyc w) k).granted = k.granted ++ ws.map (fun w => w.who)
  | [], k, _ => ⟨rfl, rfl, (List.append_nil _).symm⟩
  | w :: ws, k, h => by
    obtain ⟨hw, hws⟩ := List.forall_mem_cons.mp h
    obtain ⟨hc, ht, hg⟩ := k.grant_of_engine cyc hw
    obtain ⟨hc', ht', hg'⟩ := foldl_grant_of_engines cyc ws (k.grant cyc w) hws
    exact ⟨hc'.trans hc, ht'.trans ht, by rw [List.foldl_cons, hg', hg, List.map_cons, List.append_assoc]; rfl⟩

/-- Where every waiter is a take of engines on the clasp, evaluating it runs the takes (R199). -/
theorem Cluster.evaluate_of_takes {k : Cluster} (cyc : Nat) {i : Nat} {v v' : W32} {done left : List Waiter} (hr : Rising k.clasps)
    (hw : ∀ w ∈ k.waiters, w.clasp.toNat = i ∧ w.take = true) (hrun : runTakes k.waiters.length v k.waiters = (v', done, left))
    (hd : ∀ w ∈ done, w.who ≠ .curator) :
    (((k.setClasp i v).evaluate cyc i).clasp i = v') ∧ ((k.setClasp i v).evaluate cyc i).waiters = left ∧
    ((k.setClasp i v).evaluate cyc i).granted = k.granted ++ done.map (fun w => w.who) := by
  have hmine : k.waiters.filter (fun w => w.clasp.toNat == i) = k.waiters :=
    List.filter_eq_self.mpr fun w h => beq_iff_eq.mpr (hw w h).1
  have hothers : k.waiters.filter (fun w => w.clasp.toNat != i) = [] :=
    List.filter_eq_nil_iff.mpr fun w h => by simp [(hw w h).1]
  have htakes : k.waiters.filter (fun w => w.take) = k.waiters := List.filter_eq_self.mpr fun w h => (hw w h).2
  have hplain : ∀ f : Waiter → Bool, k.waiters.filter (fun w => !w.take && f w) = [] := fun f =>
    List.filter_eq_nil_iff.mpr fun w h => by simp [(hw w h).2]
  have hwaiters : (k.setClasp i v).waiters = k.waiters := rfl
  have hclasp : (k.setClasp i v).clasp i = v := clasp_setClasp_self i v hr
  have heval : (k.setClasp i v).evaluate cyc i =
      done.foldl (fun k w => k.grant cyc w) { (k.setClasp i v).setClasp i v' with waiters := left } := by
    unfold evaluate
    simp only [hwaiters, hmine, hothers, htakes, hplain, hclasp, hrun, List.nil_append]
  obtain ⟨hc, ht, hg⟩ := foldl_grant_of_engines cyc done { (k.setClasp i v).setClasp i v' with waiters := left } hd
  rw [heval]
  refine ⟨?_, ht, hg⟩
  rw [clasp, hc]
  exact sget_sset_self 0 i v' (rising_sset 0 i v hr)

/-- Settles O17, by the order in which two takes run (`runTakes2`). -/
theorem takesRunOldestFirst : Obligations.TakesRunOldestFirst := by
  unfold Obligations.TakesRunOldestFirst
  intro c k n s v w1 w2 hv hfit hrc hr hm hi hp hf hs hws hk1 hk2 ht1 ht2 hq1 hq2 h12 h21 hb1 hb2 hg
  obtain ⟨t, hexec, hcl⟩ := exec_claspAdd_of_fits hrc hm hi hp hf hs hv hfit
  refine ⟨t, hexec, ?_⟩
  have hmem : ∀ w, w ∈ (s.cl c).waiters ↔ w = w1 ∨ w = w2 := by
    intro w
    rcases hws with h | h <;> simp [h, or_comm]
  have htakes : ∀ w ∈ (s.cl c).waiters, w.clasp.toNat = k.val ∧ w.take = true := by
    intro w h
    rcases (hmem w).mp h with rfl | rfl
    · exact ⟨hk1, ht1⟩
    · exact ⟨hk2, ht2⟩
  -- What the takes leave is what the cluster then has.
  have hafter : ∀ v' done left, runTakes (s.cl c).waiters.length v (s.cl c).waiters = (v', done, left) → (∀ w ∈ done, w = w1 ∨ w = w2) →
      (t.cl c).clasp k = v' ∧ (t.cl c).waiters = left ∧ (t.cl c).granted = done.map (fun w => w.who) := by
    intro v' done left hrun hdone
    have hengine : ∀ w ∈ done, w.who ≠ .curator := by
      intro w h
      rcases hdone w h with rfl | rfl
      · rw [hq1]; decide
      · rw [hq2]; decide
    obtain ⟨hclasp, hleft, hgranted⟩ := Cluster.evaluate_of_takes s.cycle hr htakes hrun hengine
    rw [hg, List.nil_append] at hgranted
    rw [hcl]
    exact ⟨hclasp, hleft, hgranted⟩
  have hrun := runTakes2 v w1 w2 (s.cl c).waiters hws h12 h21 hfit hb1 hb2
  refine ⟨fun h => ?_, fun h h' => ?_, fun h h' => ?_, fun h h' => ?_⟩
  · rw [if_pos (by omega), if_pos h] at hrun
    simpa [hq1, hq2] using hafter _ _ _ hrun (by simp)
  · rw [if_pos h, if_neg (by omega)] at hrun
    simpa [hq1] using hafter _ _ _ hrun (by simp)
  · rw [if_neg (by omega), if_pos h'] at hrun
    simpa [hq2] using hafter _ _ _ hrun (by simp)
  · rw [if_neg (by omega), if_neg (by omega)] at hrun
    simpa using hafter _ _ _ hrun (by simp)

end Sys2Proof.Machine
end

section
/-!
Held signals (R207), parking (R210, R212) and the fetch of a folio command (R190, R191).
-/
namespace Sys2Proof.Machine

/-! ### Held signals -/

/-- The only held signal of a hub may be applied once its stream has landed what it names (R207). -/
theorem HubSt.nextSignal_of_landed {b : HubSt} {x : HeldSignal} (hx : b.heldSignals = [x])
    (hc : (streamCount b.inStreams x.stream).getD 0 = x.count) : b.nextSignal = some x := by
  have hready : b.ready x = true := by rw [ready, hc, BitVec.sub_self]; rfl
  simp [nextSignal, hx, hready]

/-- Settles O18: the signal is the next of its hub, and leaves it. -/
theorem heldSignalIsReleased : Obligations.HeldSignalIsReleased := by
  unfold Obligations.HeldSignalIsReleased
  intro h s x hx hc hs
  have hfree : (s.hub h).heldSignals.filter (fun y => !s.suspendedJob y.stream.dstCl.toNat y.job.toNat) = [x] := by simp [hx, hs]
  have hnext : ({ s.hub h with heldSignals := [x] } : HubSt).nextSignal = some x := HubSt.nextSignal_of_landed rfl hc
  have hstep : signalReleaseStep h s = (s.onHub h (fun b => { b with heldSignals := [] })).releasedSignal
      ((s.onHub h (fun b => { b with heldSignals := [] })).slotOfJob x.stream.dstCl.toNat x.job.toNat) x := by
    have herase : s.onHub h (fun b => { b with heldSignals := b.heldSignals.eraseP (fun y => y == x) }) =
        s.onHub h (fun b => { b with heldSignals := [] }) := by simp [State.onHub, hx]
    unfold signalReleaseStep
    simp only [hfree, hnext, herase]
  exact ⟨_, congrArg (fun t => Host.Outcome.next (s.doneFrame t)) hstep, rfl, rfl, rfl, rfl, rfl⟩

/-! ### Parking -/

/-- Writing the value that a clasp has changes nothing. -/
theorem Cluster.setClasp_clasp {k : Cluster} (i : Nat) (h : sok 0 k.clasps = true) : k.setClasp i (k.clasp i) = k :=
  congrArg (fun m => { k with clasps := m }) (sset_sget 0 i h)

/-- With nothing pending, evaluating clasps changes nothing (R199). -/
theorem Cluster.foldl_evaluate_of_no_waiter {k : Cluster} (cyc : Nat) (h : sok 0 k.clasps = true) (hw : k.waiters = []) :
    ∀ l : List Nat, l.foldl (fun k i => k.evaluate cyc i) k = k
  | [] => rfl
  | i :: l => by
    have heval := evaluate_none k cyc i (k.clasp i) ((sok_iff 0).mp h).2 (by simp [hw])
    rw [setClasp_clasp i h] at heval
    rw [List.foldl_cons, heval, foldl_evaluate_of_no_waiter cyc h hw l]

theorem parkStep_of_still {c : Nat} {s : State} (hk : (s.cl c).still = true) (hp : (s.cl c).parked = false)
    (hb : bit (s.parkReg (s.clPart c)) 16 = true) (hm : s.mayRun c = true) : parkStep c s =
      (s.runTo ((s.cl c).movedAt + s.parkAfter (s.clPart c) * nsT)).onCl c (fun r => { r with parked := true, wake := false }) := by
  simp [parkStep, hk, hp, hb, hm]

/-- A roused cluster with nothing pending runs again (R210). -/
theorem wakeStep_of_no_waiter {c : Nat} {s : State} (h : sok 0 (s.cl c).clasps = true) (hp : (s.cl c).parked = true)
    (hw : (s.cl c).wake = true) (hn : (s.cl c).waiters = []) : wakeStep c s =
      s.onCl c (fun r => { r with parked := false, wake := false, movedAt := s.time.ticks }) := by
  have heval := Cluster.foldl_evaluate_of_no_waiter
    (k := { s.cl c with parked := false, wake := false, movedAt := s.time.ticks }) s.cycle h hn (List.range 48)
  unfold wakeStep
  simp only [hp, hw, Bool.and_self, if_true, heval]
  rfl

/-- Settles O19, by its two rows: parking, and waking with nothing pending. -/
theorem clusterParksAndWakes : Obligations.ClusterParksAndWakes := by
  unfold Obligations.ClusterParksAndWakes
  refine ⟨fun c s hk hp hm hb => ?_, fun c s h hp hw hn => ?_⟩
  · have hexec : exec (.clusterPark c) s = .next ((s.runTo ((s.cl c).movedAt + s.parkAfter (s.clPart c) * nsT)).onCl c
        (fun r => { r with parked := true, wake := false })) :=
      calc exec (.clusterPark c) s = .next (s.coreFrame (parkStep c s)) := rfl
        _ = _ := by rw [parkStep_of_still hk hp hb hm, coreFrame_runTo_onCl]
    exact ⟨_, _, rfl, hexec, rfl, rfl, State.runTo_mem _ _, State.runTo_parts _ _⟩
  · have hexec : exec (.clusterWake c) s = .next (s.coreFrame (wakeStep c s)) := rfl
    rw [wakeStep_of_no_waiter h hp hw hn] at hexec
    exact ⟨_, hexec, rfl, rfl, rfl⟩

/-! ### Fetch -/

/-- A result that differs from `s` in what a Curator's step may change, and that poisoned nothing, is the outcome as it stands. -/
theorem curFrame_settle {s t : State} (hf : t = { s with mem := t.mem, clusters := t.clusters, time := t.time, fabric := t.fabric })
    (hn : t.mem.newPoison = []) : s.curFrame t.settle = t := by
  rw [State.settle_of_nil hn, hf]; rfl

/-- A read of a sound block with no open entry and specified bytes leaves the memories as they stand (R271). -/
theorem MemSt.touch_of_ok {m : MemSt} (x : MemX) {b : Nat} (he : ∀ e ∈ m.merge, e.block ≠ 64 * b)
    (hv : ∀ r ∈ m.vague, ¬ (r.1 ≤ b ∧ b < r.1 + r.2.1)) (hd : decodeBlock (m.blockNat b) (m.code b) = .ok) : m.touch x b = m := by
  have hmerge : m.merge.find? (fun e => e.block == 64 * b) = none :=
    List.find?_eq_none.mpr fun e h => by simpa using he e h
  have hvague : m.vague.find? (fun r => decide (r.1 ≤ b ∧ b < r.1 + r.2.1)) = none :=
    List.find?_eq_none.mpr fun r h => by simpa using hv r h
  have hcommit : m.commitBlock x b = m := by simp only [commitBlock, hmerge]
  have hreveal : m.reveal b = m := by simp only [reveal, hvague]
  simp only [touch, hcommit, readBlock, hreveal, hd]

/-- A block whose decode is good is not poisoned (R271, R275). -/
theorem MemSt.not_poisoned_of_ok {m : MemSt} {b : Nat} (hd : decodeBlock (m.blockNat b) (m.code b) = .ok) : m.poisoned b = false := by
  cases hp : codePoisoned (m.code b) with
  | false => exact hp
  | true => rw [decodeBlock, hp, if_pos rfl] at hd; cases hd

theorem blocksOf_block {a : Nat} (h : a % 64 = 0) : blocksOf a 64 = [a / 64] := by
  have hlen : (a + 64 - 1) / 64 - a / 64 + 1 = 1 := by omega
  rw [blocksOf, if_neg (by decide), hlen]
  simp [span]

/-- A sound block is read as it stands (R277). -/
theorem State.read_block {s : State} {a : Nat} (ha : a % 64 = 0) (he : ∀ e ∈ s.mem.merge, e.block ≠ a)
    (hv : ∀ r ∈ s.mem.vague, ¬ (r.1 ≤ a / 64 ∧ a / 64 < r.1 + r.2.1))
    (hd : decodeBlock (s.mem.blockNat (a / 64)) (s.mem.code (a / 64)) = .ok) : s.read a 64 = (s, some (s.mem.peek a 64)) := by
  have hblock : 64 * (a / 64) = a := Nat.mul_div_cancel' (Nat.dvd_of_mod_eq_zero ha)
  obtain ⟨htouch, hsound⟩ := MemSt.touchAll_and_sound (x := s.mx) (List.forall_mem_singleton.mpr
    ⟨MemSt.touch_of_ok s.mx (by rwa [hblock]) hv hd, MemSt.not_poisoned_of_ok hd⟩)
  simp only [State.read, MemSt.readRange, blocksOf_block ha, htouch, hsound, if_true]

theorem MemSt.leNat_peek_block (m : MemSt) {a : Nat} (ha : a % 64 = 0) : leNat (m.peek a 64) = m.blockNat (a / 64) := by
  rw [peek, blockNat, Nat.mul_div_cancel' (Nat.dvd_of_mod_eq_zero ha)]

/-- Settles O20, by whether a folio may lie at the address. -/
theorem folioFetchReadsOneCommand : Obligations.FolioFetchReadsOneCommand := by
  unfold Obligations.FolioFetchReadsOneCommand
  intro c s a hfetch ha hmay hgoes hn
  have hexec : exec (.folioFetch c) s = .next (s.curFrame (folioFetchStep c s).settle) := rfl
  refine ⟨fun hat he hv hd => ?_, fun hat hp hc => ?_⟩
  · have hstep : folioFetchStep c s = s.onCl c (fun r => { r with cur := { r.cur with
        prefetch := r.cur.prefetch ++ [{ cmd := BitVec.ofNat 512 (s.mem.blockNat (a / 64)), addr := a, stamp := 0 }]
        fetch := a + 64 } }) := by
      unfold folioFetchStep
      simp [hmay, hgoes, hfetch, hat, State.read_block ha he hv hd, MemSt.leNat_peek_block s.mem ha]
    rw [hexec, hstep]
    exact congrArg Host.Outcome.next (curFrame_settle rfl hn)
  · have hstep : folioFetchStep c s = s.haltCluster c 0x0102 a 0 := by
      unfold folioFetchStep
      simp [hmay, hgoes, hfetch, hat, hp, hc, ffFetch]
    rw [hexec, hstep]
    exact congrArg Host.Outcome.next (curFrame_settle rfl hn)

end Sys2Proof.Machine
end

section
/-!
Dispatch (R187, R188, R193): the header check, the queue of each class, and the forwarding of a hub command.
-/
namespace Sys2Proof.Machine

/-! ### The dispatch slot -/

theorem le_cycle_of_le_ticks {s : State} {n : Nat} (h : n * cycT ≤ s.time.ticks) : n ≤ s.cycle := by
  simp only [State.cycle, ceilDiv, cycT] at h ⊢
  omega

/-- A dispatch slot lies at least eight cycles after the slot before (R188). -/
theorem le_nextSlot {k : Cluster} {x : Nat} (be : Bool) (n : Nat) (h : k.dispatched.head? = some x) : x + 8 ≤ k.nextSlot be n := by
  rw [List.head?_eq_getElem?] at h
  unfold Cluster.nextSlot
  dsimp only
  rw [h, Option.elim_some]
  exact Nat.le_max_left _ _

theorem le_cycle_toSlot {s : State} {c x : Nat} (h : (s.cl c).dispatched.head? = some x) : x + 8 ≤ (s.toSlot c).cycle := by
  refine le_cycle_of_le_ticks ?_
  rw [State.toSlot, State.runTo_ticks]
  exact Nat.le_trans (Nat.mul_le_mul_right _ (le_nextSlot _ _ h)) (Nat.le_max_right _ _)

/-! ### Where a command goes -/

namespace Cluster
variable {k : Cluster} {cyc : Nat} {q : QCmd} {rest : List QCmd}

theorem take1_matrix (h : hClass q.cmd = 0) : k.take1 cyc q rest =
    ({ k with cur := { k.cur with prefetch := rest }, mxq := k.mxq ++ [q] } : Cluster).arm cyc := by simp only [take1, h]

theorem take1_vector (h : hClass q.cmd = 1) : k.take1 cyc q rest =
    ({ k with cur := { k.cur with prefetch := rest }, vxq := k.vxq ++ [q] } : Cluster).arm cyc := by simp only [take1, h]

theorem take1_copy (h : hClass q.cmd = 2) : k.take1 cyc q rest =
    ({ k with cur := { k.cur with prefetch := rest }, cxq := k.cxq ++ [q] } : Cluster).arm cyc := by simp only [take1, h]

/-- A control or hub command without a wait is at once the Curator's current one (R187, R194). -/
theorem take1_control (h : hClass q.cmd = 3) (hw : hWait q.cmd = false) : k.take1 cyc q rest =
    { k with cur := { k.cur with prefetch := rest, current := some q, mode := .running }, granted := k.granted ++ [.curator] } := by
  simp [take1, h, beginWait, hw]

end Cluster

/-! ### The row -/

section Dispatch
variable {c : ClusterId} {s : State} {q : QCmd} {rest : List QCmd} (hm : s.mayRun c = true) (hr : (s.cl c).cur.mode = .running)
  (hh : s.issueHeld c = false)
include hm hr hh

theorem exec_dispatch_of_bad_header (hc : (s.cl c).cur.current = none) (hp : (s.cl c).cur.prefetch = q :: rest)
    (hg : s.headerGood c q.cmd = false) : exec (.curatorDispatch c) s = .next (s.haltCluster c 0x0100 q.addr 0) := by
  have hstep : dispatchStep c s = s.haltCluster c 0x0100 q.addr 0 := by simp [dispatchStep, hm, hr, hh, hc, hp, hg, ffHeader]
  exact congrArg (fun t => Host.Outcome.next (s.curFrame t)) hstep

/-- A good command whose queue has room is taken at the dispatch slot (R187, R188). -/
theorem exec_dispatch_of_good_header {u : State} {d : QCmd} (hc : (s.cl c).cur.current = none) (hp : (s.cl c).cur.prefetch = q :: rest)
    (hg : s.headerGood c q.cmd = true) (ht : (s.cl c).takes q = true) (hu : u = s.toSlot c)
    (hd : d = { q with stamp := u.stamp, ready := u.cycle }) : exec (.curatorDispatch c) s =
      .next (u.onCl c (fun r => { (r.take1 u.cycle d rest).slotUsed u.cycle with movedAt := u.time.ticks })) := by
  have hstep : dispatchStep c s = u.onCl c (fun r => { (r.take1 u.cycle d rest).slotUsed u.cycle with movedAt := u.time.ticks }) := by
    rw [hd, hu]
    simp [dispatchStep, hm, hr, hh, hc, hp, hg, ht, State.onCl]
  calc exec (.curatorDispatch c) s = .next (s.curFrame (dispatchStep c s)) := rfl
    _ = _ := by rw [hstep, hu, State.toSlot, curFrame_runTo]

theorem exec_dispatch_of_hub (hc : (s.cl c).cur.current = some q) (ho : 0xD0 ≤ hOpcode q.cmd) (hgr : (s.cl c).granted = [.curator])
    (hroom : (s.cl c).hubq.length < 4) : exec (.curatorDispatch c) s = .next (s.onCl c (fun r => { r with
      granted := [], cur := { r.cur with current := none, mode := .running }, movedAt := s.time.ticks
      hubq := r.hubq ++ [{ q := q, prog := r.prog }] })) := by
  have hstep : dispatchStep c s = s.onCl c (fun r => { r with
      granted := [], cur := { r.cur with current := none, mode := .running }, movedAt := s.time.ticks
      hubq := r.hubq ++ [{ q := q, prog := r.prog }] }) := by
    simp [dispatchStep, hm, hr, hh, hc, hubOp, ho, hgr, hroom, Cluster.dropCurrent, State.onCl]
  exact congrArg (fun t => Host.Outcome.next (s.curFrame t)) hstep

theorem exec_dispatch_of_full_hub (hc : (s.cl c).cur.current = some q) (hfull : 4 ≤ (s.cl c).hubq.length) :
    exec (.curatorDispatch c) s = .next s := by
  have hstep : dispatchStep c s = s := by simp [dispatchStep, hm, hr, hh, hc, Nat.not_lt.mpr hfull]
  exact congrArg (fun t => Host.Outcome.next (s.curFrame t)) hstep

end Dispatch

/-- Settles O21, by the header check and the class of the command; a current hub command by the commands outstanding. -/
theorem commandsAreDispatchedByClass : Obligations.CommandsAreDispatchedByClass := by
  unfold Obligations.CommandsAreDispatchedByClass
  refine ⟨fun c s u q d rest go hm hr hh hc hp hu hd hgo => ?_, fun c s q hm hr hh hc ho hgr => ⟨?_, ?_⟩⟩
  · refine ⟨fun x hx => hu ▸ le_cycle_toSlot hx, exec_dispatch_of_bad_header hm hr hh hc hp, fun hg => ?_⟩
    have hclass : ∀ {n}, hClass q.cmd = n → hClass d.cmd = n := fun h => by rw [hd]; exact h
    have hexec : (s.cl c).takes q = true → exec (.curatorDispatch c) s = .next (u.onCl c (fun r => go (r.take1 u.cycle d rest))) := by
      intro ht
      simp only [hgo]
      exact exec_dispatch_of_good_header hm hr hh hc hp hg ht hu hd
    refine ⟨fun h hroom => ?_, fun h hroom => ?_, fun h hroom => ?_, fun h hw => ?_⟩
    · rw [hexec (by simp [Cluster.takes, h, hroom])]
      simp only [Cluster.take1_matrix (hclass h)]
    · rw [hexec (by simp [Cluster.takes, h, hroom])]
      simp only [Cluster.take1_vector (hclass h)]
    · rw [hexec (by simp [Cluster.takes, h, hroom])]
      simp only [Cluster.take1_copy (hclass h)]
    · rw [hexec (by simp [Cluster.takes, h])]
      have hwait : hWait d.cmd = false := by rw [hd]; exact hw
      simp only [Cluster.take1_control (hclass h) hwait]
  · exact exec_dispatch_of_hub hm hr hh hc ho hgr
  · exact exec_dispatch_of_full_hub hm hr hh hc

end Sys2Proof.Machine
end

section
/-!
Calls and the end of a cluster's part (R190, R222, R254, R255).
-/
namespace Sys2Proof.Machine

/-! ### Finishing a control command -/

theorem State.control_of_current {s : State} {c op : Nat} {q : QCmd} (hm : s.mayRun c = true) (hr : (s.cl c).cur.mode = .running)
    (hc : (s.cl c).cur.current = some q) (hg : (s.cl c).granted = [.curator]) (ho : hOpcode q.cmd = op) : s.control c op = some q := by
  simp [control, hm, hr, hc, hg, ho]

theorem State.signalOf_of_none {s : State} {prog c : Nat} {q : QCmd} (h : hSignal q.cmd = false) : s.signalOf prog c q = s := by
  simp [signalOf, h]

theorem State.signalOf_of_local {s : State} {prog c : Nat} {q : QCmd} (h : hSignal q.cmd = true) (hr : hRemote q.cmd = false) :
    s.signalOf prog c q = s.localSignal prog (hTarget q.cmd) (hTargetClasp q.cmd) (hInc q.cmd) := by
  simp [signalOf, h, sendSignal, hr]

/-- The Curator has given up its command at clock `n` (R254). -/
def Cluster.finish (k : Cluster) (n : Nat) : Cluster := { k.dropCurrent with movedAt := n }

/-- A control command that changes its cluster by `f` and then finishes without a signal changes that cluster alone (R254). -/
theorem finishControl_onCl {s : State} {c : Nat} {q : QCmd} (f : Cluster → Cluster) (h : Rising s.clusters) (hs : hSignal q.cmd = false) :
    (s.onCl c f).finishControl c q = s.setCl c ((f (s.cl c)).finish s.time.ticks) := by
  rw [State.finishControl, State.signalOf_of_none hs, State.onCl, State.cl_onCl_self c f h]
  exact State.setCl_setCl c _ _ h

/-! ### CALL and END -/

/-- The Curator goes on at `target`, to return to `back` (R190). -/
def Cluster.callTo (k : Cluster) (back target : Addr) : Cluster :=
  { k with cur := { k.cur with stack := back :: k.cur.stack, fetch := target, prefetch := [] } }

/-- The Curator goes on at `a`, with the return addresses `rest` left (R190). -/
def Cluster.returnTo (k : Cluster) (a : Addr) (rest : List Addr) : Cluster :=
  { k with cur := { k.cur with stack := rest, fetch := a, prefetch := [] } }

/-- A finished call: the next fetch is at its target, whatever that is, and the clasps are as they were (R190). -/
theorem Cluster.finish_callTo (k : Cluster) (back target : Addr) (n : Nat) : ((k.callTo back target).finish n).cur =
    { k.cur with stack := back :: k.cur.stack, fetch := target, prefetch := [], current := none, mode := .running } ∧
    ((k.callTo back target).finish n).clasps = k.clasps := ⟨rfl, rfl⟩

section Calls
variable {c : ClusterId} {s : State} {q : QCmd} (hr : Rising s.clusters) (hm : s.mayRun c = true) (hmode : (s.cl c).cur.mode = .running)
  (hc : (s.cl c).cur.current = some q) (hg : (s.cl c).granted = [.curator]) (hs : hSignal q.cmd = false)
include hr hm hmode hc hg hs

/-- CALL below the depth limit (R190, R254). -/
theorem exec_call_of_room (ho : hOpcode q.cmd = 0xC3) (hroom : (s.cl c).cur.stack.length < 8) : exec (.call c) s =
    .next (s.setCl c (((s.cl c).callTo (q.addr + 64) (wfld q.cmd 5 0 32 * 2 ^ 6 + wfld q.cmd 6 0 10 * 2 ^ 38)).finish s.time.ticks)) := by
  have hfinish := finishControl_onCl (c := c)
    (fun k => k.callTo (q.addr + 64) (wfld q.cmd 5 0 32 * 2 ^ 6 + wfld q.cmd 6 0 10 * 2 ^ 38)) hr hs
  have hstep : callStep c s = (s.onCl c (fun k => k.callTo (q.addr + 64)
      (wfld q.cmd 5 0 32 * 2 ^ 6 + wfld q.cmd 6 0 10 * 2 ^ 38))).finishControl c q := by
    rw [callStep, State.control_of_current hm hmode hc hg ho]
    exact if_neg (Nat.not_le.mpr hroom)
  exact congrArg (fun t => Host.Outcome.next (s.curFrame t)) (hstep.trans hfinish)

/-- END with a return address (R190, R254). -/
theorem exec_end_of_return {a : Addr} {rest : List Addr} (ho : hOpcode q.cmd = 0xC5) (hst : (s.cl c).cur.stack = a :: rest) :
    exec (.end_ c) s = .next (s.setCl c (((s.cl c).returnTo a rest).finish s.time.ticks)) := by
  have hfinish := finishControl_onCl (c := c) (fun k => k.returnTo a rest) hr hs
  have hstep : endStep c s = (s.onCl c (fun k => k.returnTo a rest)).finishControl c q := by
    simp only [endStep, State.control_of_current hm hmode hc hg ho, hst]
    rfl
  exact congrArg (fun t => Host.Outcome.next (s.curFrame t)) (hstep.trans hfinish)

end Calls

/-! ### The end of a part -/

/-- A result that differs from `s` in what the end of a command may change, and that poisoned nothing, is the outcome as it stands. -/
theorem taskFrame_settle {s t : State} (hf : t = { s with
    mem := t.mem, clusters := t.clusters, time := t.time, parts := t.parts, fabric := t.fabric }) (hn : t.mem.newPoison = []) :
    s.taskFrame t.settle = t := by
  rw [State.settle_of_nil hn, hf]; rfl

theorem taskOf_setCl {s : State} {c : Nat} {k : Cluster} (h : Rising s.clusters) (hp : k.prog = (s.cl c).prog) :
    (s.setCl c k).taskOf c = s.taskOf c := by
  rw [State.taskOf, State.cl_setCl_self c k h, hp]
  rfl

/-- The part of a cluster ends while others of its task run on (R222, R255). -/
theorem partEndStep_of_more {c : Nat} {s : State} {q : QCmd} {t : Task} (hr : Rising s.clusters) (hmode : (s.cl c).cur.mode = .ending)
    (hc : (s.cl c).cur.current = some q) (hs : hSignal q.cmd = false) (hh : (s.cl c).halt = none) (hon : s.regOn = true)
    (hd : (s.cl c).drained = true) (ht : s.taskOf c = some t) (hn : c ∉ t.ended) (hmore : ∃ d, d ∈ t.clusters ∧ d ≠ c ∧ d ∉ t.ended) :
    partEndStep c s = (s.onCl c (fun r => { r with movedAt := s.time.ticks, cur := { r.cur with mode := .idle, current := none } })).onPart
      (s.clPart c) (fun p => { p with tasks := p.tasks.map (fun u => if u.index = t.index then { t with ended := t.ended ++ [c] } else u) }) := by
  have hk : (s.setCl c { s.cl c with movedAt := s.time.ticks, cur := { (s.cl c).cur with mode := .idle, current := none } }).taskOf c =
      some t := by
    rw [taskOf_setCl hr, ht]
    rfl
  have hn' : t.ended.contains c = false := by simpa using hn
  have hrest : ({ t with ended := t.ended ++ [c] } : Task).clusters.all (fun x => (t.ended ++ [c]).contains x) = false := by
    obtain ⟨d, hd, hdc, hde⟩ := hmore
    exact List.all_eq_false.mpr ⟨d, hd, by simp [hdc, hde]⟩
  have hgo : ((s.cl c).cur.mode != .ending || !(s.cl c).drained || (s.cl c).halt.isSome || !s.regOn) = false := by
    simp [hmode, hd, hh, hon]
  unfold partEndStep
  simp only [hgo, hc, State.signalOf_of_none hs, hk, hn', hrest, Bool.and_false, Bool.false_and, Bool.false_eq_true, if_false]
  rfl

/-- Settles O23, by the command and the depth of calls; the end of a part by the clusters still running. -/
theorem callsReturnAndPartsEnd : Obligations.CallsReturnAndPartsEnd := by
  unfold Obligations.CallsReturnAndPartsEnd
  refine ⟨fun c s q hr hm hmode hc hg hs => ⟨fun ho hroom => ?_, fun ho hfull => ?_, fun a rest ho hst => ?_, fun ho hst => ?_⟩,
    fun c s q t hr hmode hc hs hh hon hn hmx hvx hcx hf ht _ hne hmore => ?_⟩
  · refine ⟨_, exec_call_of_room hr hm hmode hc hg hs ho hroom, ?_⟩
    obtain ⟨hcur, hclasps⟩ := (s.cl c).finish_callTo (q.addr + 64) (wfld q.cmd 5 0 32 * 2 ^ 6 + wfld q.cmd 6 0 10 * 2 ^ 38) s.time.ticks
    rw [State.cl_setCl_self (c : Nat) _ hr, hcur]
    exact ⟨rfl, rfl, rfl, rfl, rfl, hclasps, fun d hd => State.cl_setCl_ne _ _ hd, rfl, rfl⟩
  · have hstep : callStep c s = s.haltCluster c 0x0101 q.addr 0 := by
      simp [callStep, State.control_of_current hm hmode hc hg ho, hfull, ffCallDepth]
    exact congrArg (fun t => Host.Outcome.next (s.curFrame t)) hstep
  · refine ⟨_, exec_end_of_return hr hm hmode hc hg hs ho hst, ?_⟩
    rw [State.cl_setCl_self (c : Nat) _ hr]
    exact ⟨rfl, rfl, rfl, rfl, rfl, rfl, fun d hd => State.cl_setCl_ne _ _ hd, rfl, rfl⟩
  · have hstep : endStep c s = s.onCl c (fun r => { r with
        granted := [], movedAt := s.time.ticks, cur := { r.cur with mode := .ending, prefetch := [] } }) := by
      simp [endStep, State.control_of_current hm hmode hc hg ho, hst, State.onCl, hg]
    exact congrArg (fun t => Host.Outcome.next (s.curFrame t)) hstep
  · have hdrained : (s.cl c).drained = true := by simp [Cluster.drained, Cluster.fenced, hmx, hvx, hcx, hf]
    have hexec : exec (.clusterPartEnd c) s = .next (s.taskFrame (partEndStep c s).settle) := rfl
    rw [hexec, partEndStep_of_more hr hmode hc hs hh hon hdrained ht hne hmore]
    exact congrArg Host.Outcome.next (taskFrame_settle rfl hn)

end Sys2Proof.Machine
end

section
/-!
The completion of a vector command (R195, R196, R227): with its narrow writes acknowledged, its register is written, and it signals or
halts the folio.
-/
namespace Sys2Proof.Machine

/-- The place of a completed vector command is free, and its completion word `w` is written (R195, R227). -/
def Cluster.completedVx (k : Cluster) (w : W64) : Cluster := { k with vxDone := none, cplVx := w }

/-- After a completion the cluster starts what can start (R123, R194). -/
def State.moveOn (s : State) (c : Nat) : State :=
  s.onCl c (fun k => { (k.startIssued (s.time.ticks / cycT)).arm s.cycle with movedAt := s.time.ticks })

/-- With nothing issued and no command queued, nothing starts. -/
theorem State.moveOn_of_empty {s : State} {c : Nat} (hi : (s.cl c).mxIssued = none) (h1 : (s.cl c).mxq = []) (h2 : (s.cl c).vxq = [])
    (h3 : (s.cl c).cxq = []) : s.moveOn c = s.onCl c (fun k => { k with movedAt := s.time.ticks }) := by
  simp only [moveOn, onCl, Cluster.startIssued_of_none _ hi, arm_empty _ _ h1 h2 h3]

/-- An owner with no open entry has its writes acknowledged at once (R65, R280). -/
theorem State.settleOwner_of_none {s : State} {o : Nat} (h : ∀ e ∈ s.mem.merge, o ∉ e.owners) (hl : o ∉ s.mem.lost) :
    s.settleOwner o = (s, true) := by
  have hfilter : s.mem.merge.filter (fun e => e.owners.contains o) = [] :=
    List.filter_eq_nil_iff.mpr fun e he => by simpa using h e he
  have hclock : s.runTo (s.mem.ackDue o) = s := by
    rw [MemSt.ackDue, hfilter]
    exact State.runTo_of_le (Nat.zero_le _)
  simp only [State.settleOwner, hclock, settleOwner_none s.mx o h hl]

/-- A command below the carrels has its block address in its completion word (R227). -/
theorem cplWord_of_hbm {c : Nat} {q : QCmd} (st : BitVec 16) (fl : Flags) (h : q.addr < carrelBase) :
    cplWord c q st fl = BitVec.ofNat 64 (st.toNat + fl.toNat * 2 ^ 16 + q.addr / 64 * 2 ^ 27) := by
  have hown : ¬ carrelBase ≤ q.addr := Nat.not_le.mpr h
  simp [cplWord, hown, b2n]

section Complete
variable {c : ClusterId} {s u : State} {d : DoneCmd} (hr : Rising s.clusters) (hm : (s.cl c).cur.mode ≠ .idle)
  (hu : u = (s.onMem (fun m => m.grant c)).setCl c ((s.cl c).completedVx (cplWord c d.q d.status d.flags)))
include hr hu

theorem cl_completedVx : u.cl c = (s.cl c).completedVx (cplWord c d.q d.status d.flags) := by
  have hrm : Rising (s.onMem (fun m => m.grant c)).clusters := hr
  rw [hu, State.cl_setCl_self (c : Nat) _ hrm]

include hm

/-- What a due vector command with acknowledged writes does (R195, R196). -/
theorem completeStep_vector (hd : (s.cl c).vxDone = some d) (hdue : d.due ≤ s.time.ticks)
    (he : ∀ e ∈ s.mem.merge, ownerOf c .vx ∉ e.owners) (hl : ownerOf c .vx ∉ s.mem.lost) : completeStep c .vx s =
      (if d.status = stOk then u.signalOf (s.cl c).prog c d.q else u.haltCluster c d.status d.q.addr d.flags).moveOn c := by
  have hnext : (s.cl c).nextDone .vx = some d := hd
  have hack : s.settleOwner (ownerCmd c .vx d.q) = (s, true) := State.settleOwner_of_none he hl
  have hmode : (u.cl c).cur.mode ≠ .idle := by rw [cl_completedVx hr hu]; exact hm
  have hcompleted : (s.onMem (fun m => m.grant c)).onCl c (fun k =>
      ((k.dropDone .vx).setCpl .vx (cplWord c d.q d.status d.flags)).validate .vx d.q.cmd d.status) = u := by rw [hu]; rfl
  unfold completeStep
  simp only [hnext, State.runTo_of_le hdue, hack, Bool.not_true, Bool.and_false, Bool.false_eq_true, if_false, hcompleted, reduceCtorEq,
    if_neg hmode, if_true]
  rfl

end Complete

/-- A completion whose effect is `w`, which leaves its cluster as `k` with nothing to start, is `w` but for the cluster's last move. -/
theorem exec_complete_of_effect {c : ClusterId} {s w : State} {k : Cluster} (hstep : completeStep c .vx s = w.moveOn c)
    (hr : Rising w.clusters) (hk : w.cl c = k) (hi : k.mxIssued = none) (h1 : k.mxq = []) (h2 : k.vxq = []) (h3 : k.cxq = [])
    (hw : w = { s with mem := s.mem.grant c, clusters := w.clusters, fabric := w.fabric }) (hn : s.mem.newPoison = []) :
    ∃ t, exec (.commandComplete c .vx) s = .next t ∧ t.cl c = { k with movedAt := s.time.ticks } ∧ t.mem = s.mem.grant c ∧
      t.time = s.time ∧ t.fabric = w.fabric := by
  have htime : w.time = s.time := by rw [hw]
  have hmem : w.mem = s.mem.grant c := by rw [hw]
  have hmove : w.moveOn c = w.onCl c (fun k => { k with movedAt := s.time.ticks }) := by
    rw [State.moveOn_of_empty (hk ▸ hi) (hk ▸ h1) (hk ▸ h2) (hk ▸ h3), htime]
  have hexec : exec (.commandComplete c .vx) s = .next (w.onCl c (fun k => { k with movedAt := s.time.ticks })) :=
    calc exec (.commandComplete c .vx) s = .next (s.taskFrame (completeStep c .vx s).settle) := rfl
      _ = _ := by
        rw [hstep, hmove]
        exact congrArg Host.Outcome.next (taskFrame_settle (by rw [hw]; rfl) ((congrArg MemSt.newPoison hmem).trans hn))
  exact ⟨_, hexec, by rw [State.cl_onCl_self (c : Nat) _ hr, hk], hmem, htime, rfl⟩

/-- Settles O24, by the status of the command and the signal in its header. -/
theorem commandCompletionSignalsOrHalts : Obligations.CommandCompletionSignalsOrHalts := by
  unfold Obligations.CommandCompletionSignalsOrHalts
  intro c s d hr hd _ hdue he hl hn hvq hmq hcq hi hh hm ha hrem
  obtain ⟨u, hu⟩ : ∃ u, u = (s.onMem (fun m => m.grant c)).setCl c ((s.cl c).completedVx (cplWord c d.q d.status d.flags)) := ⟨_, rfl⟩
  have hcl := cl_completedVx hr hu
  have hru : Rising u.clusters := by rw [hu]; exact State.rising_setCl (s := s.onMem (fun m => m.grant c)) _ _ hr
  have hfr : u = { s with mem := s.mem.grant c, clusters := u.clusters, fabric := s.fabric } := by rw [hu]; rfl
  have hfabric : u.fabric = s.fabric := by rw [hfr]
  have hword := cplWord_of_hbm (c := c) d.status d.flags ha
  have hstep := completeStep_vector hr hm hu hd hdue he hl
  by_cases hst : d.status = stOk
  · rw [if_pos hst] at hstep
    cases hs : hSignal d.q.cmd with
    | true =>
      rw [State.signalOf_of_local hs hrem] at hstep
      obtain ⟨t, hexec, hk, hmem, htime, hfab⟩ := exec_complete_of_effect hstep hru hcl hi hmq hvq hcq (by rw [hfr]; rfl) hn
      have hlocal : t.fabric = (s.localSignal (s.cl c).prog (hTarget d.q.cmd) (hTargetClasp d.q.cmd) (hInc d.q.cmd)).fabric := by
        rw [hfab, hfr]
        rfl
      refine ⟨t, hexec, ?_⟩
      rw [hk]
      exact ⟨rfl, hmem, htime, hword, fun _ _ => ⟨hh, hlocal⟩, fun _ h => absurd h nofun, fun h => absurd hst h⟩
    | false =>
      rw [State.signalOf_of_none hs] at hstep
      obtain ⟨t, hexec, hk, hmem, htime, hfab⟩ := exec_complete_of_effect hstep hru hcl hi hmq hvq hcq (by rw [hfabric]; exact hfr) hn
      refine ⟨t, hexec, ?_⟩
      rw [hk]
      exact ⟨rfl, hmem, htime, hword, fun _ h => absurd h nofun, fun _ _ => ⟨hh, hfab.trans hfabric⟩, fun h => absurd hst h⟩
  · rw [if_neg hst] at hstep
    have hhalt := Cluster.halted_of_none (k := u.cl c) d.status d.q.addr d.flags u.time.ticks (by rw [hcl]; exact hh)
    obtain ⟨t, hexec, hk, hmem, htime, hfab⟩ := exec_complete_of_effect hstep (State.rising_onCl _ _ hru)
      ((State.cl_onCl_self (c : Nat) _ hru).trans hhalt) rfl rfl rfl rfl (by rw [hfr]; rfl) hn
    refine ⟨t, hexec, ?_⟩
    rw [hk, hcl]
    exact ⟨rfl, hmem, htime, hword, fun h => absurd h hst, fun h => absurd h hst,
      fun _ => ⟨hfab.trans hfabric, rfl, by rw [hfr]⟩⟩

end Sys2Proof.Machine
end

section
/-!
The halt of a task (R196, R197): the halt first seen becomes the task's, and every cluster of it that has not halted halts.
-/
namespace Sys2Proof.Machine

/-! ### The task's halt -/

theorem Task.firstHalt_shape (t : Task) (c : Nat) (h : HaltInfo) : ∃ st x, t.firstHalt c h = { t with st := st, halt := x } := by
  unfold firstHalt
  split
  · exact ⟨t.st, t.halt, rfl⟩
  · exact ⟨_, _, rfl⟩

/-! ### The halt of several clusters -/

theorem cl_haltCluster_self {s : State} (e : Nat) (code : BitVec 16) (a : Addr) (fl : Flags) (h : Rising s.clusters) :
    (s.haltCluster e code a fl).cl e = (s.cl e).halted code a fl s.time.ticks := State.cl_onCl_self e _ h

/-- Halting other clusters leaves a cluster as it was. -/
theorem cl_foldl_halt_ne {e : Nat} (code : BitVec 16) (a : Addr) (fl : Flags) : ∀ {l : List Nat} (s : State), e ∉ l →
    (l.foldl (fun s k => s.haltCluster k code a fl) s).cl e = s.cl e
  | [], _, _ => rfl
  | k :: l, s, h => by
    obtain ⟨hk, hl⟩ := List.ne_and_not_mem_of_not_mem_cons h
    rw [List.foldl_cons, cl_foldl_halt_ne code a fl _ hl]
    exact State.cl_onCl_ne s _ hk

/-- Each cluster of a list without repetitions halts as it stood (R196). -/
theorem cl_foldl_halt {e : Nat} (code : BitVec 16) (a : Addr) (fl : Flags) {l : List Nat} {s : State} (hr : Rising s.clusters)
    (hn : l.Nodup) (he : e ∈ l) :
    (l.foldl (fun s k => s.haltCluster k code a fl) s).cl e = (s.cl e).halted code a fl s.time.ticks := by
  induction l generalizing s with
  | nil => exact absurd he List.not_mem_nil
  | cons k l ih =>
    obtain ⟨hk, hl⟩ := List.nodup_cons.mp hn
    rw [List.foldl_cons]
    rcases List.mem_cons.mp he with rfl | he
    · rw [cl_foldl_halt_ne code a fl _ hk, cl_haltCluster_self e code a fl hr]
    · have hne : e ≠ k := fun h => hk (h ▸ he)
      have hcl : (s.haltCluster k code a fl).cl e = s.cl e := State.cl_onCl_ne s _ hne
      have hr' : Rising (s.haltCluster k code a fl).clusters := State.rising_onCl k _ hr
      rw [ih hr' hl he, hcl]
      rfl

/-- Every cluster of the task whose halt does not wait halts (R197, R435). -/
theorem cl_haltAll {s : State} {t : Task} {e : Nat} (h : HaltInfo) (hr : Rising s.clusters) (hn : t.clusters.Nodup) (he : e ∈ t.clusters)
    (hp : (s.cl e).prog = tdSlot t.desc) (hw : s.haltWaits t e = false) :
    (s.haltAll t h).cl e = (s.cl e).halted h.code h.cmdAddr h.flags s.time.ticks :=
  cl_foldl_halt _ _ _ hr (hn.filter _) (List.mem_filter.mpr ⟨he, by simp [hp, hw]⟩)

/-- Halting clusters changes nothing else. -/
theorem haltAll_shape (s : State) (t : Task) (h : HaltInfo) : ∃ l, s.haltAll t h = { s with clusters := l } := by
  unfold State.haltAll
  generalize t.clusters.filter (fun k => (s.cl k).prog == tdSlot t.desc && !s.haltWaits t k) = l
  induction l generalizing s with
  | nil => exact ⟨s.clusters, rfl⟩
  | cons k l ih =>
    obtain ⟨m, hm⟩ := ih (s.haltCluster k h.code h.cmdAddr h.flags)
    exact ⟨m, hm⟩

/-- Settles O31: the report halts the task with the halt it first heard of, and each cluster by `cl_haltAll`. -/
theorem haltReportHaltsEveryCluster : Obligations.HaltReportHaltsEveryCluster := by
  unfold Obligations.HaltReportHaltsEveryCluster
  intro c s u t t' h fc fh p hof hon hp ht' hhalt hctx hbind hu
  refine ⟨?_, fun e he hw hprog hh hr hn => ?_⟩
  · have hstep : haltReportStep c s = (u.endRecvs t.clusters (tdSlot t.desc)).serveAll.settleWaits.reap p := by
      obtain ⟨st, x, hshape⟩ := t.firstHalt_shape c h
      obtain ⟨l, hall⟩ := haltAll_shape s t' fh
      have hred : u.red = s.red := by rw [hu, hall]; rfl
      have hctx' : u.ctxsOf p (tdSlot t.desc) = [] := by rw [State.ctxsOf, hred]; exact hctx
      have hbind' : u.bindings = [] := by rw [State.bindings, hred]; exact hbind
      have hindex : t'.index = t.index ∧ t'.clusters = t.clusters ∧ tdSlot t'.desc = tdSlot t.desc := by
        rw [ht', hshape]
        exact ⟨rfl, rfl, rfl⟩
      obtain ⟨hi, hcs, hslot⟩ := hindex
      have hfh : (t'.halt.map (fun x => x.2)).getD h = fh := by rw [hhalt]; rfl
      have hu' : (s.haltAll t' fh).onPart p (fun q => { q with
          tasks := q.tasks.map (fun x => if x.index = t'.index then { t' with st := .reported } else x) }) = u := by rw [hu, ← hi]
      unfold haltReportStep State.haltTask
      simp only [hof, hon, if_true, ← ht', hfh, ← hp, hu', hcs, hslot, hctx', hbind', List.filter_nil, List.foldl_nil]
    exact congrArg (fun w : State => Host.Outcome.next (s.taskFrame w.settle)) hstep
  · have hslot : (s.cl e).prog = tdSlot t'.desc := by
      obtain ⟨st, x, hx⟩ := t.firstHalt_shape c h
      rw [hprog, ht', hx]
    have hcl : u.cl e = (s.cl e).halted fh.code fh.cmdAddr fh.flags s.time.ticks := by
      rw [hu]
      exact cl_haltAll fh hr hn he hslot hw
    rw [hcl, Cluster.halted_of_none _ _ _ _ hh]
    exact ⟨rfl, rfl, rfl, rfl, rfl, rfl, rfl⟩

end Sys2Proof.Machine
end

section
/-!
The start of a task at a beat boundary (R222) and the record of a missed deadline (R223).
-/
namespace Sys2Proof.Machine

/-! ### The start -/

/-- The beat at which a task starts is the first whose boundary lies at or after `m` nanoseconds (R222). -/
theorem ceilDiv_beat (a r : Nat) : a ≤ 1024 * ceilDiv (max a r) 1024 ∧ r ≤ 1024 * ceilDiv (max a r) 1024 ∧
    (1024 * ceilDiv (max a r) 1024 < a + 1024 ∨ 1024 * ceilDiv (max a r) 1024 < r + 1024) := by
  unfold ceilDiv
  omega

/-- A task whose start nothing holds, of an active program without step control, runs from its beat in every cluster of its program
(R222). -/
theorem taskStartStep_of_active {q p k b : Nat} {s : State} {t : Task} {i : Image} (hp : p = s.partOf q) (hon : s.regOn = true)
    (hres : s.inReset p = false) (hsw : (s.prt p).switching = none) (hnext : s.nextStart p = some (k, t)) (hi : t.image = some i)
    (hb : b = s.startBeat t) (hbefore : ∀ c, s.switchBeat p = some c → b < c) (hrest : ∀ e ∈ i.entries, (s.cl e.1).rested = true)
    (hact : (((s.runToNow (1024 * b)).prt p).prog k).active = true) (hstep : tdStep t.desc = false) :
    taskStartStep q s = ((s.runToNow (1024 * b)).onPart p (fun r => { r with
      tasks := r.tasks.map (fun u => if u.index = t.index then { u with st := .running } else u) })).launch i := by
  have hswitch : (s.switchBeat p).any (fun c => decide (c ≤ b)) = false := by
    cases h : s.switchBeat p with
    | none => rfl
    | some c => exact decide_eq_false (Nat.not_le.mpr (hbefore c h))
  have hall : i.entries.all (fun e => (s.cl e.1).rested) = true := List.all_eq_true.mpr hrest
  unfold taskStartStep
  simp only [← hp, hon, hres, hsw, hnext, hi, ← hb, hswitch, hall, hact, hstep, Bool.not_true, Bool.or_self, Option.isSome_none,
    Bool.false_eq_true, if_false, if_true]

theorem launch_of_single {s : State} {i : Image} {c : Nat} {a : Addr} (h : i.entries = [(c, a)]) : s.launch i = s.onCl c (fun k =>
    { k with cur := { mode := .running, fetch := a }, halt := none, movedAt := s.time.ticks, wake := k.wake || k.parked }) := by
  rw [State.launch, h]
  rfl

/-! ### The deadline -/

/-- The only task without a DEADLINE_MISS record is the next that misses its deadline (R223). -/
theorem deadlineMissStep_of_single {q p : Nat} {s u : State} {t : Task} (hp : p = s.partOf q) (ht : s.unmissed p = [t])
    (hu : u = (s.runToNow (tdDeadline t.desc)).onPart p (fun k => { k with
      tasks := k.tasks.map (fun x => if x.index = t.index then { x with missed := true } else x) })) :
    deadlineMissStep q s = u.record p
      { task := tdTask t.desc, kind := 4, time := tdDeadline t.desc, step := (u.prt p).lastClosed t } (tdMsi t.desc) := by
  have hleast : least ((s.unmissed p).map (fun t => tdDeadline t.desc)) = some (tdDeadline t.desc) := by rw [ht]; rfl
  have hfind : (s.unmissed p).find? (fun x => tdDeadline x.desc == tdDeadline t.desc) = some t := by simp [ht]
  unfold deadlineMissStep
  simp only [← hp, hleast, hfind, ← hu]

/-- Settles O59, by its three clauses: the beat and the start, the entry folio, the missed deadline. -/
theorem tasksStartAtABeatAndMissDeadlines : Obligations.TasksStartAtABeatAndMissDeadlines := by
  unfold Obligations.TasksStartAtABeatAndMissDeadlines
  refine ⟨fun q s p k b t i hp hon hres hsw hnext hi hb hbefore hrest => ⟨?_, fun hact hstep => ?_⟩, fun s i c a hr hi => ?_,
    fun q s u p t hp ht hu => ?_⟩
  · rw [hb, State.startBeat]
    exact ceilDiv_beat _ _
  · exact congrArg (fun u : State => Host.Outcome.next (s.admitFrame u.settle))
      (taskStartStep_of_active hp hon hres hsw hnext hi hb hbefore hrest hact hstep)
  · rw [launch_of_single hi, State.cl_onCl_self c _ hr]
    exact ⟨rfl, rfl, rfl⟩
  · exact congrArg (fun u : State => Host.Outcome.next (s.admitFrame u.settle)) (deadlineMissStep_of_single hp ht hu)

end Sys2Proof.Machine
end

section
/-!
The rings (R213 to R217) and admission (R338): writes of the ring registers, the read of the submission ring, and the decision on the
oldest task that awaits one.
-/
namespace Sys2Proof.Machine

/-! ### Ring registers -/

theorem ringWritten_of_off {old next v : W64} {off : Option Nat} {b : Nat} (h : bit (ringNow old next off b) 5 = false) :
    ringWritten old next v off b = (ringValue v, next, none) := by simp [ringWritten, h]

/-- A clear of enable waits for the next beat boundary with its other fields (R213; log 62). -/
theorem ringWritten_of_clear {old next v : W64} {off : Option Nat} {b : Nat} (h : bit (ringNow old next off b) 5 = true)
    (hv : bit v 5 = false) : ringWritten old next v off b = (old, ringValue v, some (b + 1)) := by simp [ringWritten, h, hv]

/-- Any other write of an enabled ring register counts not at all (R213). -/
theorem ringWritten_of_set {old next v : W64} {off : Option Nat} {b : Nat} (h : bit (ringNow old next off b) 5 = true)
    (hv : bit v 5 = true) : ringWritten old next v off b = (old, next, off) := by simp [ringWritten, h, hv]

theorem ringConfig_of_subq {s : State} {q : Nat} {v r next : W64} {off : Option Nat}
    (h : ringWritten (s.prt q).subq (s.prt q).subqNext v (s.prt q).subqOff s.beat = (r, next, off)) :
    s.ringConfig q false v = s.onPart q (fun t => { t with subq := r, subqNext := next, subqOff := off }) := by
  simp [State.ringConfig, State.onPart, h]

theorem ringConfig_of_cq {s : State} {q : Nat} {v r next : W64} {off : Option Nat}
    (h : ringWritten (s.prt q).cq (s.prt q).cqNext v (s.prt q).cqOff s.beat = (r, next, off)) :
    s.ringConfig q true v = s.onPart q (fun t => { t with cq := r, cqNext := next, cqOff := off }) := by
  simp [State.ringConfig, State.onPart, h]

/-- A ring register of a page that serves takes its write at once, and answers it (R440). -/
theorem exec_ringConfigWrite {q : Quad} {cq : Bool} {v : W64} {s : State}
    (h : PageServes s .registrar (partPage q + (if cq then 0x108 else 0x100))) :
    exec (.ringConfigWrite q cq v) s = .next (s.pageFrame ((s.ringConfig q cq v).respond (.done 0))) := by
  have halign : ∀ (q : Quad) (cq : Bool), (partPage q + (if cq then 0x108 else 0x100)) % 8 = 0 := by decide
  exact congrArg (fun t => Host.Outcome.next (s.pageFrame t)) (writeRow_serves _ h (pageAccessOk_write8 v (halign q cq)))

/-! ### The submission ring -/

section Read
variable {q p : Nat} {s u : State} (hu : u = s.onPart p (fun t => { t with readBeat := some s.beat })) (hr : Rising s.parts)
include hu hr

/-- The beat's read is noted, and finds the ring's register as it was (R215). -/
theorem subqNow_of_noted : u.subqNow p = s.subqNow p := by
  have hprt : u.prt p = { s.prt p with readBeat := some s.beat } := by rw [hu, State.prt_onPart_self p _ hr]
  have htime : u.beat = s.beat := by rw [hu]; rfl
  rw [State.subqNow, hprt, htime, State.subqNow]

variable (hp : p = s.partOf q) (hserved : s.ringsServed p = true) (hbeat : (s.prt p).readBeat ≠ some s.beat) {w : State} {x n : Nat}
  (hn : n = ringEntries (s.subqNow p)) (hx : u.ringRead p (ringBase (s.subqNow p)) 16 = (w, some x))
include hp hserved hbeat hn hx

/-- Indices further apart than the ring holds disable it (R214, R215). -/
theorem submissionRingReadStep_of_gap (hgap : n < indexGap (nfld x 0 64) (nfld x 64 64)) : submissionRingReadStep q s =
    (w.onPart p (fun t => { t with subq := clearBit t.subq 5 })).event (2 ^ (1 + p)) := by
  unfold submissionRingReadStep
  simp only [← hp, hserved, Bool.not_true, Bool.false_eq_true, if_false, if_neg hbeat, ← hu, subqNow_of_noted hu hr, hx, ← hn, if_pos hgap]

/-- Else descriptors are read from behind those that wait, while the completion ring has room (R215, R217). -/
theorem submissionRingReadStep_of_room (hgap : indexGap (nfld x 0 64) (nfld x 64 64) ≤ n) {y : State} {cp cc : Nat}
    (hy : w.cqIndex p = (y, some (cp, cc))) : submissionRingReadStep q s =
    y.readDescs p (ringBase (s.subqNow p)) n (ringEntries (y.cqNow p) - indexGap cp cc)
      (nfld x 64 64 + ((y.prt p).tasks.filter (fun t => !t.accepted)).length)
      (indexGap (nfld x 0 64) (nfld x 64 64) - ((y.prt p).tasks.filter (fun t => !t.accepted)).length) := by
  unfold submissionRingReadStep
  simp only [← hp, hserved, Bool.not_true, Bool.false_eq_true, if_false, if_neg hbeat, ← hu, subqNow_of_noted hu hr, hx, ← hn,
    if_neg (Nat.not_lt.mpr hgap), hy]

end Read

/-! ### The decision -/

section Decision
variable {q p : Nat} {s u : State} {t : Task} (hp : p = s.partOf q) (hon : s.regOn = true) (hres : s.inReset p = false)
  (ht : (s.prt p).tasks.find? (fun t => !t.accepted) = some t)
include hp hon hres ht

theorem admissionDecisionStep_of_ok {i : Image} (hj : s.judge p t = (u, .ok i)) : admissionDecisionStep q s =
    (((u.accept p t i).record p { task := tdTask t.desc, kind := 0, time := (u.accept p t i).now } (tdMsi t.desc)).consume p).rejoinAtAcceptance
      p t i := by
  unfold admissionDecisionStep
  simp only [← hp, hon, hres, ht, hj, Bool.not_true, Bool.or_self, Bool.false_eq_true, if_false]

theorem admissionDecisionStep_of_error {c : Nat} {w : State} (hj : s.judge p t = (u, .error c))
    (hw : w = u.onPart p (fun k => { k with tasks := k.tasks.filter (fun x => x.index != t.index) })) : admissionDecisionStep q s =
    (w.record p { task := tdTask t.desc, kind := 1, code := BitVec.ofNat 16 c, time := w.now, cmdAddr := t.addr } (tdMsi t.desc)).consume p := by
  unfold admissionDecisionStep
  simp only [← hp, hon, hres, ht, hj, Bool.not_true, Bool.or_self, Bool.false_eq_true, if_false, ← hw]

end Decision

theorem judge_of_unreadable {s : State} {p : Nat} {t : Task} (h : t.readable = false) : s.judge p t = (s, .error 0x0201) := by
  simp [State.judge, h]

theorem judge_of_broken {s : State} {p : Nat} {t : Task} (h : t.readable = true) (hb : descBroken t.desc = true) :
    s.judge p t = (s, .error 0x0200) := by
  simp [State.judge, h, hb]

/-- Settles O58, by its rows: the two ring registers, the read of the submission ring, and the decision. -/
theorem ringsFeedAdmission : Obligations.RingsFeedAdmission := by
  unfold Obligations.RingsFeedAdmission
  refine ⟨fun q v s hpage hoff => ?_, fun q v s hpage hon => ⟨fun hv => ?_, fun hv => ?_⟩,
    fun q s u w x p n hp hserved hbeat hn hu hr hx => ⟨fun hgap => ?_, fun hgap y cp cc k hy hk => ?_⟩,
    fun q s u t p hp hon hres ht => ⟨fun i hj => ?_, fun c w hj hw => ?_, judge_of_unreadable, judge_of_broken⟩⟩
  · rw [exec_ringConfigWrite (cq := false) hpage, ringConfig_of_subq (ringWritten_of_off hoff)]
    rfl
  · rw [exec_ringConfigWrite (cq := true) hpage, ringConfig_of_cq (ringWritten_of_clear hon hv)]
    rfl
  · rw [exec_ringConfigWrite (cq := true) hpage, ringConfig_of_cq (ringWritten_of_set hon hv)]
    rfl
  · exact congrArg (fun t : State => Host.Outcome.next (s.admitFrame t.settle))
      (submissionRingReadStep_of_gap hu hr hp hserved hbeat hn hx hgap)
  · subst hk
    exact congrArg (fun t : State => Host.Outcome.next (s.admitFrame t.settle))
      (submissionRingReadStep_of_room hu hr hp hserved hbeat hn hx hgap hy)
  · exact congrArg (fun t : State => Host.Outcome.next (s.admitFrame t.settle)) (admissionDecisionStep_of_ok hp hon hres ht hj)
  · exact congrArg (fun t : State => Host.Outcome.next (s.admitFrame t.settle)) (admissionDecisionStep_of_error hp hon hres ht hj hw)

end Sys2Proof.Machine
end

section
/-!
What a packet that passes every check does at its destination (R206, R207, R249, R353, R356, R370): the rows, each by what it does once
the packet has landed, and what a unit of a collective does by the context that it meets.
-/
namespace Sys2Proof.Machine

/-- The packet of `a`, of a job, passes every check and has arrived (R288, R317, R318). -/
structure Lands (s : State) (a : Arrival) : Prop where
  notDue : s.commitDue = false
  accepted : Accepted s a
  kept : (heard s a).linkDrop a.link a.pkt = none
  here : (heard s a).nextHop (a.link / 5) (some ((heard s a).plan.portOf a.link)) a.pkt = .land
  may : (heard s a).landOk a.pkt = true

/-- A row's packet that is no SYSTEM or CREDIT packet and lands does `f`, and is acknowledged. -/
theorem Lands.receive {s : State} {a : Arrival} (h : Lands s a) (f : State → State) (hk : a.pkt.kind ≠ 10) :
    s.receive a f = withCredit s a (f (heard s a)) := by
  rw [receive_accepted f h.accepted hk (.inr h.notDue), deliver_land f h.kept h.here (.inr h.may)]

/-- The kind of a packet of a row other than WRITE is the row's (R313). -/
theorem kind_of_wf {p : Packet} {k : Nat} (h : p.wf k = true) (hk : k ≠ 0) : p.kind.toNat = k := by
  simp only [Packet.wf, Packet.kindOk, Bool.and_eq_true, Bool.or_eq_true, beq_iff_eq] at h
  obtain ⟨⟨hkind | ⟨hzero, -⟩, -⟩, -⟩ := h
  · exact hkind
  · exact absurd hzero hk

theorem kind_eq_of_wf {p : Packet} {n : BitVec 4} (h : p.wf n.toNat = true) (hn : n.toNat ≠ 0) : p.kind = n :=
  BitVec.eq_of_toNat_eq (kind_of_wf h hn)

theorem kind_ne_of_wf {p : Packet} {k : Nat} (h : p.wf k = true) (hk : k ≠ 0) {n : BitVec 4} (hn : n.toNat ≠ k) : p.kind ≠ n :=
  fun e => hn (e ▸ kind_of_wf h hk)

/-- A well-formed packet's row writes what the packet does through its frame. -/
theorem packetRow_of_wf {k : Nat} {a : Arrival} {s : State} {f : State → State} {t : State} (h : a.pkt.wf k = true) (hf : f s = t) :
    packetRow k a f s = .next (s.packetFrame t.settle) := by
  rw [packetRow, formed, h, if_pos rfl, hf]

/-- A row whose packet lands does what `f` makes of it at its destination. -/
theorem Lands.row {s t : State} {a : Arrival} {i : Instr} {k : Nat} {f : State → State} (h : Lands s a)
    (hexec : exec i s = packetRow k a (fun s => s.receive a f) s) (hw : a.pkt.wf k = true) (hk : a.pkt.kind ≠ 10)
    (ht : f (heard s a) = t) : PacketDoes i a s t :=
  hexec.trans (packetRow_of_wf hw (ht ▸ h.receive f hk))

/-! ### WRITE, READ_REQ, READ_RSP and SIGNAL -/

section Rows
variable {s v u : State} {a : Arrival} {p : Packet} {h : Nat} {ok : Bool}

theorem landWrite_of_write (hk : p.kind = 0) (hw : v.hubWrite p.job.toNat (ownerHub h) p.addr.toNat (filled p) = (u, ok)) :
    v.landWrite h p = if ok then u.landed p else u.drop h .land := by
  have hk' : p.kind ≠ 9 := by rw [hk]; decide
  simp only [State.landWrite, if_neg hk', hw]

/-- The request of a command is not the resync's, so nothing refuses it (R478). -/
theorem refuseRead_of_command (l : Nat) (hc : p.srcCluster ≠ 0x1FF) : v.refuseRead l p = v :=
  if_neg fun x => hc x.2.2.2.1

theorem Lands.readReq (hl : Lands s a) (hk : a.pkt.kind ≠ 10) (hc : a.pkt.srcCluster ≠ 0x1FF) :
    readReqStep a s = withCredit s a ((heard s a).landReadReq a.pkt) := by
  unfold readReqStep
  simp only [hl.notDue, Bool.false_eq_true, if_false]
  rw [arrive_accepted _ hl.accepted, if_neg hk, deliver_land _ hl.kept hl.here (.inr hl.may), refuseRead_of_command _ hc]

/-- An answer is written for the RECV that asked, and counts toward it (R249, R253). -/
theorem landReadRsp_of_recv {k : HubCmd} (hc : p.dstCluster ≠ 0x1FF) (hk : (v.cl p.dstCluster.toNat).hubq.find? (recvFor p) = some k)
    (hb : bit p.aux 31 = false) (hw : v.hubWrite p.job.toNat (ownerHub h) p.addr.toNat (filled p) = (u, ok)) :
    v.landReadRsp h p = (if ok then u else u.drop h .land).onCl p.dstCluster.toNat (fun x => { x with
      hubq := onFirst (fun y => y == k) (fun y => y.take (filled p).length ok (if ok then u else u.drop h .land).time.ticks) x.hubq }) := by
  unfold State.landReadRsp
  simp only [if_neg hc, hk, hb, Bool.false_eq_true, if_false, hw]

end Rows

/-! ### Units of a collective -/

section Units
variable {v : State} {p : Packet} {h : Nat}

/-- A unit that meets no context is kept, dropped or malformed, and has not landed (R370). -/
theorem redLand_of_no_context (hc : v.ctx? p.job.toNat (aReg p) (aCtx p) = none) :
    v.redLand h p v.now = (if redForm p = true then v.preopenUnit h p v.now else v.malDrop h).completeCtxs := by
  simp only [State.redLand, State.redPacket, hc, Bool.false_eq_true, if_false]

theorem preopenUnit_of_room (hroom : (v.hub (v.preHub p)).preopen.length < 2048) : v.preopenUnit h p v.now =
    v.draw.onHub (v.preHub p) (fun b => { b with preopen := b.preopen ++ [{ pkt := p, at_ := v.now, hub := h }] }) :=
  if_neg (Nat.not_le.mpr hroom)

theorem preopenUnit_of_full (hfull : 2048 ≤ (v.hub (v.preHub p)).preopen.length) :
    v.preopenUnit h p v.now = v.draw.lateDrop (v.preHub p) (unitsOf p) :=
  if_pos hfull

variable {c : Ctx} (hc : v.ctx? p.job.toNat (aReg p) (aCtx p) = some c)
include hc

theorem redLand_of_result (hk : p.kind = 7) : v.redLand h p v.now = ((v.takeResult h c p v.now).landed p).completeCtxs := by
  simp only [State.redLand, State.redPacket, hc, if_pos hk, if_true]

/-- A TWIN packet for a context outside twin mode is malformed (R382). -/
theorem redLand_of_stray_twin (hk : p.kind = 8) (ht : c.twin = false) : v.redLand h p v.now = (v.malDrop h).completeCtxs := by
  have hk' : p.kind ≠ 7 := by rw [hk]; decide
  simp only [State.redLand, State.redPacket, hc, if_neg hk', ht, if_pos hk, Bool.false_eq_true, if_false]

variable {u : State} {ok : Bool}

theorem redLand_of_unit (h7 : p.kind ≠ 7) (h8 : p.kind ≠ 8) (ht : c.twin = false) (hu : State.takeUnit 4 false h v p v.now = (u, ok)) :
    v.redLand h p v.now = (if ok then u.landed p else u).completeCtxs := by
  simp only [State.redLand, State.redPacket, hc, if_neg h7, ht, if_neg h8, hu, Bool.false_eq_true, if_false]

theorem redLand_of_twin_unit (h7 : p.kind ≠ 7) (ht : c.twin = true) (hu : v.twinUnit h c p v.now = (u, ok)) :
    v.redLand h p v.now = (if ok then u.landed p else u).completeCtxs := by
  simp only [State.redLand, State.redPacket, hc, if_neg h7, ht, hu, if_true]

end Units

/-- The rows of the collective engines' packets, by kind. -/
def collectiveRows (a : Arrival) : List (Instr × Nat) :=
  [(.contrib a, 4), (.contribTopk a, 5), (.fragment a, 6), (.result a, 7), (.twin a, 8)]

theorem exec_collective {s : State} {a : Arrival} {i : Instr} {k : Nat} (hi : (i, k) ∈ collectiveRows a) :
    exec i s = packetRow k a (reductionStep a) s ∧ 4 ≤ k ∧ k ≤ 8 := by
  simp only [collectiveRows, List.mem_cons, Prod.mk.injEq, List.not_mem_nil, or_false] at hi
  rcases hi with ⟨rfl, rfl⟩ | ⟨rfl, rfl⟩ | ⟨rfl, rfl⟩ | ⟨rfl, rfl⟩ | ⟨rfl, rfl⟩ <;> exact ⟨rfl, by decide, by decide⟩

/-- A landed unit of a collective does what its home makes of it (R353). -/
theorem Lands.collective {s t : State} {a : Arrival} {i : Instr} {k : Nat} (hl : Lands s a) (hi : (i, k) ∈ collectiveRows a)
    (hw : a.pkt.wf k = true) (ht : (heard s a).redLand (a.link / 5) a.pkt (heard s a).now = t) : PacketDoes i a s t.afterHub := by
  obtain ⟨hexec, h4, h8⟩ := exec_collective hi (s := s)
  have hk : a.pkt.kind ≠ 10 := kind_ne_of_wf hw (by omega) (by simp; omega)
  exact hl.row hexec hw hk (congrArg State.afterHub ht)

/-- Settles O43, by the kind of the packet; a unit of a collective by the context that it meets. -/
theorem packetsLand : Obligations.PacketsLand := by
  unfold Obligations.PacketsLand
  rintro a s v p h rfl hdue hacc rfl rfl hkept hhere hmay
  have hl : Lands s a := ⟨hdue, hacc, hkept, hhere, hmay⟩
  refine ⟨fun u ok hw hk hwrite => ?_, fun hw hc => ?_, fun k u ok hw hc hfind hb hwrite => ?_, fun hw hfull => ?_,
    fun i k hi hw => ⟨fun hnone => ⟨fun hform hroom => ?_, fun hform hfull => ?_, fun hform => ?_⟩,
      fun c hctx => ⟨fun hk => ?_, fun hk ht => ?_, fun hk ht u ok hu => ?_, fun hk ht u ok hu => ?_⟩⟩⟩
  · have hk' : a.pkt.kind ≠ 10 := by rw [hk]; decide
    exact hl.row rfl hw hk' (landWrite_of_write hk hwrite)
  · exact packetRow_of_wf hw (hl.readReq (kind_ne_of_wf hw (by decide) (by decide)) hc)
  · exact hl.row rfl hw (kind_ne_of_wf hw (by decide) (by decide)) (landReadRsp_of_recv hc hfind hb hwrite)
  · have hstep : remoteSignalStep a s = s.receive a (fun s => s.landSignal a.pkt) := by simp [remoteSignalStep, hfull]
    exact packetRow_of_wf hw (hstep.trans (hl.receive _ (kind_ne_of_wf hw (by decide) (by decide))))
  · exact hl.collective hi hw (by rw [redLand_of_no_context hnone, if_pos hform, preopenUnit_of_room hroom])
  · exact hl.collective hi hw (by rw [redLand_of_no_context hnone, if_pos hform, preopenUnit_of_full hfull])
  · exact hl.collective hi hw (by rw [redLand_of_no_context hnone, if_neg (Bool.eq_false_iff.mp hform)])
  · subst hk
    exact hl.collective hi hw (redLand_of_result hctx (kind_eq_of_wf hw (by decide)))
  · subst hk
    exact hl.collective hi hw (redLand_of_stray_twin hctx (kind_eq_of_wf hw (by decide)) ht)
  · have h4 := (exec_collective hi (s := s)).2.1
    have h7 : a.pkt.kind ≠ 7 := kind_ne_of_wf hw (by omega) (by simp; omega)
    have h8 : a.pkt.kind ≠ 8 := kind_ne_of_wf hw (by omega) (by simp; omega)
    exact hl.collective hi hw (redLand_of_unit hctx h7 h8 ht hu)
  · have h4 := (exec_collective hi (s := s)).2.1
    have h7 : a.pkt.kind ≠ 7 := kind_ne_of_wf hw (by omega) (by simp; omega)
    exact hl.collective hi hw (redLand_of_twin_unit hctx h7 ht hu)

end Sys2Proof.Machine
end

section
/-!
The control commands of the Curator (R202, R254, R256): each finishes at once and signals, or stops dispatch until its condition holds.
-/
namespace Sys2Proof.Machine

/-! ### The clock up to a time -/

/-- Without slewing, TIME_NOW stands at the time asked for as soon as the clock has run there, or has passed it already (R324). -/
theorem State.runTo_clockAt_now {s : State} (t : Nat) (h : s.time.slew = 0) :
    (s.runTo (s.clockAt t)).time.now = max s.time.now (t * nsT) := by
  unfold State.runTo State.clockAt
  split
  · omega
  · obtain ⟨hnow, -⟩ := TimeSt.pass_now (s.time.ticks + (t * nsT - s.time.now) - s.time.ticks) h
    dsimp only
    omega

/-- Without slewing, one run of the clock reaches the time (R324). -/
theorem State.runToNow_of_no_slew {s : State} (t : Nat) (h : s.time.slew = 0) : s.runToNow t = s.runTo (s.clockAt t) := by
  have hnow := State.runTo_clockAt_now t h
  have hclock : (s.runTo (s.clockAt t)).clockAt t = (s.runTo (s.clockAt t)).time.ticks := by
    rw [State.clockAt, hnow]
    omega
  rw [State.runToNow, hclock]
  exact State.runTo_of_le (Nat.le_refl _)

/-! ### Finishing -/

/-- The Curator of cluster `c`, which alone was granted its wait, has given up its command (R254). -/
def State.curatorFree (s : State) (c : Nat) : State :=
  s.onCl c (fun r => { r with granted := [], cur := { r.cur with current := none, mode := .running }, movedAt := s.time.ticks })

theorem finishControl_of_granted {s : State} {c : Nat} (q : QCmd) (hg : (s.cl c).granted = [.curator]) :
    s.finishControl c q = (s.curatorFree c).signalOf (s.cl c).prog c q := by
  simp [State.finishControl, State.curatorFree, State.onCl, Cluster.dropCurrent, hg]

section Steps
variable {s : State} {c : Nat} {q : QCmd}

theorem waitStep_of_control (h : s.control c 0xC0 = some q) : waitStep c s = s.finishControl c q := by
  simp only [waitStep, h]

theorem signalStep_of_control (h : s.control c 0xC1 = some q) : signalStep c s = s.finishControl c q := by
  simp only [signalStep, h]

theorem fenceStep_of_fenced (h : s.control c 0xC2 = some q) (hf : (s.cl c).fenced (wfld q.cmd 5 0 4) = true) :
    fenceStep c s = s.finishControl c q := by
  simp only [fenceStep, h, hf, if_true]

theorem fenceStep_of_not_fenced (h : s.control c 0xC2 = some q) (hf : (s.cl c).fenced (wfld q.cmd 5 0 4) = false) : fenceStep c s =
    s.onCl c (fun r => { r with cur := { r.cur with mode := .stopFence (BitVec.ofNat 4 (wfld q.cmd 5 0 4)) } }) := by
  simp only [fenceStep, h, hf, Bool.false_eq_true, if_false]

theorem timeatStep_of_past (h : s.control c 0xC4 = some q) (ht : nfld q.cmd.toNat 160 64 ≤ s.now) :
    timeatStep c s = s.finishControl c q := by
  simp only [timeatStep, h, if_pos ht]

theorem timeatStep_of_ahead (h : s.control c 0xC4 = some q) (ht : s.now < nfld q.cmd.toNat 160 64) : timeatStep c s =
    s.onCl c (fun r => { r with cur := { r.cur with mode := .stopTime (nfld q.cmd.toNat 160 64) } }) := by
  simp only [timeatStep, h, if_neg (Nat.not_le.mpr ht)]

theorem fenceSatisfiedStep_of_not_fenced {m : BitVec 4} (hc : (s.cl c).cur.current = some q)
    (h : (s.cl c).cur.mode = .stopFence m) (hf : (s.cl c).fenced m.toNat = false) :
    fenceSatisfiedStep c s = s := by
  simp only [fenceSatisfiedStep, h, hc, hf, Bool.and_false, Bool.false_eq_true, if_false]

variable (hm : s.mayRun c = true) (hc : (s.cl c).cur.current = some q)
include hm hc

theorem fenceSatisfiedStep_of_fenced {m : BitVec 4} (h : (s.cl c).cur.mode = .stopFence m) (hf : (s.cl c).fenced m.toNat = true) :
    fenceSatisfiedStep c s = s.finishControl c q := by
  simp only [fenceSatisfiedStep, h, hc, hm, hf, Bool.and_self, if_true]

theorem timeatResumeStep_of_stopped {ns : Nat} (h : (s.cl c).cur.mode = .stopTime ns) :
    timeatResumeStep c s = (s.runToNow ns).finishControl c q := by
  simp only [timeatResumeStep, h, hc, hm, if_true]

end Steps

/-! ### The rows -/

/-- A control command that the Curator holds and whose condition holds finishes (R254). -/
theorem exec_control_of_ready {c : ClusterId} {s : State} {q : QCmd} {i : Instr}
    (hctl : ∀ op, hOpcode q.cmd = op → s.control c op = some q)
    (hi : (i = .wait c ∧ hOpcode q.cmd = 0xC0) ∨ (i = .signal c ∧ hOpcode q.cmd = 0xC1) ∨
      (i = .fence c ∧ hOpcode q.cmd = 0xC2 ∧ (s.cl c).fenced (wfld q.cmd 5 0 4) = true) ∨
      (i = .timeat c ∧ hOpcode q.cmd = 0xC4 ∧ nfld q.cmd.toNat 160 64 ≤ s.now)) :
    exec i s = .next (s.curFrame (s.finishControl c q)) := by
  rcases hi with ⟨rfl, ho⟩ | ⟨rfl, ho⟩ | ⟨rfl, ho, hf⟩ | ⟨rfl, ho, ht⟩
  · exact congrArg (fun t => Host.Outcome.next (s.curFrame t)) (waitStep_of_control (hctl _ ho))
  · exact congrArg (fun t => Host.Outcome.next (s.curFrame t)) (signalStep_of_control (hctl _ ho))
  · exact congrArg (fun t => Host.Outcome.next (s.curFrame t)) (fenceStep_of_fenced (hctl _ ho) hf)
  · exact congrArg (fun t => Host.Outcome.next (s.curFrame t)) (timeatStep_of_past (hctl _ ho) ht)

/-- A stopped TIMEAT finishes when the clock has run to its time (R256). -/
theorem exec_timeatResume {c : ClusterId} {s : State} {q : QCmd} {ns : Nat} (hm : s.mayRun c = true) (hc : (s.cl c).cur.current = some q)
    (hs : hSignal q.cmd = false) (h : (s.cl c).cur.mode = .stopTime ns) (hslew : s.time.slew = 0) : exec (.timeatResume c) s =
    .next ((s.runTo (s.clockAt ns)).onCl c (fun r => { r with
      granted := r.granted.filter (fun w => w != .curator), cur := { r.cur with current := none, mode := .running }
      movedAt := (s.runTo (s.clockAt ns)).time.ticks })) := by
  have hstep : timeatResumeStep c s = (s.runTo (s.clockAt ns)).finishControl c q := by
    rw [timeatResumeStep_of_stopped hm hc h, State.runToNow_of_no_slew ns hslew]
  rw [State.finishControl, State.signalOf_of_none hs] at hstep
  calc exec (.timeatResume c) s = .next (s.curFrame (timeatResumeStep c s)) := rfl
    _ = _ := by rw [hstep]; exact congrArg Host.Outcome.next (curFrame_runTo s _ c _)

/-- Settles O22, by the command and whether its condition holds. -/
theorem controlCommandsFinishStopAndResume : Obligations.ControlCommandsFinishStopAndResume := by
  unfold Obligations.ControlCommandsFinishStopAndResume
  refine ⟨fun c s q i hm hmode hc hg hi hrem => ⟨s.curatorFree c, rfl, fun hs => ?_, fun hs => ?_⟩,
    fun c s q hm hc hs => ⟨fun hmode hg ho hf => ?_, fun hmode hg ho ht => ?_, fun m h hf hg => ?_, fun m h hf => ?_,
      fun ns h _ hslew => ⟨_, rfl, State.runTo_clockAt_now ns hslew, exec_timeatResume hm hc hs h hslew⟩⟩⟩
  · rw [exec_control_of_ready (fun _ => State.control_of_current hm hmode hc hg) hi, finishControl_of_granted q hg,
      State.signalOf_of_local hs hrem]
    rfl
  · rw [exec_control_of_ready (fun _ => State.control_of_current hm hmode hc hg) hi, finishControl_of_granted q hg,
      State.signalOf_of_none hs]
    rfl
  · exact congrArg (fun t => Host.Outcome.next (s.curFrame t)) (fenceStep_of_not_fenced (State.control_of_current hm hmode hc hg ho) hf)
  · exact congrArg (fun t => Host.Outcome.next (s.curFrame t)) (timeatStep_of_ahead (State.control_of_current hm hmode hc hg ho) ht)
  · have hstep : fenceSatisfiedStep c s = s.curatorFree c := by
      rw [fenceSatisfiedStep_of_fenced hm hc h hf, finishControl_of_granted q hg, State.signalOf_of_none hs]
    exact congrArg (fun t => Host.Outcome.next (s.curFrame t)) hstep
  · exact congrArg (fun t => Host.Outcome.next (s.curFrame t)) (fenceSatisfiedStep_of_not_fenced hc h hf)

end Sys2Proof.Machine
end

section
/-!
The vector and copy commands (R231, R234, R237, R239 to R243): each row is the shape of its engine with the command's own plan.
-/
namespace Sys2Proof.Machine

/-- The vector commands, each with its opcode, the descriptors it reads and its plan. -/
def vectorRows (c : ClusterId) : List (Instr × Nat × (Block → List Nat) × (State → Block → VPlan)) :=
  [(.vop c, 0x40, vopTds, vopPlan c), (.vfunc c, 0x41, vfuncTds, vfuncPlan c), (.vrowstat c, 0x42, vrTds, vrowstatPlan c),
    (.vnormFwd c, 0x43, vnfTds, vnormFwdPlan c), (.vnormBwd c, 0x44, vnbTds, vnormBwdPlan c),
    (.vsoftmaxFwd c, 0x45, vsfTds, vsoftmaxFwdPlan c), (.vsoftmaxBwd c, 0x46, vsbTds, vsoftmaxBwdPlan c),
    (.vconv c, 0x47, vconvTds, vconvPlan c)]

/-- The copy commands, each with its opcode, the descriptors it reads and its plan. -/
def copyRows (c : ClusterId) : List (Instr × Nat × (Block → List Nat) × (State → Block → CPlan)) :=
  [(.copy c, 0x80, fun _ => [], copyPlan c), (.copy2d c, 0x81, fun _ => [], copy2dPlan c), (.copyt c, 0x82, fun _ => [], copytPlan c),
    (.reblock c, 0x83, fun q => [rbDst q, rbSrc q], reblockPlan c), (.gather c, 0x84, fun _ => [], gatherPlan c),
    (.scatter c, 0x85, fun _ => [], scatterPlan c)]

section Rows
variable {c : ClusterId} {s : State} {i : Instr} {op : Nat} {tds : Block → List Nat}

/-- A VFUNC of a mode other than LOAD is a vector command like the others (R143). -/
theorem vfuncStep_of_apply {q : QCmd} (hq : (s.cl c).head .vx 0x41 = some q) (hmode : vfMode q.cmd ≠ 0) :
    vfuncStep c s = vecStep c 0x41 vfuncTds (vfuncPlan c) s := by
  simp only [vfuncStep, hq, if_neg hmode]

theorem exec_vectorRow {plan : State → Block → VPlan} {q : QCmd} (hi : (i, op, tds, plan) ∈ vectorRows c)
    (hq : (s.cl c).head .vx op = some q) (hmode : op = 0x41 → vfMode q.cmd ≠ 0) :
    exec i s = .next (s.coreFrame (vecStep c op tds plan s).settle) := by
  simp only [vectorRows, List.mem_cons, Prod.mk.injEq, List.not_mem_nil, or_false] at hi
  rcases hi with ⟨rfl, rfl, rfl, rfl⟩ | ⟨rfl, rfl, rfl, rfl⟩ | ⟨rfl, rfl, rfl, rfl⟩ | ⟨rfl, rfl, rfl, rfl⟩ | ⟨rfl, rfl, rfl, rfl⟩ |
    ⟨rfl, rfl, rfl, rfl⟩ | ⟨rfl, rfl, rfl, rfl⟩ | ⟨rfl, rfl, rfl, rfl⟩
  case inr.inl => exact congrArg (fun t : State => Host.Outcome.next (s.coreFrame t.settle)) (vfuncStep_of_apply hq (hmode rfl))
  all_goals rfl

theorem exec_copyRow {plan : State → Block → CPlan} (hi : (i, op, tds, plan) ∈ copyRows c) :
    exec i s = .next (s.coreFrame (copyStep c op tds plan s).settle) := by
  simp only [copyRows, List.mem_cons, Prod.mk.injEq, List.not_mem_nil, or_false] at hi
  rcases hi with ⟨rfl, rfl, rfl, rfl⟩ | ⟨rfl, rfl, rfl, rfl⟩ | ⟨rfl, rfl, rfl, rfl⟩ | ⟨rfl, rfl, rfl, rfl⟩ | ⟨rfl, rfl, rfl, rfl⟩ |
    ⟨rfl, rfl, rfl, rfl⟩ <;> rfl

end Rows

/-- Settles O28, by the engine: `vecStep_next` and `copyStep_next` say what a command of any plan does. -/
theorem engineCommandsRunOrAreRefused : Obligations.EngineCommandsRunOrAreRefused := by
  unfold Obligations.EngineCommandsRunOrAreRefused
  refine ⟨fun c s u q i op tds plan p hi hr hq hmode hu hn hs hp hwork => ?_,
    fun c s u q i op tds plan p hi hr hq hu hn hs hp hwork => ?_⟩
  · subst hp
    obtain ⟨t, ht, hdone⟩ := vecStep_next hr hq hu hs hn hwork
    exact ⟨t, (exec_vectorRow hi hq hmode).trans (congrArg Host.Outcome.next ht), hdone⟩
  · subst hp
    obtain ⟨t, ht, hdone⟩ := copyStep_next hr hq hu hs hn hwork
    exact ⟨t, (exec_copyRow hi).trans (congrArg Host.Outcome.next ht), hdone⟩

end Sys2Proof.Machine
end

section
/-!
The rows of the hubs (R187, R188, R253): each is its step with what follows every change of the collective engines. Reads and writes by a
hub (R277, R280, R335) leave the tasks alone, and so the job of a command.
-/
namespace Sys2Proof.Machine

/-- A row of the hubs does what its step makes of the state. -/
theorem hubGoes_of_step {i : Instr} {f : State → State} {s u : State} (hf : f s = u) (hi : exec i s = hubRow f s) : HubGoes i s u := by
  rw [HubGoes, hi, hubRow, hf]

/-! ### Reads by a hub -/

theorem State.readPrefix_shape (s : State) (a n : Nat) : ∃ m, (s.readPrefix a n).1 = { s with mem := m } := by
  unfold State.readPrefix
  dsimp only
  split <;> exact ⟨_, rfl⟩

/-- A read of a carrel reads memory, or the spill image that stands in for it (R335). -/
theorem State.hubPrefix_shape (s : State) (job a n : Nat) : ∃ m, (s.hubPrefix job a n).1 = { s with mem := m } := by
  unfold State.hubPrefix
  dsimp only
  split
  · exact s.readPrefix_shape a n
  · refine List.foldlRecOn (motive := fun x : State × List Byte × Bool => ∃ m, x.1 = { s with mem := m }) _ _ ⟨s.mem, rfl⟩ ?_
    rintro ⟨t, bs, ok⟩ ⟨m, rfl⟩ c -
    dsimp only
    split
    · exact ⟨m, rfl⟩
    · split
      · exact State.readPrefix_shape { s with mem := m } _ _
      · exact ⟨m, rfl⟩

theorem State.hubRead_shape (s : State) (job a n : Nat) : ∃ m, (s.hubRead job a n).1 = { s with mem := m } := by
  unfold State.hubRead
  split
  · exact ⟨_, rfl⟩
  · exact s.hubPrefix_shape job a n

/-! ### What leaves the tasks alone -/

/-- The layout and the tasks of every partition are in `t` as in `s`. -/
def State.TasksKept (s t : State) : Prop := t.stw = s.stw ∧ ∀ p, (t.prt p).tasks = (s.prt p).tasks

namespace State.TasksKept
variable {s t u : State}

theorem refl (s : State) : s.TasksKept s := ⟨rfl, fun _ => rfl⟩

theorem trans (h : s.TasksKept t) (g : t.TasksKept u) : s.TasksKept u := ⟨g.1.trans h.1, fun p => (g.2 p).trans (h.2 p)⟩

theorem of_eqs (h : t.stw = s.stw) (g : t.parts = s.parts) : s.TasksKept t := ⟨h, fun p => by rw [State.prt, g]; rfl⟩

/-- The job of a forwarded command is that of its task (R222). -/
theorem jobOfHub (h : s.TasksKept t) (c : Nat) (k : HubCmd) : t.jobOfHub c k = s.jobOfHub c k := by
  obtain ⟨hstw, htasks⟩ := h
  have hpart : t.clPart c = s.clPart c := by simp only [State.clPart, State.partOf, State.layout, hstw]
  have htask : t.progTask k.prog c = s.progTask k.prog c := by rw [State.progTask, hpart, htasks]; rfl
  simp only [State.jobOfHub, State.jobOf, htask]

end State.TasksKept

theorem State.tasksKept_hubRead (s : State) (job a n : Nat) : s.TasksKept (s.hubRead job a n).1 := by
  obtain ⟨m, h⟩ := s.hubRead_shape job a n
  rw [h]
  exact .of_eqs rfl rfl

theorem State.TasksKept.of_hubRead {s t : State} {job a n : Nat} {r : Option (List Byte)} (h : s.hubRead job a n = (t, r)) :
    s.TasksKept t := by
  have hkept := s.tasksKept_hubRead job a n
  rwa [h] at hkept

/-! ### Writes by a hub -/

theorem State.tasksKept_writeAck (s : State) (o a : Nat) (bs : List Byte) : s.TasksKept (s.writeAck o a bs).1 :=
  .of_eqs (State.runTo_stw _ _) (State.runTo_parts _ _)

/-- A write of a value other than the default reads back, whatever the order of the table. -/
theorem sget_sset_of_ne_default {α : Type} [DecidableEq α] (d : α) (k : Nat) {v : α} (hv : v ≠ d) :
    ∀ m : Sparse α, sget d (sset d m k v) k = v
  | [] => by simp [sset, sget, hv]
  | (i, x) :: t => by
    rcases Nat.lt_trichotomy k i with h | rfl | h
    · simp [sset, sget, h, hv]
    · simp [sset, sget, hv]
    · simp [sset, sget, Nat.lt_asymm h, Nat.ne_of_gt h, Nat.ne_of_lt h, sget_sset_of_ne_default d k hv t]

/-- A part that holds a task reads back as changed, if it still holds one. -/
theorem State.prt_onPart_of_tasks {s : State} {p : Nat} {f : Part → Part} (h : (f (s.prt p)).tasks ≠ []) :
    (s.onPart p f).prt p = f (s.prt p) :=
  sget_sset_of_ne_default ({} : Part) p (v := f (s.prt p)) (fun hf => h (by rw [hf])) s.parts

/-- A cluster whose program is away has a suspended task in its partition (R335). -/
theorem State.tasks_ne_nil_of_away {s : State} {job c : Nat} {x : Nat × Spilled} (h : s.away job c = some x) :
    (s.prt (s.clPart c)).tasks ≠ [] ∧ x.2.cluster = c := by
  unfold State.away at h
  split at h
  · next hsusp =>
    obtain ⟨z, hz, rfl⟩ := Option.map_eq_some_iff.mp h
    refine ⟨fun hnil => ?_, by simpa using List.find?_some hz⟩
    rw [State.suspendedJob, hnil] at hsusp
    cases hsusp
  · cases h

theorem Spilled.put_cluster (covers : Nat → Bool) : ∀ (k off : Nat) (bs : List Byte) (z : Spilled),
    (z.put covers k off bs).1.cluster = z.cluster
  | 0, _, _, _ => rfl
  | k + 1, off, bs, z => by
    unfold Spilled.put
    dsimp only
    split
    · rfl
    · rw [put_cluster]
      split <;> rfl

theorem State.tasksKept_setSpilled {s : State} {z : Spilled} (k : Nat) (h : (s.prt (s.clPart z.cluster)).tasks ≠ []) :
    s.TasksKept (s.setSpilled k z) := by
  refine ⟨rfl, fun p => ?_⟩
  by_cases hp : p = s.clPart z.cluster
  · rw [State.setSpilled, hp, State.prt_onPart_of_tasks h]
    rfl
  · rw [State.setSpilled, State.prt_onPart_ne s _ hp]

/-- A write by a hub changes memories and spill images, and no task (R280, R335). -/
theorem State.tasksKept_hubWrite (s : State) (job o a : Nat) (bs : List Byte) : s.TasksKept (s.hubWrite job o a bs).1 := by
  unfold State.hubWrite
  dsimp only
  split
  · exact s.tasksKept_writeAck o a bs
  · refine List.foldlRecOn (motive := fun x : State × Bool => s.TasksKept x.1) _ _ (.refl s) ?_
    rintro ⟨t, ok⟩ ht c -
    refine ht.trans ?_
    dsimp only
    split
    · exact t.tasksKept_writeAck _ _ _
    · next k z hz =>
      obtain ⟨htasks, hc⟩ := State.tasks_ne_nil_of_away hz
      refine State.tasksKept_setSpilled k ?_
      rw [Spilled.put_cluster, hc]
      exact htasks

theorem State.tasksKept_installGroups (job o : Nat) : ∀ (n : Nat) (src dst : Addr) (s : State),
    s.TasksKept (s.installGroups job o src dst n).1
  | 0, _, _, s => .refl s
  | n + 1, src, dst, s => by
    unfold State.installGroups
    split
    · next t hread => exact .of_hubRead hread
    · next t bs hread =>
      have hwrite := (State.TasksKept.of_hubRead hread).trans (t.tasksKept_hubWrite job o dst bs)
      dsimp only
      split
      · exact hwrite.trans (tasksKept_installGroups job o n _ _ _)
      · exact hwrite

theorem State.TasksKept.of_installGroups {s t : State} {job o n : Nat} {src dst : Addr} {ok : Bool}
    (h : s.installGroups job o src dst n = (t, ok)) : s.TasksKept t := by
  have hkept := State.tasksKept_installGroups job o n src dst s
  rwa [h] at hkept

end Sys2Proof.Machine
end

section
/-!
The collective commands that open, feed and await a context (R244 to R247, R372): each branch of a command's checks, then what the command
does past them.
-/
namespace Sys2Proof.Machine

/-! ### RED_OPEN -/

/-- The context that RED_OPEN `h` opens with the plan it read (R244, R361). -/
def State.openedCtx (s : State) (c : Nat) (h : HubCmd) (plan : Block) : Ctx :=
  let q := h.q.cmd
  { part := s.clPart c, prog := h.prog, job := BitVec.ofNat 10 (s.jobOfHub c h), registrar := false, ctx := BitVec.ofNat 12 (roCtx q)
    gradient := roGradient q, topk := roTopk q, k := roKm1 q + 1, twin := roTwin q, step := BitVec.ofNat 20 (roStep q)
    elements := roElements q, deadline := roDeadline q, plan := plan, result := roResult q }

section RedOpen
variable {s u : State} {c : Nat} {h : HubCmd} (hn : s.hubNext c 0xD0 = some h)
include hn

theorem redOpenStep_of_bad (hb : s.openBad c h = true) : redOpenStep c s = s.endHub c 0xD0 stContext := by
  simp only [redOpenStep, hn, hb, if_true]

variable (hb : s.openBad c h = false)
include hb

theorem redOpenStep_of_range (hr : s.rangeOk (s.clPart c) (roPlan h.q.cmd) 64 = false) : redOpenStep c s = s.endHub c 0xD0 stAddr := by
  simp only [redOpenStep, hn, hb, hr, Bool.not_false, Bool.false_eq_true, if_false, if_true]

variable (hr : s.rangeOk (s.clPart c) (roPlan h.q.cmd) 64 = true)
include hr

theorem redOpenStep_of_unread (hread : s.hubRead (s.jobOfHub c h) (roPlan h.q.cmd) 64 = (u, none)) :
    redOpenStep c s = u.endHub c 0xD0 stMem := by
  simp only [redOpenStep, hn, hb, hr, hread, Bool.not_true, Bool.false_eq_true, if_false]

variable {bs : List Byte} {plan : Block} (hread : s.hubRead (s.jobOfHub c h) (roPlan h.q.cmd) 64 = (u, some bs))
  (hp : plan = BitVec.ofNat 512 (leNat bs))
include hread hp

theorem redOpenStep_of_bad_plan (hbad : (u.planOk (s.jobOfHub c h) plan (roResult h.q.cmd) (roTwin h.q.cmd) &&
    u.roomFor (s.clPart c) (pWindow plan)) = false) : redOpenStep c s = u.endHub c 0xD0 stContext := by
  simp only [redOpenStep, hn, hb, hr, hread, ← hp, ← Bool.not_and, hbad, Bool.not_true, Bool.not_false, Bool.false_eq_true, if_false,
    if_true]

/-- Without a log and a result there is no further range to check (R244, R362). -/
theorem redOpenStep_of_good_plan (hplan : u.planOk (s.jobOfHub c h) plan 0 (roTwin h.q.cmd) = true)
    (hroom : u.roomFor (s.clPart c) (pWindow plan) = true) (hlog : pLogSize plan = 0) (hres : roResult h.q.cmd = 0) :
    redOpenStep c s = (u.endHub c 0xD0 stOk).openCtx { s.openedCtx c h plan with result := 0 } := by
  simp [redOpenStep, hn, hb, hr, hread, ← hp, hplan, hroom, hlog, hres, State.openedCtx]

end RedOpen

/-- Settles O32, by the checks in their order. -/
theorem redOpenOpensAContextOrIsRefused : Obligations.RedOpenOpensAContextOrIsRefused := by
  unfold Obligations.RedOpenOpensAContextOrIsRefused
  rintro c s h q p job hn rfl rfl rfl
  refine ⟨fun hb => hubGoes_of_step (redOpenStep_of_bad hn hb) rfl, fun hb hr => hubGoes_of_step (redOpenStep_of_range hn hb hr) rfl,
    fun hb hr u hread => hubGoes_of_step (redOpenStep_of_unread hn hb hr hread) rfl, fun hb hr u bs plan hread hp hlog hres => ?_⟩
  refine ⟨fun ⟨hplan, hroom⟩ => hubGoes_of_step (redOpenStep_of_good_plan hn hb hr hread hp hplan hroom hlog hres) rfl,
    fun hbad => hubGoes_of_step (redOpenStep_of_bad_plan hn hb hr hread hp ?_) rfl⟩
  rw [hres]
  exact Bool.eq_false_iff.mpr fun h => hbad (Bool.and_eq_true_iff.mp h)

/-! ### Contributions -/

/-- The job of a contribution to context `x`: for a home of this package, or for the one that the command names (R245). -/
def State.contribJob (s : State) (c : Nat) (h : HubCmd) (x : Ctx) : ContribJob :=
  let q := h.q.cmd
  let dst := if hRemote q then s.named (s.jobOfHub c h) (hPackage q) else s.ownId
  { h := h, c := c, x := x, remote := hRemote q, dst := dst, dstCl := if hRemote q then hTarget q else 0x1FF
    k := s.streamTo c dst (hTarget q) }

/-- The contribution is for another package, and its stream has no counter (R208). -/
def State.contribShut (s : State) (c : Nat) (h : HubCmd) (x : Ctx) : Bool :=
  hRemote h.q.cmd && !s.streamOpen h.prog c (s.contribJob c h x).k

section Contrib
variable {s u : State} {c op : Nat} {h : HubCmd} {x : Ctx}

theorem contribStep_of_no_context (hn : s.hubNext c op = some h) (hx : s.ctx? (s.jobOfHub c h) 0 (rcCtx h.q.cmd) = none) :
    contribStep op c s = s.endHub c op stContext := by
  simp only [contribStep, hn, hx]

theorem contribStep_of_bad (hn : s.hubNext c op = some h) (hx : s.ctx? (s.jobOfHub c h) 0 (rcCtx h.q.cmd) = some x)
    (hb : s.contribBad c h x (op == 0xD2) = true) : contribStep op c s = s.endHub c op stContext := by
  simp only [contribStep, hn, hx, hb, if_true]

theorem contribStep_of_source (hn : s.hubNext c op = some h) (hx : s.ctx? (s.jobOfHub c h) 0 (rcCtx h.q.cmd) = some x)
    (hb : s.contribBad c h x (op == 0xD2) = false) (hsrc : s.rangeOk (s.clPart c) (rcSrc h.q.cmd) (4 * rcCount h.q.cmd) = false) :
    contribStep op c s = s.endHub c op stAddr := by
  simp only [contribStep, hn, hx, hb, hsrc, Bool.not_false, Bool.true_or, Bool.false_eq_true, if_false, if_true]

/-- A contribution that passes the checks of its context and its ranges (R245). -/
structure ContribChecked (s : State) (c op : Nat) (h : HubCmd) (x : Ctx) : Prop where
  next : s.hubNext c op = some h
  context : s.ctx? (s.jobOfHub c h) 0 (rcCtx h.q.cmd) = some x
  good : s.contribBad c h x (op == 0xD2) = false
  source : s.rangeOk (s.clPart c) (rcSrc h.q.cmd) (4 * rcCount h.q.cmd) = true
  residue : op = 0xD2 → s.rangeOk (s.clPart c) (rcResidue h.q.cmd) (8 * rcCount h.q.cmd) = true

namespace ContribChecked

theorem contribStep_of_stream (hc : ContribChecked s c op h x) (hshut : s.contribShut c h x = true) :
    contribStep op c s = s.endHub c op stStream := by
  obtain ⟨hn, hx, hb, hsrc, hres⟩ := hc
  have hranges : (op == 0xD2 && !s.rangeOk (s.clPart c) (rcResidue h.q.cmd) (8 * rcCount h.q.cmd)) = false := by
    by_cases ho : op = 0xD2 <;> simp [ho, hres]
  simp only [State.contribShut, State.contribJob] at hshut
  simp only [contribStep, hn, hx, hb, hsrc, hranges, hshut, Bool.not_true, Bool.or_self, Bool.false_eq_true, if_false, if_true]

theorem contribStep_dense {ok : Bool} {fl : Flags} (hc : ContribChecked s c 0xD1 h x) (hopen : s.contribShut c h x = false)
    (hp : s.densePieces (s.contribJob c h x) (rcSrc h.q.cmd) (rcFirst h.q.cmd) 0
      (pieces 128 (rcCount h.q.cmd + 1) (rcFirst h.q.cmd) (rcCount h.q.cmd)) = (u, ok, fl)) :
    contribStep 0xD1 c s = u.completeCtxs.contribEnd (hRemote h.q.cmd) c 0xD1 (if ok then stOk else stMem) fl := by
  obtain ⟨hn, hx, hb, hsrc, -⟩ := hc
  have hop : ((0xD1 : Nat) == 0xD2) = false := rfl
  rw [hop] at hb
  simp only [State.contribShut, State.contribJob] at hopen hp
  simp only [contribStep, hn, hx, hop, hb, hsrc, hopen, hp, Bool.not_true, Bool.false_and, Bool.or_self, Bool.false_eq_true, if_false]

theorem contribStep_topk {ok : Bool} {fl : Flags} (hc : ContribChecked s c 0xD2 h x) (hopen : s.contribShut c h x = false)
    (hp : s.topkPieces (s.contribJob c h x) (rcSrc h.q.cmd) (rcFirst h.q.cmd)
      (rcResidue h.q.cmd + 4 * rcCount h.q.cmd * ((x.step.toNat + 1) % 2)) (rcResidue h.q.cmd + 4 * rcCount h.q.cmd * (x.step.toNat % 2)) 0
      (pieces 256 (rcCount h.q.cmd + 1) (rcFirst h.q.cmd) (rcCount h.q.cmd)) = (u, ok, fl)) :
    contribStep 0xD2 c s = u.completeCtxs.contribEnd (hRemote h.q.cmd) c 0xD2 (if ok then stOk else stMem) fl := by
  obtain ⟨hn, hx, hb, hsrc, hres⟩ := hc
  have hop : ((0xD2 : Nat) == 0xD2) = true := rfl
  rw [hop] at hb
  simp only [State.contribShut, State.contribJob] at hopen hp
  simp only [contribStep, hn, hx, hop, hb, hsrc, hres, hopen, hp, Bool.not_true, Bool.and_false, Bool.or_self, Bool.false_eq_true,
    if_false, if_true]

end ContribChecked

theorem State.contribJob_of_remote (hr : hRemote h.q.cmd = true) : s.contribJob c h x =
    { h := h, c := c, x := x, remote := true, dst := s.named (s.jobOfHub c h) (hPackage h.q.cmd), dstCl := hTarget h.q.cmd
      k := s.streamTo c (s.named (s.jobOfHub c h) (hPackage h.q.cmd)) (hTarget h.q.cmd) } := by
  simp only [State.contribJob, hr, if_true]

theorem State.contribJob_of_local (hr : hRemote h.q.cmd = false) : s.contribJob c h x =
    { h := h, c := c, x := x, remote := false, dst := s.ownId, dstCl := 0x1FF, k := s.streamTo c s.ownId (hTarget h.q.cmd) } := by
  simp only [State.contribJob, hr, Bool.false_eq_true, if_false]

end Contrib

/-- RED_CONTRIB and RED_CONTRIB_TOPK are one row with their opcodes. -/
theorem exec_contrib {c : ClusterId} {s : State} {i : Instr} {op : Nat}
    (hi : (i = .redContrib c ∧ op = 0xD1) ∨ (i = .redContribTopk c ∧ op = 0xD2)) : exec i s = hubRow (contribStep op c) s := by
  rcases hi with ⟨rfl, rfl⟩ | ⟨rfl, rfl⟩ <;> rfl

/-- Settles O33, by the checks in their order, and past them by the form of the contribution. -/
theorem contributionsAreCheckedThenDelivered : Obligations.ContributionsAreCheckedThenDelivered := by
  unfold Obligations.ContributionsAreCheckedThenDelivered
  rintro c s i op p job h q j hi hn rfl rfl rfl
  have hexec := exec_contrib (s := s) hi
  refine ⟨fun hx => hubGoes_of_step (contribStep_of_no_context hn hx) hexec,
    fun x hx hb => hubGoes_of_step (contribStep_of_bad hn hx hb) hexec,
    fun x hx hb hsrc => hubGoes_of_step (contribStep_of_source hn hx hb hsrc) hexec, fun x hx hb hsrc hres hrem hopen hj => ?_,
    fun x u w ok fl hx hb hsrc hres hj hdense htopk hw => ?_⟩
  · rw [← State.contribJob_of_remote hrem] at hj
    have hshut : s.contribShut c h x = true := by rw [State.contribShut, ← hj, hrem, hopen]; rfl
    exact hubGoes_of_step (ContribChecked.contribStep_of_stream ⟨hn, hx, hb, hsrc, hres⟩ hshut) hexec
  · have hready : j = s.contribJob c h x ∧ s.contribShut c h x = false := by
      rcases hj with ⟨hrem, hj⟩ | ⟨hrem, hopen, hj⟩
      · exact ⟨hj.trans (State.contribJob_of_local hrem).symm, by rw [State.contribShut, hrem]; rfl⟩
      · have hjob := hj.trans (State.contribJob_of_remote hrem).symm
        exact ⟨hjob, by rw [State.contribShut, ← hjob, hopen, Bool.not_true, Bool.and_false]⟩
    obtain ⟨rfl, hopen⟩ := hready
    rw [hw]
    rcases hi with ⟨rfl, rfl⟩ | ⟨rfl, rfl⟩
    · exact hubGoes_of_step (ContribChecked.contribStep_dense ⟨hn, hx, hb, hsrc, hres⟩ hopen (hdense rfl)) hexec
    · exact hubGoes_of_step (ContribChecked.contribStep_topk ⟨hn, hx, hb, hsrc, hres⟩ hopen (htopk rfl)) hexec

/-! ### RED_WAIT -/

section RedWait
variable {s : State} {c : Nat} {h : HubCmd} (hn : s.hubNext c 0xD3 = some h)
include hn

theorem redWaitStep_of_no_context (hx : s.ctx? (s.jobOfHub c h) 0 (rcCtx h.q.cmd) = none) :
    redWaitStep c s = s.endHub c 0xD3 stContext := by
  simp only [redWaitStep, hn, hx, Option.isNone_none, Bool.or_true, if_true]

theorem redWaitStep_of_context {x : Ctx} (hx : s.ctx? (s.jobOfHub c h) 0 (rcCtx h.q.cmd) = some x) (h5 : wz h.q.cmd 5 13 19 = true)
    (h6 : wordsFrom h.q.cmd 6 = true) : redWaitStep c s = s.startHub c 0xD3 := by
  simp only [redWaitStep, hn, hx, h5, h6, Option.isNone_some, Bool.and_self, Bool.not_true, Bool.or_self, Bool.false_eq_true, if_false]

end RedWait

/-- How a RED_WAIT under way ends on its settled context (R247). -/
theorem State.waitEnd_of_settled {s : State} {c : Nat} {h : HubCmd} {x : Ctx} (hx : s.settledCtx c h = some x) :
    s.waitEnd c h =
      { h with done := some (if x.st = .failed ∧ s.stepCtl c h = false then stCtxFailed else stOk, x.flags, s.time.ticks) } := by
  simp only [State.waitEnd, hx, Bool.not_eq_eq_eq_not, Bool.not_true]

/-- Settles O34, by the context: none, open, or settled. -/
theorem redWaitWaitsForItsContext : Obligations.RedWaitWaitsForItsContext := by
  unfold Obligations.RedWaitWaitsForItsContext
  rintro c s h q hn rfl
  exact ⟨fun hx => hubGoes_of_step (redWaitStep_of_no_context hn hx) rfl,
    fun x hx h5 h6 => hubGoes_of_step (redWaitStep_of_context hn hx h5 h6) rfl, fun x hx => by rw [State.waitEnd_of_settled hx]⟩

end Sys2Proof.Machine
end

section
/-!
RING_PASS, SEND and RECV (R248 to R250): each branch of a command's checks, then what moves past them.
-/
namespace Sys2Proof.Machine

/-! ### RING_PASS -/

/-- The package that a RING_PASS or SEND names, and the stream to its cluster (R205, R381). -/
def State.sendTo (s : State) (c : Nat) (h : HubCmd) : Nat × Stream :=
  let dst := s.named (s.jobOfHub c h) (hPackage h.q.cmd)
  (dst, s.streamTo c dst (hTarget h.q.cmd))

section RingPass
variable {s u v : State} {c : Nat} {h : HubCmd}

theorem ringPassStep_of_bad (hn : s.hubNext c 0xD4 = some h) (hb : ringPassOk h.q.cmd = false ∨ s.feature featRing = false) :
    ringPassStep c s = s.endHub c 0xD4 stContext := by
  have hbad : (!ringPassOk h.q.cmd || !s.feature featRing) = true := by simpa using hb
  unfold ringPassStep
  rw [hn]
  exact if_pos hbad

/-- The operands of the RING_PASS keep to their table, and the package has the ring feature (R25, R248). -/
structure RingGood (s : State) (c : Nat) (h : HubCmd) : Prop where
  next : s.hubNext c 0xD4 = some h
  operands : ringPassOk h.q.cmd = true
  feature : s.feature featRing = true

theorem RingGood.not_bad (hg : RingGood s c h) : ¬ (!ringPassOk h.q.cmd || !s.feature featRing) = true := by
  simp [hg.operands, hg.feature]

theorem RingGood.ringPassStep_of_source (hg : RingGood s c h)
    (hr : s.rangeOk (s.clPart c) (addrPair h.q.cmd 5) (rpBytes h.q.cmd) = false) : ringPassStep c s = s.endHub c 0xD4 stAddr := by
  unfold ringPassStep
  rw [hg.next]
  exact (if_neg hg.not_bad).trans (if_pos (by rw [hr]; rfl))

/-- A RING_PASS that also passes the checks of its ranges (R248). -/
structure RingChecked (s : State) (c : Nat) (h : HubCmd) : Prop extends RingGood s c h where
  source : s.rangeOk (s.clPart c) (addrPair h.q.cmd 5) (rpBytes h.q.cmd) = true
  fits : rpOff h.q.cmd + rpBytes h.q.cmd ≤ carrelSize
  carrels : ∀ d ∈ span (rpFirst h.q.cmd) (rpCount h.q.cmd), s.rangeOk (s.clPart c) (carrelAt d (rpOff h.q.cmd)) (rpBytes h.q.cmd) = true

namespace RingChecked
variable (hc : RingChecked s c h)
include hc

theorem ranges : ¬ (!s.rangeOk (s.clPart c) (addrPair h.q.cmd 5) (rpBytes h.q.cmd) ||
    (!(span (rpFirst h.q.cmd) (rpCount h.q.cmd)).isEmpty && decide (carrelSize < rpOff h.q.cmd + rpBytes h.q.cmd)) ||
    !(span (rpFirst h.q.cmd) (rpCount h.q.cmd)).all
      (fun d => s.rangeOk (s.clPart c) (carrelAt d (rpOff h.q.cmd)) (rpBytes h.q.cmd))) = true := by
  have hall := List.all_eq_true.mpr hc.carrels
  have hin : decide (carrelSize < rpOff h.q.cmd + rpBytes h.q.cmd) = false := decide_eq_false (Nat.not_lt.mpr hc.fits)
  rw [hc.source, hin, hall, Bool.and_false]
  decide

theorem ringPassStep_of_noticed (hfwd : rpFwd h.q.cmd = true) (hd : s.noticed (s.jobOfHub c h) (s.sendTo c h).1 = true) :
    ringPassStep c s = s.endHub c 0xD4 stPeer := by
  unfold ringPassStep
  rw [hc.next]
  exact (if_neg hc.not_bad).trans <| (if_neg hc.ranges).trans <| if_pos (Bool.and_eq_true_iff.mpr ⟨hfwd, hd⟩)

theorem ringPassStep_of_no_stream (hfwd : rpFwd h.q.cmd = true) (hd : s.noticed (s.jobOfHub c h) (s.sendTo c h).1 = false)
    (hk : s.streamOpen h.prog c (s.sendTo c h).2 = false) : ringPassStep c s = s.endHub c 0xD4 stStream := by
  have hpeer : ¬ (rpFwd h.q.cmd && s.noticed (s.jobOfHub c h) (s.sendTo c h).1) = true := by rw [hd, Bool.and_false]; decide
  have hshut : (rpFwd h.q.cmd && !s.streamOpen h.prog c (s.sendTo c h).2) = true := by rw [hfwd, hk]; rfl
  unfold ringPassStep
  rw [hc.next]
  exact (if_neg hc.not_bad).trans <| (if_neg hc.ranges).trans <| (if_neg hpeer).trans <| if_pos hshut

variable {bs : List Byte} {whole : Bool}
  (hread : s.hubPrefix (s.jobOfHub c h) (addrPair h.q.cmd 5) (rpBytes h.q.cmd) = (u, bs, whole))
include hread

/-- A delivery to one carrel (R248). Its address is a variable, so that the kernel does not compute which carrels it meets. -/
theorem ringPassStep_of_local {ok : Bool} {a : Addr} (ha : carrelAt (rpFirst h.q.cmd) (rpOff h.q.cmd) = a)
    (hfwd : rpFwd h.q.cmd = false) (hone : rpCount h.q.cmd = 1) (hwrite : u.hubWrite (s.jobOfHub c h) (ownerOf c .hub) a bs = (v, ok)) :
    ringPassStep c s = v.endHub c 0xD4 (if whole && ok then stOk else stMem) := by
  have hstay : ∀ b : Bool, ¬ (rpFwd h.q.cmd && b) = true := fun b => by rw [hfwd]; exact Bool.false_ne_true
  have hspan : span (rpFirst h.q.cmd) (rpCount h.q.cmd) = [rpFirst h.q.cmd] := by rw [hone]; rfl
  unfold ringPassStep
  rw [hc.next]
  refine (if_neg hc.not_bad).trans <| (if_neg hc.ranges).trans <| (if_neg (hstay _)).trans <| (if_neg (hstay _)).trans ?_
  rw [hread, hspan, hfwd]
  conv in List.foldl _ _ _ => rw [List.foldl_cons, List.foldl_nil]
  rw [ha]
  simp only [hwrite, Bool.true_and, Bool.false_eq_true, if_false]

/-- A pass to the next package alone (R248). -/
theorem ringPassStep_of_forward (hfwd : rpFwd h.q.cmd = true) (hnone : rpCount h.q.cmd = 0)
    (hd : s.noticed (s.jobOfHub c h) (s.sendTo c h).1 = false) (hk : s.streamOpen h.prog c (s.sendTo c h).2 = true) :
    ringPassStep c s =
      (u.sendData h c (s.sendTo c h).2 (u.writePackets c (s.jobOfHub c h) (s.sendTo c h).2 (addrPair h.q.cmd 10) bs)).sentHub c 0xD4
        (if whole then stOk else stMem) := by
  have hpeer : ¬ (rpFwd h.q.cmd && s.noticed (s.jobOfHub c h) (s.sendTo c h).1) = true := by rw [hd, Bool.and_false]; decide
  have hopen : ¬ (rpFwd h.q.cmd && !s.streamOpen h.prog c (s.sendTo c h).2) = true := by rw [hk, Bool.not_true, Bool.and_false]; decide
  have hspan : span (rpFirst h.q.cmd) (rpCount h.q.cmd) = [] := by rw [hnone]; rfl
  unfold ringPassStep
  rw [hc.next]
  refine (if_neg hc.not_bad).trans <| (if_neg hc.ranges).trans <| (if_neg hpeer).trans <| (if_neg hopen).trans ?_
  rw [hread, hspan]
  simp only [List.foldl_nil, hfwd, Bool.and_true, if_true]
  rfl

end RingChecked
end RingPass

/-- Settles O35, by the checks in their order, and past them by where the bytes go. -/
theorem ringPassMulticastsAndForwards : Obligations.RingPassMulticastsAndForwards := by
  unfold Obligations.RingPassMulticastsAndForwards
  rintro c s h q p job n dst k hn rfl rfl rfl rfl rfl rfl
  refine ⟨fun hb => hubGoes_of_step (ringPassStep_of_bad hn hb) rfl,
    fun hok hf hr => hubGoes_of_step (RingGood.ringPassStep_of_source ⟨hn, hok, hf⟩ hr) rfl,
    fun hok hf hr hfits hall => ?_⟩
  have hc : RingChecked s c h := ⟨⟨hn, hok, hf⟩, hr, hfits, hall⟩
  exact ⟨fun hfwd hd => hubGoes_of_step (hc.ringPassStep_of_noticed hfwd hd) rfl,
    fun hfwd hd hk => hubGoes_of_step (hc.ringPassStep_of_no_stream hfwd hd hk) rfl,
    fun hfwd hone u v bs whole ok hread hwrite => hubGoes_of_step (hc.ringPassStep_of_local hread rfl hfwd hone hwrite) rfl,
    fun hfwd hd hk hnone u bs whole hread => hubGoes_of_step (hc.ringPassStep_of_forward hread hfwd hnone hd hk) rfl⟩

/-! ### SEND -/

section Send
variable {s u v : State} {c : Nat} {h : HubCmd}

theorem sendStep_of_bad (hn : s.hubNext c 0xD5 = some h) (hb : (sendRecvOk h.q.cmd && wordsFrom h.q.cmd 10) = false) :
    sendStep c s = s.endHub c 0xD5 stContext := by
  simp only [sendStep, hn, hb, Bool.not_false, if_true]

/-- A SEND whose operands keep to their table (R228, R249). -/
structure SendChecked (s : State) (c : Nat) (h : HubCmd) : Prop where
  next : s.hubNext c 0xD5 = some h
  operands : (sendRecvOk h.q.cmd && wordsFrom h.q.cmd 10) = true

namespace SendChecked
variable (hc : SendChecked s c h)
include hc

theorem sendStep_of_source (hr : s.rangeOk (s.clPart c) (addrPair h.q.cmd 5) (srBytes h.q.cmd) = false) :
    sendStep c s = s.endHub c 0xD5 stAddr := by
  simp only [sendStep, hc.next, hc.operands, hr, Bool.not_true, Bool.not_false, Bool.true_or, Bool.false_eq_true, if_false, if_true]

variable (hr : s.rangeOk (s.clPart c) (addrPair h.q.cmd 5) (srBytes h.q.cmd) = true)
include hr

section Remote
variable (hrem : hRemote h.q.cmd = true)
include hrem

theorem sendStep_of_noticed (hd : s.noticed (s.jobOfHub c h) (s.sendTo c h).1 = true) : sendStep c s = s.endHub c 0xD5 stPeer := by
  simp only [State.sendTo] at hd
  simp only [sendStep, hc.next, hc.operands, hr, hrem, hd, Bool.not_true, Bool.false_and, Bool.or_self, Bool.false_eq_true, if_false,
    if_true]

variable (hd : s.noticed (s.jobOfHub c h) (s.sendTo c h).1 = false)
include hd

theorem sendStep_of_no_stream (hk : s.streamOpen h.prog c (s.sendTo c h).2 = false) : sendStep c s = s.endHub c 0xD5 stStream := by
  simp only [State.sendTo] at hd hk
  simp only [sendStep, hc.next, hc.operands, hr, hrem, hd, hk, Bool.not_true, Bool.not_false, Bool.false_and, Bool.or_self,
    Bool.false_eq_true, if_false, if_true]

theorem sendStep_of_remote (hk : s.streamOpen h.prog c (s.sendTo c h).2 = true) {bs : List Byte} {whole : Bool}
    (hread : s.hubPrefix (s.jobOfHub c h) (addrPair h.q.cmd 5) (srBytes h.q.cmd) = (u, bs, whole)) : sendStep c s =
    (u.sendData h c (s.sendTo c h).2 (u.writePackets c (s.jobOfHub c h) (s.sendTo c h).2 (addrPair h.q.cmd 7) bs)).sentHub c 0xD5
      (if whole then stOk else stMem) := by
  simp only [State.sendTo] at hd hk ⊢
  simp only [sendStep, hc.next, hc.operands, hr, hrem, hd, hk, hread, Bool.not_true, Bool.false_and, Bool.or_self, Bool.false_eq_true,
    if_false, if_true]

end Remote

theorem sendStep_of_local (hrem : hRemote h.q.cmd = false)
    (hw : s.rangeOk (s.clPart c) (addrPair h.q.cmd 7) (srBytes h.q.cmd) = true) {bs : List Byte} {whole ok : Bool}
    (hread : s.hubPrefix (s.jobOfHub c h) (addrPair h.q.cmd 5) (srBytes h.q.cmd) = (u, bs, whole))
    (hwrite : u.hubWrite (s.jobOfHub c h) (ownerOf c .hub) (addrPair h.q.cmd 7) bs = (v, ok)) :
    sendStep c s = v.endHub c 0xD5 (if whole && ok then stOk else stMem) := by
  simp only [sendStep, hc.next, hc.operands, hr, hrem, hw, hread, hwrite, Bool.not_true, Bool.and_false, Bool.or_self, Bool.false_eq_true,
    if_false]

end SendChecked
end Send

/-! ### RECV -/

/-- The operands of RECV are bad: reserved bits, or no other package of the job (R228, R249). -/
def State.recvBad (s : State) (c : Nat) (h : HubCmd) : Bool :=
  !(sendRecvOk h.q.cmd && wz h.q.cmd 10 13 19) || hRemote h.q.cmd || wfld h.q.cmd 10 0 13 = s.ownId ||
    !s.plan.member (s.jobOfHub c h) (wfld h.q.cmd 10 0 13)

theorem State.recvBad_iff {s : State} {c : Nat} {h : HubCmd} : s.recvBad c h = true ↔
    sendRecvOk h.q.cmd = false ∨ wz h.q.cmd 10 13 19 = false ∨ hRemote h.q.cmd = true ∨ wfld h.q.cmd 10 0 13 = s.ownId ∨
      s.plan.member (s.jobOfHub c h) (wfld h.q.cmd 10 0 13) = false := by
  simp [State.recvBad, or_assoc]

/-- The READ_REQ of a RECV: it names the source, and in its payload the destination and the length (R249; log 43). -/
def State.recvRequest (s : State) (c : Nat) (h : HubCmd) : Packet :=
  s.newPacket 1 0 (s.jobOfHub c h) (wfld h.q.cmd 10 0 13) c 0x1FF (addrPair h.q.cmd 5) 0
    (leBytes (addrPair h.q.cmd 7 + srBytes h.q.cmd * 2 ^ 64) 16)

section Recv
variable {s : State} {c : Nat} {h : HubCmd} (hn : s.hubNext c 0xD6 = some h)
include hn

theorem recvStep_of_bad (hb : s.recvBad c h = true) : recvStep c s = s.endHub c 0xD6 stContext := by
  rw [State.recvBad] at hb
  simp only [recvStep, hn, hb, if_true]

variable (hb : s.recvBad c h = false)
include hb

theorem recvStep_of_range (hr : s.rangeOk (s.clPart c) (addrPair h.q.cmd 7) (srBytes h.q.cmd) = false) :
    recvStep c s = s.endHub c 0xD6 stAddr := by
  rw [State.recvBad] at hb
  simp only [recvStep, hn, hb, hr, Bool.not_false, Bool.false_eq_true, if_false, if_true]

variable (hr : s.rangeOk (s.clPart c) (addrPair h.q.cmd 7) (srBytes h.q.cmd) = true)
include hr

theorem recvStep_of_noticed (hd : s.noticed (s.jobOfHub c h) (wfld h.q.cmd 10 0 13) = true) : recvStep c s = s.endHub c 0xD6 stPeer := by
  rw [State.recvBad] at hb
  simp only [recvStep, hn, hb, hr, hd, Bool.not_true, Bool.false_eq_true, if_false, if_true]

theorem recvStep_of_good (hd : s.noticed (s.jobOfHub c h) (wfld h.q.cmd 10 0 13) = false) : recvStep c s =
    (s.onCl c (fun k => { k with
      hubq := onFirst (HubCmd.fresh 0xD6) (fun h' => { h' with started := true, left := srBytes h.q.cmd }) k.hubq })).inject
      (s.recvRequest c h) := by
  rw [State.recvBad] at hb
  simp only [recvStep, hn, hb, hr, hd, Bool.not_true, Bool.false_eq_true, if_false]
  rfl

end Recv

/-- Settles O36, by the checks of each command in their order. -/
theorem sendAndRecvMoveBytesBetweenPackages : Obligations.SendAndRecvMoveBytesBetweenPackages := by
  unfold Obligations.SendAndRecvMoveBytesBetweenPackages
  constructor
  · rintro c s h q p job n pk k hn rfl rfl rfl rfl rfl rfl
    have checked (h1 : sendRecvOk h.q.cmd = true) (h2 : wordsFrom h.q.cmd 10 = true) : SendChecked s c h := ⟨hn, by rw [h1, h2]; rfl⟩
    refine ⟨fun hb => hubGoes_of_step (sendStep_of_bad hn hb) rfl,
      fun h1 h2 hr => hubGoes_of_step ((checked h1 h2).sendStep_of_source hr) rfl,
      fun h1 h2 hr hrem => ?_, fun h1 h2 hr hrem hw u v bs whole ok hread hwrite =>
        hubGoes_of_step ((checked h1 h2).sendStep_of_local hr hrem hw hread hwrite) rfl⟩
    exact ⟨fun hd => hubGoes_of_step ((checked h1 h2).sendStep_of_noticed hr hrem hd) rfl,
      fun hd hk => hubGoes_of_step ((checked h1 h2).sendStep_of_no_stream hr hrem hd hk) rfl,
      fun hd hk u bs whole hread => hubGoes_of_step ((checked h1 h2).sendStep_of_remote hr hrem hd hk hread) rfl⟩
  · rintro c s h q job n pk hn rfl rfl rfl rfl
    refine ⟨fun hb => hubGoes_of_step (recvStep_of_bad hn (State.recvBad_iff.mpr hb)) rfl, fun h1 h2 hrem hown hmem => ?_⟩
    have hb : s.recvBad c h = false := Bool.eq_false_iff.mpr fun hbad => by simpa [h1, h2, hrem, hown, hmem] using State.recvBad_iff.mp hbad
    exact ⟨fun hr => hubGoes_of_step (recvStep_of_range hn hb hr) rfl, fun hr hd => hubGoes_of_step (recvStep_of_noticed hn hb hr hd) rfl,
      fun hr hd => hubGoes_of_step (recvStep_of_good hn hb hr hd) rfl⟩

end Sys2Proof.Machine
end

section
/-!
UPD_APPLY, WAITING_BINDING_CHECK and UPD_INSTALL (R251, R252, R393, R401): each branch of the checks, then the binding or the installation.
-/
namespace Sys2Proof.Machine

/-! ### UPD_APPLY -/

/-- The binding of UPD_APPLY `h` to context `x`, before its checks (R251, R393). -/
def State.newBinding (s : State) (c : Nat) (h : HubCmd) (x : Ctx) : Binding :=
  { id := s.bindings.foldl (fun m b => max m (b.id + 1)) 0, part := s.clPart c, cluster := c, cmdAddr := h.q.addr, cmd := h.q.cmd
    stamp := h.q.stamp, desc := uaDesc h.q.cmd, job := x.job, ctx := x.ctx, prog := h.prog, st := .waiting, stepCtl := s.stepCtl c h
    hstep := x.step, elements := x.elements, result := x.result, chunks := s.ownChunks x, hubs := (s.ownChunks x).map (s.chunkHub x) }

/-- UPD_APPLY is under way with its binding in the list (R251). -/
def State.withBinding (s : State) (c : Nat) (h : HubCmd) (x : Ctx) : State :=
  ((s.startHub c 0xE0).setCtx { x with bound := true }).setBindings (s.bindings ++ [s.newBinding c h x])

/-- An incomplete binding of another step holds the descriptor, or waits for it (R393). -/
def Binding.blocks (y b : Binding) : Bool :=
  y.id != b.id && y.desc == b.desc && (y.holds || y.st == .waiting) && y.hstep != b.hstep

theorem le_foldl_nextId : ∀ (l : List Binding) (n : Nat), n ≤ l.foldl (fun m b => max m (b.id + 1)) n
  | [], n => Nat.le_refl n
  | b :: l, n => Nat.le_trans (Nat.le_max_left n (b.id + 1)) (le_foldl_nextId l _)

theorem id_lt_foldl_nextId {y : Binding} : ∀ {l : List Binding} (n : Nat), y ∈ l → y.id < l.foldl (fun m b => max m (b.id + 1)) n
  | b :: l, n, h => by
    rcases List.mem_cons.mp h with rfl | h
    · exact Nat.lt_of_lt_of_le (Nat.le_max_right n (y.id + 1)) (le_foldl_nextId l _)
    · exact id_lt_foldl_nextId (l := l) (max n (b.id + 1)) h

/-- The number of a new binding is that of no other. -/
theorem State.id_ne_newBinding {s : State} {y : Binding} (c : Nat) (h : HubCmd) (x : Ctx) (hy : y ∈ s.bindings) :
    y.id ≠ (s.newBinding c h x).id := Nat.ne_of_lt (id_lt_foldl_nextId 0 hy)

section Apply
variable {s : State} {c : Nat} {h : HubCmd} (hn : s.hubNext c 0xE0 = some h)
include hn

theorem updApplyStep_of_bad (hb : updApplyRsv h.q.cmd = false) :
    updApplyStep c s = (s.updCount (s.clPart c) HubSt.incDescBad).endHub c 0xE0 stDesc := by
  simp only [updApplyStep, hn, hb, Bool.not_false, if_true]

variable (hb : updApplyRsv h.q.cmd = true)
include hb

theorem updApplyStep_of_no_context (hx : s.ctx? (s.jobOfHub c h) 0 (uaCtx h.q.cmd) = none) :
    updApplyStep c s = s.endHub c 0xE0 stContext := by
  simp only [updApplyStep, hn, hb, hx, Bool.not_true, Bool.false_eq_true, if_false]

variable {x : Ctx} (hx : s.ctx? (s.jobOfHub c h) 0 (uaCtx h.q.cmd) = some x)
include hx

theorem updApplyStep_of_bound (hbound : x.bound = true) : updApplyStep c s = s.endHub c 0xE0 stContext := by
  simp only [updApplyStep, hn, hb, hx, hbound, Bool.not_true, Bool.false_eq_true, if_false, if_true]

/-- A new binding waits while another blocks it, and else binds at once (R393). -/
theorem updApplyStep_of_free (hbound : x.bound = false) : updApplyStep c s =
    if (s.bindings ++ [s.newBinding c h x]).any (fun y => y.blocks (s.newBinding c h x)) then s.withBinding c h x
    else (s.withBinding c h x).bindNow (s.newBinding c h x) := by
  simp only [updApplyStep, hn, hb, hx, hbound, Bool.not_true, Bool.false_eq_true, if_false]
  rfl

end Apply

section Blocks
variable {s : State} {c : Nat} {h : HubCmd} {x : Ctx}

theorem any_blocks_of_other_step
    (hy : ∃ y ∈ s.bindings, y.desc = uaDesc h.q.cmd ∧ (y.holds = true ∨ y.st = .waiting) ∧ y.hstep ≠ x.step) :
    (s.bindings ++ [s.newBinding c h x]).any (fun y => y.blocks (s.newBinding c h x)) = true := by
  obtain ⟨y, hmem, hdesc, hst, hstep⟩ := hy
  refine List.any_eq_true.mpr ⟨y, List.mem_append_left _ hmem, ?_⟩
  have hid := State.id_ne_newBinding c h x hmem
  have hdesc' : y.desc = (s.newBinding c h x).desc := hdesc
  have hstep' : y.hstep ≠ (s.newBinding c h x).hstep := hstep
  simp [Binding.blocks, hid, hdesc', hstep', hst]

theorem any_blocks_of_no_descriptor (hy : ∀ y ∈ s.bindings, y.desc ≠ uaDesc h.q.cmd) :
    (s.bindings ++ [s.newBinding c h x]).any (fun y => y.blocks (s.newBinding c h x)) = false := by
  refine List.any_eq_false.mpr fun y hmem => ?_
  rcases List.mem_append.mp hmem with hmem | hmem
  · have hdesc : y.desc ≠ (s.newBinding c h x).desc := hy y hmem
    simp [Binding.blocks, hdesc]
  · simp [Binding.blocks, List.mem_singleton.mp hmem]

end Blocks

/-! ### WAITING_BINDING_CHECK -/

/-- The waiting bindings of a descriptor, oldest issue stamp first (R67, R393). -/
def State.waitingFor (s : State) (desc : Addr) : List Binding :=
  (s.bindings.filter (fun b => b.desc == desc && b.st == .waiting)).foldl (fun l b => insertStamp b l) []

/-- Of one or two waiting bindings the one of the older stamp is first. -/
theorem State.waitingFor_of_oldest {s : State} {desc : Addr} {b : Binding} {ws : List Binding}
    (hw : ws = s.bindings.filter (fun b => b.desc == desc && b.st == .waiting))
    (ho : ws = [b] ∨ ∃ y, (ws = [b, y] ∨ ws = [y, b]) ∧ stampLt b.stamp y.stamp = true ∧ stampLt y.stamp b.stamp = false) :
    ∃ l, s.waitingFor desc = b :: l := by
  rw [State.waitingFor, ← hw]
  rcases ho with rfl | ⟨y, rfl | rfl, hby, hyb⟩
  · exact ⟨[], rfl⟩
  · exact ⟨[y], by simp [insertStamp, hyb]⟩
  · exact ⟨[y], by simp [insertStamp, hby]⟩

section Waiting
variable {s : State} {desc : Addr} {b : Binding} {l : List Binding} (hw : s.waitingFor desc = b :: l)
include hw

theorem waitingCheckStep_of_held (hy : ∃ y ∈ s.bindings, y.desc = desc ∧ y.holds = true ∧ y.hstep ≠ b.hstep) :
    waitingCheckStep desc s = s := by
  have hheld : s.bindings.any (fun y => y.desc == desc && y.holds && y.hstep != b.hstep) = true := by
    obtain ⟨y, hmem, hd, hh, hs⟩ := hy
    exact List.any_eq_true.mpr ⟨y, hmem, by simp [hd, hh, hs]⟩
  rw [State.waitingFor] at hw
  simp only [waitingCheckStep, hw, hheld, if_true]

theorem waitingCheckStep_of_free (hy : ∀ y ∈ s.bindings, y.desc = desc → y.hstep ≠ b.hstep → y.holds = false) :
    waitingCheckStep desc s = s.bindNow b := by
  have hfree : s.bindings.any (fun y => y.desc == desc && y.holds && y.hstep != b.hstep) = false := by
    refine List.any_eq_false.mpr fun y hmem hheld => ?_
    simp only [Bool.and_eq_true, beq_iff_eq, bne_iff_ne] at hheld
    obtain ⟨⟨hd, hh⟩, hs⟩ := hheld
    rw [hy y hmem hd hs] at hh
    cases hh
  rw [State.waitingFor] at hw
  simp only [waitingCheckStep, hw, hfree, Bool.false_eq_true, if_false]

end Waiting

/-! ### UPD_INSTALL -/

/-- The feature map is in the panel, which no read by a hub changes (R25, R26). -/
theorem State.feature_of_hubRead {s a : State} {job x n : Nat} {r : Option (List Byte)} (h : s.hubRead job x n = (a, r)) (i : Nat) :
    a.feature i = s.feature i := by
  obtain ⟨m, hm⟩ := s.hubRead_shape job x n
  rw [h] at hm
  rw [show a = _ from hm]
  rfl

section Install
variable {s a b d : State} {c : Nat} {h : HubCmd} (hn : s.hubNext c 0xE1 = some h)
include hn

theorem updInstallStep_of_bad (hb : updInstallOk h.q.cmd = false) : updInstallStep c s = s.endHub c 0xE1 stDesc := by
  simp only [updInstallStep, hn, hb, Bool.not_false, if_true]

variable (hb : updInstallOk h.q.cmd = true)
include hb

theorem updInstallStep_of_range (hr : s.rangeOk (s.clPart c) (addrPair h.q.cmd 7) 320 = false) :
    updInstallStep c s = s.endHub c 0xE1 stAddr := by
  simp only [updInstallStep, hn, hb, hr, Bool.not_true, Bool.not_false, Bool.false_eq_true, if_false, if_true]

variable (hr : s.rangeOk (s.clPart c) (addrPair h.q.cmd 7) 320 = true)
  {bs : List Byte} (hread : s.hubRead (s.jobOfHub c h) (addrPair h.q.cmd 7) 320 = (a, some bs))
  {cf : UCfg} (hcf : cf = BitVec.ofNat 1024 (leNat (bs.take 128)))
include hr hread hcf

/-- A region without a preconditioner, or too small for the groups (R252, R401; log 98). -/
theorem updInstallStep_of_no_buffer
    (hbad : uRule cf ≠ 3 ∨ s.feature featBlockpre = false ∨ uCount cf / 8 < cmdWord h.q.cmd 9 + cmdWord h.q.cmd 10) :
    updInstallStep c s = a.endHub c 0xE1 stDesc := by
  have hfeature := State.feature_of_hubRead hread featBlockpre
  have hrefused : (uRule cf != ruBlockpre || !a.feature featBlockpre ||
      decide (uCount cf / 8 < cmdWord h.q.cmd 9 + cmdWord h.q.cmd 10)) = true := by
    simpa [hfeature, ruBlockpre, or_assoc] using hbad
  simp only [updInstallStep, hn, hb, hr, hread, ← hcf, hrefused, Bool.not_true, Bool.false_eq_true, if_false, if_true]

/-- The groups go to the buffer not selected, and are counted as installed (R252, R401). -/
theorem updInstallStep_of_good {us : UState} {ok : Bool} (hus : us = BitVec.ofNat 512 (leNat (bs.drop 256))) (hrule : uRule cf = 3)
    (hf : s.feature featBlockpre = true) (hroom : cmdWord h.q.cmd 9 + cmdWord h.q.cmd 10 ≤ uCount cf / 8)
    (hsrc : a.rangeOk (s.clPart c) (addrPair h.q.cmd 5) (256 * cmdWord h.q.cmd 10) = true)
    (hdst : a.rangeOk (s.clPart c) (uAux cf + 512 * cmdWord h.q.cmd 9) (512 * cmdWord h.q.cmd 10) = true)
    (hgroups : a.installGroups (s.jobOfHub c h) (ownerOf c .hub) (addrPair h.q.cmd 5)
      (uAux cf + 512 * cmdWord h.q.cmd 9 + 256 * (1 - ustSel us)) (cmdWord h.q.cmd 10) = (b, true))
    (hwrite : b.hubWrite (s.jobOfHub c h) (ownerOf c .hub) (addrPair h.q.cmd 7 + 256)
      (leBytes (ustSet us 192 32 (ustInstalled us + cmdWord h.q.cmd 10)).toNat 64) = (d, ok)) :
    updInstallStep c s = d.endHub c 0xE1 (if ok then stOk else stMem) := by
  have hfeature : a.feature featBlockpre = true := (State.feature_of_hubRead hread featBlockpre).trans hf
  have hka := State.TasksKept.of_hubRead hread
  have hkb := hka.trans (State.TasksKept.of_installGroups hgroups)
  have hgood : (uRule cf != ruBlockpre || !a.feature featBlockpre ||
      decide (uCount cf / 8 < cmdWord h.q.cmd 9 + cmdWord h.q.cmd 10)) = false := by
    simp [hfeature, hrule, ruBlockpre, hroom]
  simp only [updInstallStep, hn, hb, hr, hread, ← hcf, ← hus, hgood, hsrc, hdst, hka.jobOfHub, hkb.jobOfHub, hgroups, hwrite,
    Bool.not_true, Bool.or_self, Bool.false_eq_true, if_false]

end Install

/-- Settles O37, by the command: UPD_APPLY by what stands on its descriptor, WAITING_BINDING_CHECK by the oldest waiting binding,
UPD_INSTALL by its checks. -/
theorem updateCommandsBindAndInstall : Obligations.UpdateCommandsBindAndInstall := by
  unfold Obligations.UpdateCommandsBindAndInstall
  refine ⟨⟨?_, ?_⟩, ?_⟩
  · rintro c s h q p hn rfl rfl
    refine ⟨fun hb => hubGoes_of_step (updApplyStep_of_bad hn hb) rfl,
      fun hb hx => hubGoes_of_step (updApplyStep_of_no_context hn hb hx) rfl,
      fun x hb hx => ⟨fun hbound => hubGoes_of_step (updApplyStep_of_bound hn hb hx hbound) rfl, ?_⟩⟩
    rintro b u hbound rfl rfl
    have hstep := updApplyStep_of_free hn hb hx hbound
    refine ⟨fun hy => hubGoes_of_step (hstep.trans ?_) rfl, fun hy => hubGoes_of_step (hstep.trans ?_) rfl⟩
    · rw [any_blocks_of_other_step hy]
      rfl
    · rw [any_blocks_of_no_descriptor hy]
      rfl
  · intro desc s b ws hws ho
    obtain ⟨l, hw⟩ := State.waitingFor_of_oldest hws ho
    exact ⟨fun hy => hubGoes_of_step (waitingCheckStep_of_held hw hy) rfl,
      fun hy => hubGoes_of_step (waitingCheckStep_of_free hw hy) rfl⟩
  · rintro c s h q p job hn rfl rfl rfl
    refine ⟨fun hb => hubGoes_of_step (updInstallStep_of_bad hn hb) rfl,
      fun hb hr => hubGoes_of_step (updInstallStep_of_range hn hb hr) rfl,
      fun hb hr a bs cf us hread hcf hus =>
        ⟨fun hbad => hubGoes_of_step (updInstallStep_of_no_buffer hn hb hr hread hcf hbad) rfl, ?_⟩⟩
    exact fun hrule hf hroom hsrc hdst b d ok hgroups hwrite =>
      hubGoes_of_step (updInstallStep_of_good hn hb hr hread hcf hus hrule hf hroom hsrc hdst hgroups hwrite) rfl

end Sys2Proof.Machine
end

section
/-!
The decode of a block by its four syndromes (R271). The syndromes are linear in the error. The 585 covered bits form an array of 9
rows and 65 columns, the eight words with row_parity as the last column and col_parity with the corner as the last row: an inverted
bit marks its row and its column there, so two inverted bits mark an even number of rows, which no row of the table that mends does.
-/
namespace Sys2Proof.Machine

/-! ### Fields and parities bit by bit -/

theorem testBit_nfld (n lo len i : Nat) : (nfld n lo len).testBit i = (decide (i < len) && n.testBit (lo + i)) := by
  rw [nfld, Nat.testBit_mod_two_pow, Nat.testBit_shiftRight]

theorem nfld_xor (m n lo len : Nat) : nfld (m ^^^ n) lo len = nfld m lo len ^^^ nfld n lo len := by
  simp only [nfld, Nat.shiftRight_xor_distrib, Nat.xor_mod_two_pow]

@[simp] theorem nfld_zero (lo len : Nat) : nfld 0 lo len = 0 := by simp [nfld]

theorem nfld_two_pow (k lo len : Nat) : nfld (2 ^ k) lo len = if lo ≤ k ∧ k < lo + len then 2 ^ (k - lo) else 0 := by
  apply Nat.eq_of_testBit_eq
  intro i
  rw [testBit_nfld, Nat.testBit_two_pow]
  split
  · rw [Nat.testBit_two_pow, ← Bool.decide_and]
    exact decide_eq_decide.mpr (by omega)
  · rw [Nat.zero_testBit, ← Bool.decide_and]
    exact decide_eq_false (by omega)

theorem fld_xor {w : Nat} (a b : BitVec w) (lo len : Nat) : fld (a ^^^ b) lo len = fld a lo len ^^^ fld b lo len := by
  rw [fld, BitVec.toNat_xor, nfld_xor, fld, fld]

@[simp] theorem fld_zero (w lo len : Nat) : fld 0#w lo len = 0 := nfld_zero lo len

theorem bit_xor {w : Nat} (a b : BitVec w) (i : Nat) : bit (a ^^^ b) i = (bit a i ^^ bit b i) := by
  rw [bit, BitVec.toNat_xor, Nat.testBit_xor, bit, bit]

@[simp] theorem bit_zero (w i : Nat) : bit 0#w i = false := Nat.zero_testBit i

theorem parityOf_two_pow (i : Nat) : ∀ n, parityOf (2 ^ i) n = decide (i < n)
  | 0 => rfl
  | n + 1 => by
    rw [parityOf, parityOf_two_pow i n, Nat.testBit_two_pow]
    by_cases hlt : i < n
    · simp [hlt, Nat.ne_of_lt hlt, Nat.lt_succ_of_lt hlt]
    · by_cases heq : i = n
      · simp [heq]
      · simp [hlt, heq, show ¬ i < n + 1 by omega]

/-- A number has exactly one set bit when it is a power of two. -/
theorem oneBit_eq_some_iff {n k : Nat} : oneBit n = some k ↔ n = 2 ^ k := by
  rw [oneBit, Option.ite_none_right_eq_some, Nat.ne_zero_and_sub_one_eq_zero_iff_isPowerOfTwo, Option.some.injEq]
  constructor
  · rintro ⟨⟨m, rfl⟩, hlog⟩
    rw [← hlog, Nat.log2_two_pow]
  · rintro rfl
    exact ⟨⟨k, rfl⟩, Nat.log2_two_pow⟩

@[simp] theorem oneBit_two_pow (k : Nat) : oneBit (2 ^ k) = some k := oneBit_eq_some_iff.mpr rfl

@[simp] theorem oneBit_zero : oneBit 0 = none := rfl

theorem nat_xor_xor_xor_comm (a b c d : Nat) : a ^^^ b ^^^ (c ^^^ d) = a ^^^ c ^^^ (b ^^^ d) := by ac_rfl

theorem eq_of_nat_xor_eq_zero {a b : Nat} (h : a ^^^ b = 0) : a = b :=
  calc
    a = a ^^^ b ^^^ b := by rw [Nat.xor_assoc, Nat.xor_self, Nat.xor_zero]
    _ = b := by rw [h, Nat.zero_xor]

theorem bool_xor_xor_xor_comm : ∀ a b c d : Bool, ((a ^^ b) ^^ (c ^^ d)) = ((a ^^ c) ^^ (b ^^ d)) := by decide

theorem bne_bool_eq_xor : ∀ a b : Bool, (a != b) = (a ^^ b) := by decide

/-! ### The parities of a block are linear (R270) -/

/-- XOR of the words `w i`, for `i` below `n`. -/
def xorSum (w : Nat → Nat) (n : Nat) : Nat := (List.range n).foldl (fun a i => a ^^^ w i) 0

theorem xorSum_succ (w : Nat → Nat) (n : Nat) : xorSum w (n + 1) = xorSum w n ^^^ w n := by
  simp [xorSum, List.range_succ]

theorem xorSum_xor (v w : Nat → Nat) : ∀ n, xorSum (fun i => v i ^^^ w i) n = xorSum v n ^^^ xorSum w n
  | 0 => (Nat.xor_self 0).symm
  | n + 1 => by
    rw [xorSum_succ, xorSum_succ, xorSum_succ, xorSum_xor v w n, nat_xor_xor_xor_comm]

theorem xorSum_single (r v : Nat) : ∀ n, xorSum (fun i => if i = r then v else 0) n = if r < n then v else 0
  | 0 => rfl
  | n + 1 => by
    rw [xorSum_succ, xorSum_single r v n]
    by_cases hlt : r < n
    · simp [hlt, Nat.ne_of_gt hlt, Nat.lt_succ_of_lt hlt]
    · by_cases heq : n = r
      · simp [heq]
      · simp [hlt, heq, show ¬ r < n + 1 by omega]

theorem colParity_eq (d : Nat) : colParity d = xorSum (dword d) 8 := rfl

theorem testBit_rowParity (d i : Nat) : (rowParity d).testBit i = (decide (i < 8) && parityOf (dword d i) 64) := by
  by_cases hi : i < 8
  · rw [decide_eq_true hi, Bool.true_and]
    exact testBit_bitSum (fun i => parityOf (dword d i) 64) hi
  · rw [decide_eq_false hi, Bool.false_and]
    exact Nat.testBit_lt_two_pow (Nat.lt_of_lt_of_le (rowParity_lt d) (Nat.pow_le_pow_right (by decide) (Nat.not_lt.mp hi)))

theorem dword_xor (d e i : Nat) : dword (d ^^^ e) i = dword d i ^^^ dword e i := nfld_xor d e (64 * i) 64

/-- A bit of a block lies in one word. -/
theorem dword_two_pow (k i : Nat) : dword (2 ^ k) i = if i = k / 64 then 2 ^ (k % 64) else 0 := by
  rw [dword, nfld_two_pow]
  by_cases h : i = k / 64
  · rw [if_pos h, if_pos (by omega), show k - 64 * i = k % 64 by omega]
  · rw [if_neg h, if_neg (by omega)]

theorem colParity_xor (d e : Nat) : colParity (d ^^^ e) = colParity d ^^^ colParity e := by
  simp only [colParity_eq, ← xorSum_xor, ← dword_xor]

theorem rowParity_xor (d e : Nat) : rowParity (d ^^^ e) = rowParity d ^^^ rowParity e := by
  apply Nat.eq_of_testBit_eq
  intro i
  rw [Nat.testBit_xor, testBit_rowParity, testBit_rowParity, testBit_rowParity, dword_xor, parityOf_xor, Bool.and_xor_distrib_left]

@[simp] theorem colParity_zero : colParity 0 = 0 := rfl

@[simp] theorem rowParity_zero : rowParity 0 = 0 := by
  simpa using rowParity_xor 0 0

theorem colParity_two_pow {k : Nat} (h : k < 512) : colParity (2 ^ k) = 2 ^ (k % 64) := by
  have hw : dword (2 ^ k) = fun i => if i = k / 64 then 2 ^ (k % 64) else 0 := funext (dword_two_pow k)
  rw [colParity_eq, hw, xorSum_single, if_pos (by omega)]

theorem rowParity_two_pow {k : Nat} (h : k < 512) : rowParity (2 ^ k) = 2 ^ (k / 64) := by
  apply Nat.eq_of_testBit_eq
  intro i
  rw [testBit_rowParity, dword_two_pow, Nat.testBit_two_pow]
  by_cases hi : i = k / 64
  · rw [if_pos hi, parityOf_two_pow, decide_eq_true (show i < 8 by omega), decide_eq_true (Nat.mod_lt k (by decide)),
      decide_eq_true hi.symm, Bool.and_true]
  · rw [if_neg hi, parityOf_zero, Bool.and_false, decide_eq_false (Ne.symm hi)]

/-! ### The four syndromes and the table of R271 -/

/-- The four syndromes of a read (R271). -/
@[ext] structure Syndromes where
  sr : Nat
  sc : Nat
  kr : Bool
  kc : Bool

/-- The syndromes of a block's data `d` and stored code `c` (R271). -/
def syndromes (d : Nat) (c : BitVec 80) : Syndromes where
  sr := fld c 64 8 ^^^ rowParity d
  sc := fld c 0 64 ^^^ colParity d
  kr := bit c 72 != parityOf (fld c 64 8) 8
  kc := bit c 72 != parityOf (fld c 0 64) 64

/-- What a read of the data `d` does on its syndromes: the table of R271. -/
def Syndromes.act (s : Syndromes) (d : Nat) : BlockRead :=
  match oneBit s.sr, oneBit s.sc with
  | some i, some j => if !s.kr && !s.kc then .mend (d ^^^ (2 ^ (64 * i + j))) else .bad
  | some _, none => if s.sc = 0 ∧ s.kr ∧ !s.kc then .mend d else .bad
  | none, some _ => if s.sr = 0 ∧ !s.kr ∧ s.kc then .mend d else .bad
  | none, none =>
    if s.sr = 0 ∧ s.sc = 0 then (if !s.kr && !s.kc then .ok else if s.kr && s.kc then .mend d else .bad) else .bad

/-- The model's decode of a block whose state reads as valid goes by the syndromes alone. -/
theorem decodeBlock_eq_act {d : Nat} {c : BitVec 80} (h : codePoisoned c = false) : decodeBlock d c = (syndromes d c).act d := by
  rw [decodeBlock, h, if_neg Bool.false_ne_true]
  rfl

section
variable (d i j : Nat)

theorem Syndromes.act_zero : Syndromes.act ⟨0, 0, false, false⟩ d = .ok := by simp [act]

theorem Syndromes.act_data_bit : Syndromes.act ⟨2 ^ i, 2 ^ j, false, false⟩ d = .mend (d ^^^ 2 ^ (64 * i + j)) := by simp [act]

theorem Syndromes.act_row_bit : Syndromes.act ⟨2 ^ i, 0, true, false⟩ d = .mend d := by simp [act]

theorem Syndromes.act_col_bit : Syndromes.act ⟨0, 2 ^ j, false, true⟩ d = .mend d := by simp [act]

theorem Syndromes.act_corner : Syndromes.act ⟨0, 0, true, true⟩ d = .mend d := by simp [act]

end

/-- Syndromes outside the rows of the table are uncorrectable. -/
theorem Syndromes.act_of_unlisted {s : Syndromes} (d : Nat) (hzero : ¬ (s.sr = 0 ∧ s.sc = 0 ∧ s.kr = s.kc))
    (hdata : ¬ ∃ i j, s.sr = 2 ^ i ∧ s.sc = 2 ^ j ∧ s.kr = false ∧ s.kc = false)
    (hrow : ¬ ∃ i, s.sr = 2 ^ i ∧ s.sc = 0 ∧ s.kr = true ∧ s.kc = false)
    (hcol : ¬ ∃ j, s.sr = 0 ∧ s.sc = 2 ^ j ∧ s.kr = false ∧ s.kc = true) : s.act d = .bad := by
  cases hsr : oneBit s.sr with
  | some i =>
    have hi := oneBit_eq_some_iff.mp hsr
    cases hsc : oneBit s.sc with
    | some j =>
      have hno : ¬ (!s.kr && !s.kc) = true := fun hk => hdata ⟨i, j, hi, oneBit_eq_some_iff.mp hsc, by simpa using hk⟩
      simp only [act, hsr, hsc, if_neg hno]
    | none =>
      have hno : ¬ (s.sc = 0 ∧ s.kr ∧ !s.kc) := fun hk => hrow ⟨i, hi, by simpa using hk⟩
      simp only [act, hsr, hsc, if_neg hno]
  | none =>
    cases hsc : oneBit s.sc with
    | some j =>
      have hno : ¬ (s.sr = 0 ∧ !s.kr ∧ s.kc) := fun ⟨h0, hk⟩ => hcol ⟨j, h0, oneBit_eq_some_iff.mp hsc, by simpa using hk⟩
      simp only [act, hsr, hsc, if_neg hno]
    | none =>
      by_cases h0 : s.sr = 0 ∧ s.sc = 0
      · have hk : s.kr ≠ s.kc := fun hk => hzero ⟨h0.1, h0.2, hk⟩
        have hnone : ¬ (!s.kr && !s.kc) = true := fun h => by
          obtain ⟨hr, hc⟩ : s.kr = false ∧ s.kc = false := by simpa using h
          exact hk (hr.trans hc.symm)
        have hboth : ¬ (s.kr && s.kc) = true := fun h => by
          obtain ⟨hr, hc⟩ : s.kr = true ∧ s.kc = true := by simpa using h
          exact hk (hr.trans hc.symm)
        simp only [act, hsr, hsc, if_pos h0, if_neg hnone, if_neg hboth]
      · simp only [act, hsr, hsc, if_neg h0]

/-! ### The syndromes of an error -/

/-- Two sets of syndromes, added bit by bit. -/
def Syndromes.add (s t : Syndromes) : Syndromes := ⟨s.sr ^^^ t.sr, s.sc ^^^ t.sc, s.kr ^^ t.kr, s.kc ^^ t.kc⟩

/-- An error adds its own syndromes. -/
theorem syndromes_xor (d e : Nat) (c f : BitVec 80) : syndromes (d ^^^ e) (c ^^^ f) = (syndromes d c).add (syndromes e f) := by
  ext1
  · simp only [syndromes, Syndromes.add, fld_xor, rowParity_xor, nat_xor_xor_xor_comm]
  · simp only [syndromes, Syndromes.add, fld_xor, colParity_xor, nat_xor_xor_xor_comm]
  · simp only [syndromes, Syndromes.add, fld_xor, bit_xor, parityOf_xor, bne_bool_eq_xor, bool_xor_xor_xor_comm]
  · simp only [syndromes, Syndromes.add, fld_xor, bit_xor, parityOf_xor, bne_bool_eq_xor, bool_xor_xor_xor_comm]

/-- The syndromes of a fresh code are zero. -/
theorem syndromes_codeFor (d : Nat) : syndromes d (codeFor d) = ⟨0, 0, false, false⟩ := by
  rw [syndromes, fld_codeFor_row, fld_codeFor_col, bit_codeFor_corner, ← parityOf_rowParity, Nat.xor_self, Nat.xor_self,
    bne_self_eq_false]

theorem Syndromes.zero_add (s : Syndromes) : Syndromes.add ⟨0, 0, false, false⟩ s = s := by
  ext1 <;> simp [add]

/-- What inverting the covered bit `k` changes in the data: bits 0 to 511 are the data, bits 512 to 584 the parity bits. -/
def flipData (k : Nat) : Nat := if k < 512 then 2 ^ k else 0

/-- What inverting the covered bit `k` changes in the stored code. -/
def flipCode (k : Nat) : BitVec 80 := if k < 512 then 0#80 else BitVec.ofNat 80 (2 ^ (k - 512))

/-- The syndromes of the covered bit `k`: its row and column, where `kc` stands for the row of the parity bits and `kr` for their
column. -/
def flipSyndromes (k : Nat) : Syndromes :=
  if k < 512 then ⟨2 ^ (k / 64), 2 ^ (k % 64), false, false⟩
  else if k < 576 then ⟨0, 2 ^ (k - 512), false, true⟩
  else if k < 584 then ⟨2 ^ (k - 576), 0, true, false⟩
  else ⟨0, 0, true, true⟩

/-- A covered bit is a data bit, a column parity bit, a row parity bit or the corner. -/
theorem flipSyndromes_cases {k : Nat} (h : k < 585) :
    (k < 512 ∧ flipSyndromes k = ⟨2 ^ (k / 64), 2 ^ (k % 64), false, false⟩) ∨
    (512 ≤ k ∧ k < 576 ∧ flipSyndromes k = ⟨0, 2 ^ (k - 512), false, true⟩) ∨
    (576 ≤ k ∧ k < 584 ∧ flipSyndromes k = ⟨2 ^ (k - 576), 0, true, false⟩) ∨
    (k = 584 ∧ flipSyndromes k = ⟨0, 0, true, true⟩) := by
  rw [flipSyndromes]
  by_cases hdata : k < 512
  · exact .inl ⟨hdata, if_pos hdata⟩
  rw [if_neg hdata]
  by_cases hcol : k < 576
  · exact .inr (.inl ⟨by omega, hcol, if_pos hcol⟩)
  rw [if_neg hcol]
  by_cases hrow : k < 584
  · exact .inr (.inr (.inl ⟨by omega, hrow, if_pos hrow⟩))
  · exact .inr (.inr (.inr ⟨by omega, if_neg hrow⟩))

theorem toNat_flipCode {k : Nat} (hlo : 512 ≤ k) (h : k < 585) : (flipCode k).toNat = 2 ^ (k - 512) := by
  have hlt : 2 ^ (k - 512) < 2 ^ 80 := Nat.pow_lt_pow_right (by decide) (by omega)
  rw [flipCode, if_neg (by omega), BitVec.toNat_ofNat, Nat.mod_eq_of_lt hlt]

theorem fld_flipCode {k : Nat} (hlo : 512 ≤ k) (h : k < 585) (lo len : Nat) :
    fld (flipCode k) lo len = if lo ≤ k - 512 ∧ k - 512 < lo + len then 2 ^ (k - 512 - lo) else 0 := by
  rw [fld, toNat_flipCode hlo h, nfld_two_pow]

theorem bit_flipCode {k : Nat} (hlo : 512 ≤ k) (h : k < 585) (i : Nat) : bit (flipCode k) i = decide (k - 512 = i) := by
  rw [bit, toNat_flipCode hlo h, Nat.testBit_two_pow]

theorem flipCode_of_data {k : Nat} (h : k < 512) : flipCode k = 0#80 := if_pos h

theorem flipData_of_data {k : Nat} (h : k < 512) : flipData k = 2 ^ k := if_pos h

theorem flipData_of_code {k : Nat} (h : 512 ≤ k) : flipData k = 0 := if_neg (by omega)

/-- The model's parities give each covered bit its syndromes. -/
theorem syndromes_flip {k : Nat} (h : k < 585) : syndromes (flipData k) (flipCode k) = flipSyndromes k := by
  obtain ⟨hk, hs⟩ | ⟨hlo, hk, hs⟩ | ⟨hlo, hk, hs⟩ | ⟨rfl, hs⟩ := flipSyndromes_cases h <;> rw [hs]
  · simp [syndromes, flipCode_of_data hk, flipData_of_data hk, rowParity_two_pow hk, colParity_two_pow hk]
  · have hcol : fld (flipCode k) 0 64 = 2 ^ (k - 512) := by rw [fld_flipCode hlo h, if_pos (by omega), Nat.sub_zero]
    have hrow : fld (flipCode k) 64 8 = 0 := by rw [fld_flipCode hlo h, if_neg (by omega)]
    have hcorner : bit (flipCode k) 72 = false := by rw [bit_flipCode hlo h, decide_eq_false (by omega)]
    have hpar : parityOf (2 ^ (k - 512)) 64 = true := by rw [parityOf_two_pow, decide_eq_true (by omega)]
    simp [syndromes, flipData_of_code hlo, hcol, hrow, hcorner, hpar]
  · have hdata : 512 ≤ k := by omega
    have hcol : fld (flipCode k) 0 64 = 0 := by rw [fld_flipCode hdata h, if_neg (by omega)]
    have hrow : fld (flipCode k) 64 8 = 2 ^ (k - 576) := by
      rw [fld_flipCode hdata h, if_pos (by omega), show k - 512 - 64 = k - 576 by omega]
    have hcorner : bit (flipCode k) 72 = false := by rw [bit_flipCode hdata h, decide_eq_false (by omega)]
    have hpar : parityOf (2 ^ (k - 576)) 8 = true := by rw [parityOf_two_pow, decide_eq_true (by omega)]
    simp [syndromes, flipData_of_code hdata, hcol, hrow, hcorner, hpar]
  · have hdata : 512 ≤ 584 := by decide
    simp [syndromes, flipData_of_code, fld_flipCode hdata h, bit_flipCode hdata h]

/-- No covered bit lies in the state field. -/
theorem fld_flipCode_state {k : Nat} (h : k < 585) : fld (flipCode k) 73 7 = 0 := by
  by_cases hk : k < 512
  · rw [flipCode_of_data hk, fld_zero]
  · rw [fld_flipCode (by omega) h, if_neg (by omega)]

theorem codePoisoned_xor_flipCode (c : BitVec 80) {k : Nat} (h : k < 585) : codePoisoned (c ^^^ flipCode k) = codePoisoned c := by
  rw [codePoisoned, codePoisoned, fld_xor, fld_flipCode_state h, Nat.xor_zero]

/-! ### One and two inverted bits -/

/-- The syndromes of one covered bit mend that bit. -/
theorem act_flipSyndromes {k : Nat} (h : k < 585) (d : Nat) : (flipSyndromes k).act d = .mend (d ^^^ flipData k) := by
  obtain ⟨hk, hs⟩ | ⟨hlo, -, hs⟩ | ⟨hlo, -, hs⟩ | ⟨rfl, hs⟩ := flipSyndromes_cases h <;> rw [hs]
  · rw [Syndromes.act_data_bit, Nat.div_add_mod, flipData_of_data hk]
  · rw [Syndromes.act_col_bit, flipData_of_code hlo, Nat.xor_zero]
  · rw [Syndromes.act_row_bit, flipData_of_code (by omega), Nat.xor_zero]
  · rw [Syndromes.act_corner, flipData_of_code (by decide), Nat.xor_zero]

/-- The covered bit that a listed row of the table names. -/
def Syndromes.place (s : Syndromes) : Nat :=
  match s.kr, s.kc with
  | false, false => 64 * s.sr.log2 + s.sc.log2
  | false, true => 512 + s.sc.log2
  | true, false => 576 + s.sr.log2
  | true, true => 584

theorem place_flipSyndromes {k : Nat} (h : k < 585) : (flipSyndromes k).place = k := by
  obtain ⟨hk, hs⟩ | ⟨hlo, -, hs⟩ | ⟨hlo, -, hs⟩ | ⟨rfl, hs⟩ := flipSyndromes_cases h <;> rw [hs] <;>
    simp only [Syndromes.place, Nat.log2_two_pow]
  · exact Nat.div_add_mod k 64
  · omega
  · omega

/-- Two different covered bits do not cancel: each has its own place. -/
theorem add_flipSyndromes_ne_zero {x y : Nat} (hx : x < 585) (hy : y < 585) (hne : x ≠ y) :
    (flipSyndromes x).add (flipSyndromes y) ≠ ⟨0, 0, false, false⟩ := by
  intro h
  have heq : flipSyndromes x = flipSyndromes y := by
    simp only [Syndromes.add, Syndromes.mk.injEq, bne_eq_false_iff_eq] at h
    obtain ⟨hsr, hsc, hkr, hkc⟩ := h
    exact Syndromes.ext (eq_of_nat_xor_eq_zero hsr) (eq_of_nat_xor_eq_zero hsc) hkr hkc
  exact hne ((place_flipSyndromes hx).symm.trans ((congrArg Syndromes.place heq).trans (place_flipSyndromes hy)))

theorem sr_flipSyndromes_lt {k : Nat} (h : k < 585) : (flipSyndromes k).sr < 2 ^ 8 := by
  obtain ⟨hk, hs⟩ | ⟨-, -, hs⟩ | ⟨hlo, hk, hs⟩ | ⟨-, hs⟩ := flipSyndromes_cases h <;> rw [hs]
  · exact Nat.pow_lt_pow_right (by decide) (by omega)
  · exact Nat.two_pow_pos 8
  · exact Nat.pow_lt_pow_right (by decide) (by omega)
  · exact Nat.two_pow_pos 8

/-- One covered bit marks an odd number of the nine rows. -/
theorem parityOf_sr_flipSyndromes {k : Nat} (h : k < 585) : parityOf (flipSyndromes k).sr 8 = !(flipSyndromes k).kc := by
  obtain ⟨hk, hs⟩ | ⟨-, -, hs⟩ | ⟨hlo, hk, hs⟩ | ⟨-, hs⟩ := flipSyndromes_cases h <;> rw [hs]
  · exact (parityOf_two_pow _ 8).trans (decide_eq_true (by omega))
  · exact parityOf_zero 8
  · exact (parityOf_two_pow _ 8).trans (decide_eq_true (by omega))
  · exact parityOf_zero 8

/-- Two covered bits mark an even number of the nine rows. -/
theorem parityOf_sr_add_flipSyndromes {x y : Nat} (hx : x < 585) (hy : y < 585) :
    parityOf ((flipSyndromes x).add (flipSyndromes y)).sr 8 = ((flipSyndromes x).add (flipSyndromes y)).kc := by
  simp only [Syndromes.add, parityOf_xor, parityOf_sr_flipSyndromes hx, parityOf_sr_flipSyndromes hy]
  cases (flipSyndromes x).kc <;> cases (flipSyndromes y).kc <;> rfl

/-- Syndromes that mark an even number of the nine rows, not all zero, are uncorrectable: every row of the table that mends marks
one. -/
theorem Syndromes.act_of_even {s : Syndromes} (d : Nat) (hne : s ≠ ⟨0, 0, false, false⟩) (hlt : s.sr < 2 ^ 8)
    (heven : parityOf s.sr 8 = s.kc) : s.act d = .bad := by
  have hrows : ∀ i, s.sr = 2 ^ i → s.kc = true := fun i hi => by
    rw [hi] at hlt
    rw [← heven, hi, parityOf_two_pow, decide_eq_true ((Nat.pow_lt_pow_iff_right (by decide)).mp hlt)]
  have hnone : s.sr = 0 → s.kc = false := fun h0 => by rw [← heven, h0, parityOf_zero]
  refine act_of_unlisted d ?_ ?_ ?_ ?_
  · rintro ⟨hr, hc, hk⟩
    exact hne (Syndromes.ext hr hc (hk.trans (hnone hr)) (hnone hr))
  · rintro ⟨i, j, hi, -, -, hkc⟩
    exact Bool.false_ne_true (hkc.symm.trans (hrows i hi))
  · rintro ⟨i, hi, -, -, hkc⟩
    exact Bool.false_ne_true (hkc.symm.trans (hrows i hi))
  · rintro ⟨j, h0, -, -, hkc⟩
    exact Bool.false_ne_true ((hnone h0).symm.trans hkc)

/-- A block whose fresh code and data have one covered bit inverted is mended to its data. -/
theorem decodeBlock_flip (d : Nat) {x : Nat} (hx : x < 585) :
    decodeBlock (d ^^^ flipData x) (codeFor d ^^^ flipCode x) = .mend d := by
  have hvalid : codePoisoned (codeFor d ^^^ flipCode x) = false := by rw [codePoisoned_xor_flipCode _ hx, codePoisoned_codeFor]
  rw [decodeBlock_eq_act hvalid, syndromes_xor, syndromes_codeFor, Syndromes.zero_add, syndromes_flip hx, act_flipSyndromes hx,
    Nat.xor_assoc, Nat.xor_self, Nat.xor_zero]

/-- A block with two different covered bits inverted is uncorrectable. -/
theorem decodeBlock_flip_flip (d : Nat) {x y : Nat} (hx : x < 585) (hy : y < 585) (hne : x ≠ y) :
    decodeBlock (d ^^^ flipData x ^^^ flipData y) (codeFor d ^^^ flipCode x ^^^ flipCode y) = .bad := by
  have hvalid : codePoisoned (codeFor d ^^^ flipCode x ^^^ flipCode y) = false := by
    rw [codePoisoned_xor_flipCode _ hy, codePoisoned_xor_flipCode _ hx, codePoisoned_codeFor]
  rw [decodeBlock_eq_act hvalid, syndromes_xor, syndromes_xor, syndromes_codeFor, Syndromes.zero_add, syndromes_flip hx,
    syndromes_flip hy]
  exact Syndromes.act_of_even _ (add_flipSyndromes_ne_zero hx hy hne)
    (Nat.xor_lt_two_pow (sr_flipSyndromes_lt hx) (sr_flipSyndromes_lt hy)) (parityOf_sr_add_flipSyndromes hx hy)

/-- Settles O9: the table of R271 row by row over the syndromes; then one inverted bit has the syndromes of its place, and two mark
an even number of rows. -/
theorem secdedMendsOneErrorAndDetectsTwo : Obligations.SecdedMendsOneErrorAndDetectsTwo := by
  unfold Obligations.SecdedMendsOneErrorAndDetectsTwo
  constructor
  · intro d c i j sr sc kr kc hvalid hsr hsc hkr hkc
    have hact : decodeBlock d c = Syndromes.act ⟨sr, sc, kr, kc⟩ d := by
      rw [decodeBlock_eq_act hvalid, syndromes, ← hsr, ← hsc, ← hkr, ← hkc]
    rw [hact]
    clear hact hsr hsc hkr hkc
    refine ⟨?_, ?_, ?_, ?_, ?_, ?_⟩
    · rintro rfl rfl rfl rfl
      exact Syndromes.act_zero d
    · rintro - - rfl rfl rfl rfl
      exact Syndromes.act_data_bit d i j
    · rintro rfl rfl rfl rfl
      exact Syndromes.act_row_bit d i
    · rintro rfl rfl rfl rfl
      exact Syndromes.act_col_bit d j
    · rintro rfl rfl rfl rfl
      exact Syndromes.act_corner d
    · exact Syndromes.act_of_unlisted (s := ⟨sr, sc, kr, kc⟩) d
  · intro d x y flip hflip _ hx hy hne
    have hflip' : ∀ k p, flip k p = (p.1 ^^^ flipData k, p.2 ^^^ flipCode k) := fun k p => by
      rw [hflip, flipData, flipCode]
      split <;> simp
    simp only [hflip']
    exact ⟨decodeBlock_codeFor d, decodeBlock_flip d hx, decodeBlock_flip_flip d hx hy hne⟩

end Sys2Proof.Machine
end

section
/-!
The link layer (R288, R289, R292, R293): a packet on a link by the fate it meets there, and what the work of the link layers leaves alone.
-/
namespace Sys2Proof.Machine

/-! ### What the link layers leave alone -/

/-- `t` differs from `s` in the clock, the fabric and the clusters alone: all that the link layers' work changes. -/
def State.LinkWork (s t : State) : Prop := t = { s with time := t.time, fabric := t.fabric, clusters := t.clusters }

namespace State.LinkWork
variable {s t u : State}

theorem refl (s : State) : s.LinkWork s := rfl

theorem trans (h : s.LinkWork t) (g : t.LinkWork u) : s.LinkWork u := by
  unfold LinkWork at *
  rw [h] at g
  exact g

theorem of_foldl {α : Type} {f : State → α → State} (hf : ∀ t x, State.LinkWork t (f t x)) (xs : List α) (s : State) :
    s.LinkWork (xs.foldl f s) :=
  List.foldlRecOn (motive := s.LinkWork) xs f (.refl s) fun t ht x _ => ht.trans (hf t x)

theorem mem_eq (h : s.LinkWork t) : t.mem = s.mem := by rw [h]
theorem linkFrame_eq (h : s.LinkWork t) : s.linkFrame t = t := by rw [h]; rfl
theorem packetFrame_eq (h : s.LinkWork t) : s.packetFrame t = t := by rw [h]; rfl
theorem settle_eq (h : s.LinkWork t) (hp : s.mem.newPoison = []) : t.settle = t :=
  State.settle_of_nil (by rw [h.mem_eq]; exact hp)

end State.LinkWork

section Work
variable (s : State)

theorem State.linkWork_onLink (l : Nat) (f : Link → Link) : s.LinkWork (s.onLink l f) := rfl

theorem State.linkWork_runTo (t : Nat) : s.LinkWork (s.runTo t) := by
  obtain ⟨x, c, h⟩ := s.runTo_shape t
  rw [h]
  rfl

theorem State.linkWork_runToNow (t : Nat) : s.LinkWork (s.runToNow t) := by
  obtain ⟨x, c, h⟩ := s.runToNow_shape t
  rw [h]
  rfl

theorem State.linkWork_sendOn (port h : Nat) (p : Packet) (cmd : Option (Nat × Addr × BitVec 32)) :
    s.LinkWork (s.sendOn port h p cmd) := by
  unfold State.sendOn
  dsimp only
  split
  · split <;> rfl
  · rfl

/-- Waiting packets that leave, and the commands that end with them, are the links' and the clusters' (R68, R311). -/
theorem State.linkWork_release : s.LinkWork s.release :=
  (State.LinkWork.of_foldl (fun t (w : WaitPkt) => t.linkWork_sendOn w.port w.hub w.pkt w.cmd)
    (s.fabric.waiting.foldl (fun l w => insertWait w l) []) { s with fabric := { s.fabric with waiting := [] } }).trans rfl

theorem State.linkWork_acked (l : Nat) (ack : BitVec 12) : s.LinkWork (s.acked l ack) := rfl

theorem State.linkWork_ackLink (l : Nat) (ack : BitVec 12) : s.LinkWork (s.ackLink l ack) :=
  (s.linkWork_acked l ack).trans (State.linkWork_release _)

theorem State.linkWork_resend (port : Nat) (p : Packet) : s.LinkWork (s.resend port p) := by
  unfold State.resend
  split <;> rfl

theorem linkWork_acked_arrival (a : Arrival) : s.LinkWork (Sys2Proof.acked s a) :=
  (s.linkWork_onLink _ _).trans (State.linkWork_ackLink _ _ _)

end Work

/-- A granted request is no poisoned block, so that hearing a packet leaves nothing to settle. -/
theorem heard_newPoison (s : State) (a : Arrival) : (heard s a).mem.newPoison = s.mem.newPoison := by
  have hmem : ((Sys2Proof.acked s a).onLink a.link (fun k => { k with rxSeq := a.pkt.seq })).mem = s.mem :=
    (linkWork_acked_arrival s a).mem_eq
  unfold heard State.portGranted
  split
  · rw [State.onMem_mem, hmem]; rfl
  · rw [hmem]

theorem packetFrame_heard (s : State) (a : Arrival) : s.packetFrame (heard s a) = heard s a := by
  have hwork : s.LinkWork ((Sys2Proof.acked s a).onLink a.link (fun k => { k with rxSeq := a.pkt.seq })) :=
    (linkWork_acked_arrival s a).trans rfl
  unfold heard State.portGranted
  split
  · rw [hwork]; rfl
  · exact hwork.packetFrame_eq

/-! ### A packet that is not handed on -/

section Arrive
variable {s v : State} {a : Arrival}

/-- A packet whose check fails, or of an uncorrectable codeword, is counted and replayed (R288). -/
theorem arrive_bad (f : State → State) (hup : (s.link a.link).up = true) (hbad : a.crcOk = false ∨ a.bad ≠ 0)
    (hv : v = s.onLink a.link (fun k => { k with
      fecCorrected := satAdd k.fecCorrected a.fixed, fecUncorrectable := satAdd k.fecUncorrectable a.bad })) :
    s.arrive a f = v.replayed a.link := by
  have hfail : (!a.crcOk || a.bad != 0) = true := by rcases hbad with h | h <;> simp [h]
  exact (if_neg (by simp [hup])).trans ((if_pos hfail).trans (congrArg (State.replayed · _) hv.symm))

/-- A packet that is not the next in order only acknowledges (R288). -/
theorem arrive_out_of_order (f : State → State) (hup : (s.link a.link).up = true) (hcrc : a.crcOk = true) (hbad : a.bad = 0)
    (hseq : a.pkt.seq ≠ ((Sys2Proof.acked s a).link a.link).rxSeq + 1) : s.arrive a f = Sys2Proof.acked s a :=
  (if_neg (by simp [hup])).trans ((if_neg (by simp [hcrc, hbad])).trans (if_pos hseq))

end Arrive

/-- The rows that receive their packet and do no more: all but READ_REQ, which may be refused (R478), and SIGNAL, which needs room (R208). -/
def receiveRows (a : Arrival) : List (Instr × Nat) :=
  [(.write a, 0), (.readRsp a, 2), (.contrib a, 4), (.contribTopk a, 5), (.fragment a, 6), (.result a, 7), (.twin a, 8), (.credit a, 10)]

theorem exec_receiveRow {a : Arrival} {i : Instr} {k : Nat} (hi : (i, k) ∈ receiveRows a) (s : State) :
    ∃ f, exec i s = packetRow k a (fun s => s.receive a f) s := by
  simp only [receiveRows, List.mem_cons, Prod.mk.injEq, List.not_mem_nil, or_false] at hi
  rcases hi with ⟨rfl, rfl⟩ | ⟨rfl, rfl⟩ | ⟨rfl, rfl⟩ | ⟨rfl, rfl⟩ | ⟨rfl, rfl⟩ | ⟨rfl, rfl⟩ | ⟨rfl, rfl⟩ | ⟨rfl, rfl⟩ <;>
    exact ⟨_, rfl⟩

/-- The rows whose packet goes to the link layer whatever it carries: all of a job's packets but SIGNAL, and CREDIT (R314). -/
def linkRows (a : Arrival) : List (Instr × Nat) :=
  [(.write a, 0), (.readReq a, 1), (.readRsp a, 2), (.contrib a, 4), (.contribTopk a, 5), (.fragment a, 6), (.result a, 7), (.twin a, 8),
    (.credit a, 10)]

theorem linkRows_subset (a : Arrival) : linkRows a ⊆ (.readReq a, 1) :: receiveRows a := by
  simp only [linkRows, receiveRows, List.cons_subset, List.nil_subset, List.mem_cons, true_or, or_true, and_self]

/-- The row of a packet goes to the link layer unless the commit of its beat is still due (R319). -/
theorem exec_arrives {s : State} {a : Arrival} {i : Instr} {k : Nat} (hi : (i, k) ∈ linkRows a) (hw : a.pkt.wf k = true)
    (hdue : s.commitDue = false) : ∃ f, exec i s = .next (s.packetFrame (s.arrive a f).settle) := by
  rcases List.mem_cons.mp (linkRows_subset a hi) with hreq | hrow
  · obtain ⟨rfl, rfl⟩ := Prod.mk.inj hreq
    exact ⟨_, packetRow_of_wf hw (if_neg (by simp [hdue]))⟩
  · obtain ⟨f, hf⟩ := exec_receiveRow hrow s
    exact ⟨_, hf.trans (packetRow_of_wf hw (receive_arrive f (.inr hdue)))⟩

/-! ### Replays -/

section Replayed
variable {l : Nat} {s : State} (h : Rising s.fabric.links)
include h

theorem replayed_replays : ((s.replayed l).link l).replays = satAdd (s.link l).replays 1 := by
  unfold State.replayed
  rw [State.link_onLink_self l _ h]
  dsimp only
  split <;> rfl

/-- The sixteenth replay within 1 ms takes the link down, and no earlier one does (R289). -/
theorem replayed_up (hup : (s.link l).up = true) : ((s.replayed l).link l).up =
    decide (((s.link l).replayAt.filter (fun t => decide (s.time.ticks < t + 1000000 * nsT))).length < 15) := by
  unfold State.replayed
  rw [State.link_onLink_self l _ h]
  simp only [List.length_append, List.length_singleton]
  split
  · next hfull => exact (decide_eq_false (by omega)).symm
  · next hroom => rw [hup, decide_eq_true (by omega)]

end Replayed

/-- Settles O41, by what the link layer finds: the link down, a failed check, a packet out of order, a CREDIT packet. -/
theorem linkLayerChecksEveryPacket : Obligations.LinkLayerChecksEveryPacket := by
  unfold Obligations.LinkLayerChecksEveryPacket
  refine ⟨fun a s v i k hi hw hdue hpoison hv => ?_, fun l s hr => ⟨replayed_replays hr, fun hup => ⟨fun hfull => ?_, fun hroom => ?_⟩⟩⟩
  · obtain ⟨f, hexec⟩ := exec_arrives hi hw hdue
    have hwork : ∀ {t}, s.LinkWork t → s.arrive a f = t → exec i s = .next t := fun ht harr => by
      rw [hexec, harr, ht.settle_eq hpoison, ht.packetFrame_eq]
    refine ⟨fun hdown => hwork (.refl s) (arrive_down f hdown), fun hup hbad => hwork ?_ (arrive_bad f hup hbad hv),
      fun hup hcrc hbad hseq => hwork (linkWork_acked_arrival s a) (arrive_out_of_order f hup hcrc hbad hseq), fun hacc hk => ?_⟩
    · rw [hv]
      rfl
    · subst hk
      rw [hexec, arrive_accepted f hacc, if_pos (kind_eq_of_wf (n := 10) hw (by decide)),
        State.settle_of_nil ((heard_newPoison s a).trans hpoison), packetFrame_heard]
  · rw [replayed_up hr hup]
    exact decide_eq_false (by omega)
  · rw [replayed_up hr hup]
    exact decide_eq_true hroom

end Sys2Proof.Machine
end

section
/-!
The checks of an accepted packet of a job (R310, R317, R318): the first check that it fails, by name, and what its hub does with it.
-/
namespace Sys2Proof.Machine

/-! ### What the hub does with a packet -/

section Deliver
variable {v : State} {l : Nat} {p : Packet} (f : State → State)

theorem deliver_dropped {d : Drop} (h : v.linkDrop l p = some d) : v.deliver l p f = v.drop (l / 5) d := by
  simp only [State.deliver, h]

variable (hkept : v.linkDrop l p = none)
include hkept

theorem deliver_no_hop (h : v.nextHop (l / 5) (some (v.plan.portOf l)) p = .none) : v.deliver l p f = v.drop (l / 5) .other := by
  simp only [State.deliver, hkept, h]

theorem deliver_onward {port : Nat} {q : Packet} (h : v.nextHop (l / 5) (some (v.plan.portOf l)) p = .go port q) :
    v.deliver l p f = if v.plan.usedPort q.job.toNat port then v.sendOn port (l / 5) q else v.drop (l / 5) .other := by
  simp only [State.deliver, hkept, h]

theorem deliver_unlanded (hk : p.kind ≠ 9) (h : v.nextHop (l / 5) (some (v.plan.portOf l)) p = .land) (hland : v.landOk p = false) :
    v.deliver l p f = v.drop (l / 5) .land := by
  simp only [State.deliver, hkept, h, if_neg hk, hland, Bool.false_eq_true, if_false]

end Deliver

/-! ### The first check that fails (R317, R319) -/

section LinkDrop
variable {v : State} {l : Nat} {p : Packet}

theorem linkDrop_of_malformed (h : 11 ≤ p.kind.toNat ∨ 8 < p.len.toNat ∨ (p.kind = 9 ∧ p.job ≠ 0)) : v.linkDrop l p = some .other := by
  unfold State.linkDrop
  exact if_pos (by simpa [or_assoc] using h)

/-- A packet of a kind below SYSTEM and of a legal length is checked against its job. -/
theorem linkDrop_of_job_kind (hk : p.kind.toNat < 9) (hlen : p.len.toNat ≤ 8) : v.linkDrop l p =
    if !jValid (v.jobEntry p.job.toNat) then some .job
    else if v.noticeReset p.job.toNat && v.plan.member p.job.toNat p.srcPkg.toNat && p.dstPkg.toNat == v.ownId then some .land
    else if !v.epochOk p then some .epoch
    else if !v.plan.usedPort p.job.toNat (v.plan.portOf l) || !v.plan.member p.job.toNat p.srcPkg.toNat ||
      !v.plan.member p.job.toNat p.dstPkg.toNat then some .member
    else none := by
  have h9 : p.kind ≠ 9 := fun e => by rw [e] at hk; exact absurd hk (by decide)
  have h11 : ¬ 11 ≤ p.kind.toNat := by omega
  unfold State.linkDrop
  exact (if_neg (by simpa [h11, hlen] using fun e => absurd e h9)).trans (if_neg h9)

variable (hk : p.kind.toNat < 9) (hlen : p.len.toNat ≤ 8)
include hk hlen

theorem linkDrop_of_no_job (hj : jValid (v.jobEntry p.job.toNat) = false) : v.linkDrop l p = some .job := by
  rw [linkDrop_of_job_kind hk hlen, hj]
  rfl

variable (hj : jValid (v.jobEntry p.job.toNat) = true)
include hj

theorem linkDrop_of_undeliverable (hreset : v.noticeReset p.job.toNat = true) (hsrc : v.plan.member p.job.toNat p.srcPkg.toNat = true)
    (hdst : p.dstPkg.toNat = v.ownId) : v.linkDrop l p = some .land := by
  simp [linkDrop_of_job_kind hk hlen, hj, hreset, hsrc, hdst]

variable (hreset : v.noticeReset p.job.toNat = false)
include hreset

theorem linkDrop_of_epoch (hepoch : v.epochOk p = false) : v.linkDrop l p = some .epoch := by
  simp [linkDrop_of_job_kind hk hlen, hj, hreset, hepoch]

theorem linkDrop_of_no_member (hepoch : v.epochOk p = true)
    (hmember : v.plan.usedPort p.job.toNat (v.plan.portOf l) = false ∨ v.plan.member p.job.toNat p.srcPkg.toNat = false ∨
      v.plan.member p.job.toNat p.dstPkg.toNat = false) : v.linkDrop l p = some .member := by
  have hfail : (!v.plan.usedPort p.job.toNat (v.plan.portOf l) || !v.plan.member p.job.toNat p.srcPkg.toNat ||
      !v.plan.member p.job.toNat p.dstPkg.toNat) = true := by
    rcases hmember with h | h | h <;> simp [h]
  rw [linkDrop_of_job_kind hk hlen, hj, hreset, hepoch, hfail]
  rfl

end LinkDrop

/-! ### The rows -/

/-- The rows of a job's packets: kinds 0 to 8, and the kinds that the row WRITE carries to be dropped (R314). -/
def jobPacketRows (a : Arrival) : List (Instr × Nat) :=
  [(.write a, 0), (.readReq a, 1), (.readRsp a, 2), (.remoteSignal a, 3), (.contrib a, 4), (.contribTopk a, 5), (.fragment a, 6),
    (.result a, 7), (.twin a, 8)]

theorem jobPacketRows_subset (a : Arrival) : jobPacketRows a ⊆ (.readReq a, 1) :: (.remoteSignal a, 3) :: receiveRows a := by
  simp only [jobPacketRows, receiveRows, List.cons_subset, List.nil_subset, List.mem_cons, true_or, or_true, and_self]

theorem kind_ne_credit_of_wf {p : Packet} {k : Nat} (h : p.wf k = true) (hk : k < 9) : p.kind ≠ 10 := by
  simp only [Packet.wf, Packet.kindOk, Bool.and_eq_true, Bool.or_eq_true, beq_iff_eq] at h
  obtain ⟨⟨hkind, -⟩, -⟩ := h
  rintro e
  rw [e] at hkind
  rcases hkind with hkind | ⟨-, hkind | ⟨hkind, -⟩⟩
  · exact absurd (hkind ▸ hk) (by decide)
  · exact absurd hkind (by decide)
  · exact absurd hkind (by decide)

/-- The hypotheses of a row under which its packet, once accepted, is the hub's to drop, to pass on or to land (R208, R319, R478). -/
structure Delivers (s : State) (a : Arrival) (i : Instr) (k : Nat) : Prop where
  row : (i, k) ∈ jobPacketRows a
  wf : a.pkt.wf k = true
  notDue : s.commitDue = false
  accepted : Accepted s a
  command : k = 1 → a.pkt.srcCluster ≠ 0x1FF
  room : k = 3 → s.signalsFull a.pkt = false

namespace Delivers
variable {s t : State} {a : Arrival} {i : Instr} {k : Nat} (h : Delivers s a i k)
include h

theorem lt_nine : k < 9 := by
  have hk : k ∈ (jobPacketRows a).map Prod.snd := List.mem_map_of_mem h.row
  simp only [jobPacketRows, List.map_cons, List.map_nil, List.mem_cons, List.not_mem_nil, or_false] at hk
  omega

/-- The row hands its packet to the link layer, and from there to the hub. -/
theorem exec_eq : ∃ f, exec i s = .next (s.packetFrame (s.arrive a (fun v => v.deliver a.link a.pkt f)).settle) := by
  have hrow : i = .readReq a ∧ k = 1 ∨ i = .remoteSignal a ∧ k = 3 ∨ (i, k) ∈ receiveRows a := by
    simpa only [List.mem_cons, Prod.mk.injEq] using jobPacketRows_subset a h.row
  rcases hrow with ⟨rfl, rfl⟩ | ⟨rfl, rfl⟩ | hrow
  · have hstep : readReqStep a s = s.arrive a (fun v => v.deliver a.link a.pkt (fun v => v.landReadReq a.pkt)) := by
      unfold readReqStep
      simp only [h.notDue, Bool.false_eq_true, if_false, refuseRead_of_command _ (h.command rfl)]
    exact ⟨_, show packetRow 1 a (readReqStep a) s = _ from packetRow_of_wf h.wf hstep⟩
  · have hstep : remoteSignalStep a s = s.receive a (fun v => v.landSignal a.pkt) := by simp [remoteSignalStep, h.room rfl]
    exact ⟨_, packetRow_of_wf h.wf (hstep.trans (receive_arrive _ (.inr h.notDue)))⟩
  · obtain ⟨f, hf⟩ := exec_receiveRow hrow s
    exact ⟨f, hf.trans (packetRow_of_wf h.wf (receive_arrive f (.inr h.notDue)))⟩

/-- What the hub does with the packet, whatever it would do at its destination, is what the row does; and it is acknowledged. -/
theorem packetDoes (ht : ∀ f, (heard s a).deliver a.link a.pkt f = t) : PacketDoes i a s t := by
  obtain ⟨f, hexec⟩ := h.exec_eq
  rw [PacketDoes, hexec, arrive_accepted _ h.accepted, if_neg (kind_ne_credit_of_wf h.wf h.lt_nine), ht]

theorem packetDoes_drop {d : Drop} (hd : (heard s a).linkDrop a.link a.pkt = some d) : PacketDoes i a s ((heard s a).drop (a.link / 5) d) :=
  h.packetDoes fun f => deliver_dropped f hd

end Delivers

/-- Settles O42, by the first check that the packet fails; past them all, by its next hop. -/
theorem packetsAreDroppedOrPassedOn : Obligations.PacketsAreDroppedOrPassedOn := by
  unfold Obligations.PacketsAreDroppedOrPassedOn
  rintro a s v i k h hi hw hdue hacc rfl rfl hcmd hroom
  have hd : Delivers s a i k := ⟨hi, hw, hdue, hacc, hcmd, hroom⟩
  refine ⟨fun hbad => hd.packetDoes_drop (linkDrop_of_malformed hbad), fun hk hlen =>
    ⟨fun hj => hd.packetDoes_drop (linkDrop_of_no_job hk hlen hj),
      fun hj hreset hsrc hdst => hd.packetDoes_drop (linkDrop_of_undeliverable hk hlen hj hreset hsrc hdst),
      fun hj hreset hepoch => hd.packetDoes_drop (linkDrop_of_epoch hk hlen hj hreset hepoch),
      fun hj hreset hepoch hmember => hd.packetDoes_drop (linkDrop_of_no_member hk hlen hj hreset hepoch hmember),
      fun hkept => ⟨fun hnone => ?_, fun port p hgo => ⟨fun hused => ?_, fun hunused => ?_⟩, fun hhere hland => ?_⟩⟩⟩
  · exact hd.packetDoes fun f => deliver_no_hop f hkept hnone
  · exact hd.packetDoes fun f => (deliver_onward f hkept hgo).trans (if_pos hused)
  · exact hd.packetDoes fun f => (deliver_onward f hkept hgo).trans (if_neg (Bool.eq_false_iff.mp hunused))
  · have hk9 : a.pkt.kind ≠ 9 := fun e => by rw [e] at hk; exact absurd hk (by decide)
    exact hd.packetDoes fun f => deliver_unlanded f hkept hk9 hhere hland

end Sys2Proof.Machine
end

section
/-!
Training, discovery and the loss of links (R289, R292, R293, R299 to R301): each row by the state of its link, written through the frame
of the link layers.
-/
namespace Sys2Proof.Machine

/-- A row of the link layers answers the link layers' work unchanged. -/
theorem next_linkFrame {s t u : State} (h : s.LinkWork u) (ht : t = u) : Host.Outcome.next (s.linkFrame t) =
    (.next u : Host.Outcome State Fault Refusal) := by
  rw [ht, h.linkFrame_eq]

/-- One link changed after the clock has run is the link layers' work. -/
theorem State.linkWork_runTo_onLink (s : State) (x l : Nat) (f : Link → Link) : s.LinkWork ((s.runTo x).onLink l f) :=
  (s.linkWork_runTo x).trans rfl

theorem State.onLink_congr {s : State} {l : Nat} {f g : Link → Link} (h : f (s.link l) = g (s.link l)) : s.onLink l f = s.onLink l g := by
  unfold State.onLink
  rw [h]

/-! ### Beacons (R299 to R301) -/

section Beacons
variable {s : State} {l : Nat} {b : Block}

theorem beaconSendStep_of_training (ht : (s.link l).training = true) (hp : s.linkPowered l = true) : beaconSendStep l s =
    (s.runTo (s.link l).beaconAt).onLink l (fun k => { k with
      beacons := (s.runTo (s.link l).beaconAt).beaconOf l :: k.beacons, beaconAt := k.beaconAt + 1000000 * nsT
      training := !(k.up && k.cls == 1) }) :=
  if_neg (by simp [ht, hp])

theorem beaconStep_of_disregarded {crcOk : Bool} (h : (s.linkPowered l && crcOk && bcLoaded b) = false) : beaconStep l b crcOk s = s :=
  if_pos (by rw [h]; rfl)

variable (hp : s.linkPowered l = true) (hb : bcLoaded b = true)
include hp hb

/-- A miswired link keeps its class until a beacon carries another plan (R300). -/
theorem beaconStep_of_same_plan (hc : (s.link l).cls = 2) (hplan : bcPlan b = (s.link l).peerPlan) :
    beaconStep l b true s = s.onLink l (fun k => k.hear b) :=
  (if_neg (by simp [hp, hb])).trans (if_pos ⟨hc, hplan⟩)

/-- A beacon on a link that is up and not miswired classifies it, and does not train it. -/
theorem beaconStep_of_up (hc : (s.link l).cls ≠ 2) (hup : (s.link l).up = true) :
    beaconStep l b true s = ((s.classify l b).onLink l Link.recheck).bringUp l b := by
  unfold beaconStep
  dsimp only
  rw [if_neg (by simp [hp, hb]), if_neg (fun x => hc x.1), if_neg (fun x => x.elim hc (fun y => by simp [hup] at y))]

end Beacons

/-- A rechecked link goes on only if both ends classify it MATCH (R301). -/
theorem Link.recheck_up (k : Link) : k.recheck.up = (k.up && (k.cls == 1 && k.peerClass == 1)) := by
  unfold Link.recheck
  cases hup : k.up <;> cases hmatch : k.cls == 1 && k.peerClass == 1 <;> simp [hup]

/-- A recheck keeps what the link knows of its neighbour, and its class. -/
theorem Link.recheck_eqs (k : Link) : k.recheck.heard = k.heard ∧ k.recheck.peerId = k.peerId ∧ k.recheck.peerSerial = k.peerSerial ∧
    k.recheck.peerPlan = k.peerPlan ∧ k.recheck.peerClass = k.peerClass ∧ k.recheck.cls = k.cls ∧ k.recheck.reason = k.reason := by
  unfold Link.recheck
  split <;> exact ⟨rfl, rfl, rfl, rfl, rfl, rfl, rfl⟩

/-- A used link that has heard a beacon before, as the next one classifies it: by the first check of R300 that it fails, `r`. -/
def Link.compared (k : Link) (b : Block) (r : BitVec 3) (cap : W64) : Link :=
  { k.hear b with cls := if r = 0 then 1 else 2, reason := r, cap := if k.up then cap else k.cap }

section InUse
variable {s : State} {l : Nat} {b : Block}

theorem classify_of_heard (hu : lUsed (s.plan.link l) = true) (hh : (s.link l).heard = true) :
    s.classify l b = s.onLink l (fun k => k.compared b (s.beaconReason l b) (s.agreedWith b)) := by
  unfold State.classify
  simp only [hu, hh, Bool.not_true, Bool.false_eq_true, if_false]
  refine State.onLink_congr ?_
  unfold Link.compared
  generalize s.beaconReason l b = r
  by_cases hr : r = 0
  · subst hr; rfl
  · simp only [if_neg hr, if_true]; rfl

/-- A beacon on a link in use classifies and rechecks that link, and brings none up. -/
theorem beaconStep_of_in_use (hr : Rising s.fabric.links) (hp : s.linkPowered l = true) (hb : bcLoaded b = true) (hc : (s.link l).cls ≠ 2)
    (hu : lUsed (s.plan.link l) = true) (hh : (s.link l).heard = true) (hup : (s.link l).up = true) :
    (beaconStep l b true s).link l = ((s.link l).compared b (s.beaconReason l b) (s.agreedWith b)).recheck ∧
    beaconStep l b true s = { s with fabric := (beaconStep l b true s).fabric } ∧
    ∀ m, m ≠ l → (beaconStep l b true s).link m = s.link m := by
  generalize hk : (s.link l).compared b (s.beaconReason l b) (s.agreedWith b) = k
  generalize hf : (fun k : Link => k.compared b (s.beaconReason l b) (s.agreedWith b)) = f
  have hfk : f (s.link l) = k := by rw [← hf, ← hk]
  have hkup : k.up = true := by rw [← hk]; exact hup
  have hlink : ((s.onLink l f).onLink l Link.recheck).link l = k.recheck := by
    rw [State.link_onLink_self l _ (rising_sset _ _ _ hr), State.link_onLink_self l _ hr, hfk]
  have hstep : beaconStep l b true s = (s.onLink l f).onLink l Link.recheck := by
    rw [beaconStep_of_up hp hb hc hup, classify_of_heard hu hh, hf]
    refine if_neg fun hdark => ?_
    rw [hlink] at hdark
    obtain ⟨hcls, hpeer, hdown⟩ := hdark
    obtain ⟨-, -, -, -, hpeer', hcls', -⟩ := k.recheck_eqs
    rw [k.recheck_up, hkup, ← hcls', ← hpeer', hcls, hpeer] at hdown
    exact absurd hdown (by decide)
  rw [hstep]
  refine ⟨hlink, rfl, fun m hm => ?_⟩
  rw [State.link_onLink_ne _ _ hm, State.link_onLink_ne _ _ hm]

end InUse

/-! ### Timeouts of training (R300, R301, R304) -/

section Training
variable {s : State} {l : Nat}

theorem trainingTimeoutStep_of_silent (ht : (s.link l).training = true) (hh : (s.link l).heard = false) (hu : lUsed (s.plan.link l) = true) :
    trainingTimeoutStep l s =
      (s.runTo ((s.link l).trainFrom + 50000000 * nsT)).onLink l (fun k => { k with training := false, cls := 3 }) :=
  if_pos (by simp [ht, hh, hu])

theorem absentRetrainStep_of_absent (ht : (s.link l).training = false) (hc : (s.link l).cls = 3) (hp : s.linkPowered l = true) :
    absentRetrainStep l s = (s.runTo ((s.link l).trainFrom + 100000000 * nsT)).trainLink l :=
  if_pos (by simp [ht, hc, hp])

end Training

/-! ### The loss of a link (R289, R292) -/

section Loss
variable {s v u : State} {l : Nat} {last : BitVec 12}

theorem linkDownStep_of_down (hup : (s.link l).up = false) (hlost : (s.link l).lost = false) : linkDownStep l last s = s :=
  if_pos (by simp [hup, hlost])

/-- The loss of a link on which no beacon has named a package cuts none off (R474). -/
theorem linkDownStep_of_unnamed (hup : (s.link l).up = true ∨ (s.link l).lost = true) (hn : (s.link l).named = false) :
    linkDownStep l last s = s.loseLink l last := by
  refine (if_neg ?_).trans (if_neg (by simp [hn]))
  rcases hup with h | h <;> simp [h]

/-- A lost link acknowledges, counts its loss, and trains again where it was a MATCH (R288, R301, R320). -/
def State.lostLink (s : State) (l : Nat) (last : BitVec 12) : State :=
  (s.acked l last).onLink l (fun k => { (if k.cls = 1 then k.train (s.acked l last).time.ticks else
    { k with up := false, lost := false, rejoining := false }) with downs := satAdd k.downs 1 })

theorem loseLink_of_last (hu : u = s.lostLink l last) (h : u.upLinks (s.plan.portOf l) = []) :
    s.loseLink l last = { u with reset_ := { u.reset_ with fcBeyond := satAdd u.reset_.fcBeyond 1 } } := by
  subst hu
  exact if_pos (List.isEmpty_iff.mpr h)

theorem loseLink_of_others (hu : u = s.lostLink l last) (h : u.upLinks (s.plan.portOf l) ≠ []) :
    s.loseLink l last = ((((s.acked l last).link l).replay.filter (fun p => p.kind != 10)).foldl (fun s p => s.resend (u.plan.portOf l) p)
      (({ u with reset_ := { u.reset_ with fcLinks := satAdd u.reset_.fcLinks 1 } } : State).onLink l
        (fun k => { k with replay := [] }))).release := by
  subst hu
  exact if_neg (fun hnil => h (List.isEmpty_iff.mp hnil))

/-- The loss of a link is the links' work and one fault counted (R464, R486). -/
theorem loseLink_linkWork (s : State) (l : Nat) (last : BitVec 12) : ∃ r, ({ s with reset_ := r } : State).LinkWork (s.loseLink l last) := by
  by_cases h : (s.lostLink l last).upLinks (s.plan.portOf l) = []
  · refine ⟨{ s.reset_ with fcBeyond := satAdd s.reset_.fcBeyond 1 }, ?_⟩
    rw [loseLink_of_last rfl h]
    rfl
  · refine ⟨{ s.reset_ with fcLinks := satAdd s.reset_.fcLinks 1 }, ?_⟩
    rw [loseLink_of_others rfl h]
    refine State.LinkWork.trans (.trans ?_ (.of_foldl (fun t p => t.linkWork_resend _ p) _ _)) (State.linkWork_release _)
    rfl

theorem exec_linkDown_of_down {l : LinkId} (hup : (s.link l).up = false) (hlost : (s.link l).lost = false) (hp : s.mem.newPoison = []) :
    exec (.linkDown l last) s = .next s := by
  calc exec (.linkDown l last) s = .next (s.recoverFrame (linkDownStep l last s).settle) := rfl
    _ = .next s := by rw [linkDownStep_of_down hup hlost, State.settle_of_nil hp]; rfl

theorem exec_linkDown_of_unnamed {l : LinkId} (hup : (s.link l).up = true ∨ (s.link l).lost = true) (hn : (s.link l).named = false)
    (hp : s.mem.newPoison = []) : exec (.linkDown l last) s = .next (s.loseLink l last) := by
  obtain ⟨r, hwork⟩ := loseLink_linkWork s l last
  calc exec (.linkDown l last) s = .next (s.recoverFrame (linkDownStep l last s).settle) := rfl
    _ = .next (s.recoverFrame (s.loseLink l last)) := by rw [linkDownStep_of_unnamed hup hn, hwork.settle_eq hp]
    _ = .next (s.loseLink l last) := by rw [hwork]; rfl

end Loss

/-! ### The return of a link (R293) -/

section Rejoin
variable {s : State} {l : Nat}

theorem linkRejoinDrainEndStep_of_drained (hup : (s.link l).up = true) (hj : (s.link l).rejoining = true)
    (hm : s.misplaced (s.plan.portOf l) = false) :
    linkRejoinDrainEndStep l s = (s.onLink l (fun k => { k with rejoining := false })).release :=
  if_pos (by simp [hup, hj, hm])

theorem linkRejoinDrainEndStep_of_misplaced (hm : s.misplaced (s.plan.portOf l) = true) : linkRejoinDrainEndStep l s = s :=
  if_neg (by simp [hm])

end Rejoin

/-- Settles O44, row by row: beacons, the timeouts of training, the loss of a link and its return. -/
theorem linksTrainAndLosePackets : Obligations.LinksTrainAndLosePackets := by
  unfold Obligations.LinksTrainAndLosePackets
  refine ⟨⟨fun l s u ht hp hu => ?_, fun l b s => ⟨fun hoff => ?_, ?_⟩, fun l b s hr hp hb hc hused hh hup => ?_,
    fun l b s hp hb hc hplan => ?_, fun l s ht hh hused => ?_, fun l s u ht hc hp hu => ?_⟩,
    fun l last s v u hpoison => ⟨fun hup hlost => ?_, fun hup hn hv hu => ⟨fun hnone => ?_, fun hsome => ?_⟩⟩,
    fun l s hup hj => ⟨fun hm => ?_, fun hm => ?_⟩⟩
  · subst hu
    exact next_linkFrame (s.linkWork_runTo_onLink _ _ _) (beaconSendStep_of_training ht hp)
  · exact next_linkFrame (.refl s) (beaconStep_of_disregarded (by rcases hoff with h | h <;> simp [h]))
  · exact next_linkFrame (.refl s) (beaconStep_of_disregarded (by simp))
  · obtain ⟨hlink, hshape, hother⟩ := beaconStep_of_in_use hr hp hb hc hused hh hup
    generalize hk : (s.link l).compared b (s.beaconReason l b) (s.agreedWith b) = k at hlink
    obtain ⟨hheard, hid, hserial, hplan, -, hcls, hreason⟩ := k.recheck_eqs
    have hclass : k.cls = if s.beaconReason l b = 0 then 1 else 2 := by rw [← hk]; rfl
    have hwork : s.LinkWork (beaconStep l b true s) := by rw [hshape]; rfl
    refine ⟨_, next_linkFrame hwork rfl, hshape, ?_⟩
    rw [hlink, hid, hserial, hplan, hheard, hcls, hreason, hclass, Link.recheck_up, hclass, ← hk]
    refine ⟨rfl, rfl, rfl, rfl, hother, fun h0 => ⟨if_pos h0, h0⟩, fun h0 => ⟨if_neg h0, rfl⟩, ?_⟩
    by_cases h0 : s.beaconReason l b = 0 <;> simp [Link.compared, Link.hear, hup, h0]
  · exact next_linkFrame (s.linkWork_onLink _ _) (beaconStep_of_same_plan hp hb hc hplan)
  · exact next_linkFrame (s.linkWork_runTo_onLink _ _ _) (trainingTimeoutStep_of_silent ht hh hused)
  · subst hu
    exact next_linkFrame (s.linkWork_runTo_onLink _ _ _) (absentRetrainStep_of_absent ht hc hp)
  · exact exec_linkDown_of_down hup hlost hpoison
  · subst hv
    rw [exec_linkDown_of_unnamed hup hn hpoison, loseLink_of_last hu hnone]
  · subst hv
    rw [exec_linkDown_of_unnamed hup hn hpoison, loseLink_of_others hu hsome]
  · exact next_linkFrame ((s.linkWork_onLink _ _).trans (State.linkWork_release _)) (linkRejoinDrainEndStep_of_drained hup hj hm)
  · exact next_linkFrame (.refl s) (linkRejoinDrainEndStep_of_misplaced hm)

end Sys2Proof.Machine
end

section
/-!
Staged check and commit (R316, R346 to R351): a write of CTL, the decision of a set of one package, GO and ABANDON for a set of the package,
the commit beat, and the end of an epoch's grace.
-/
namespace Sys2Proof.Machine

/-! ### STAGE_CHECK (R347, R349) -/

theorem stageCtlReg_aligned (r : StageSet) : stageCtlReg r % 8 = 0 := by
  cases r with
  | pkg => rfl
  | part q =>
    have hall : ∀ q : Quad, stageCtlReg (.part q) % 8 = 0 := by decide
    exact hall q

@[simp] theorem onRoot_stage (s : State) (id : W32) (scope job commit : Nat) (set : Option StageSet) (f : RootRec → RootRec) :
    (s.onRoot id scope job commit set f).stage = s.stage := by
  unfold State.onRoot
  split <;> rfl

/-- Telling the root of a failed check changes no register. -/
theorem ite_onRoot_stage (c : Prop) [Decidable c] (s : State) (id : W32) (scope job commit : Nat) (set : Option StageSet)
    (f : RootRec → RootRec) : (if c then s.onRoot id scope job commit set f else s).stage = s.stage := by
  split <;> simp

section Ctl
variable {s : State} {v : W64}

/-- The registers of the package set with the fields of a write of CTL (R347). -/
def State.ctlWritten (s : State) (v : W64) : StageRegs := { s.stage with ctl := BitVec.ofNat 64 (fld v 0 44) }

theorem stageCtl_of_no_check (h : bit v 44 = false) : (s.stageCtl .pkg v).stage = s.ctlWritten v :=
  congrArg State.stage (if_pos (by simp [h]))

variable (h : bit v 44 = true)
include h

/-- A check that comes too late abandons its set as late (R347, R349). -/
theorem stageCtl_of_late (hlate : fld s.stage.at_ 0 54 < s.beat + 6 + 2 * s.stageDg (sgScope v) (sgJob v)) :
    (s.stageCtl .pkg v).stage = (s.ctlWritten v).show 5 2 (sgId v) := by
  exact (congrArg State.stage ((if_neg (by simp [h])).trans (if_pos hlate))).trans (ite_onRoot_stage _ _ _ _ _ _ _ _)

/-- A check in time, while another set waits, abandons its set as busy and leaves the other (R347, R349). -/
theorem stageCtl_of_busy (htime : s.beat + 6 + 2 * s.stageDg (sgScope v) (sgJob v) ≤ fld s.stage.at_ 0 54)
    (hrun : s.stage.run.isSome = true) : (s.stageCtl .pkg v).stage = (s.ctlWritten v).show 5 3 (sgId v) := by
  exact (congrArg State.stage ((if_neg (by simp [h])).trans ((if_neg (Nat.not_lt.mpr htime)).trans (if_pos hrun)))).trans
    (ite_onRoot_stage _ _ _ _ _ _ _ _)

end Ctl

/-! ### STAGE_DECISION (R348, R349) -/

@[simp] theorem State.runToNow_fabric (s : State) (t : Nat) : (s.runToNow t).fabric = s.fabric := by
  obtain ⟨x, c, h⟩ := s.runToNow_shape t
  rw [h]

@[simp] theorem State.runToNow_roots (s : State) (t : Nat) : (s.runToNow t).roots = s.roots := by
  obtain ⟨x, c, h⟩ := s.runToNow_shape t
  rw [h]

@[simp] theorem State.runToNow_ownId (s : State) (t : Nat) : (s.runToNow t).ownId = s.ownId := by
  simp only [State.ownId, State.plan, State.runToNow_fabric]

/-- The report of each member, where one has come (R349). -/
def RootRec.got (a : RootRec) : List (Option (Nat × W64 × BitVec 8 × Bool)) := a.members.map (fun m => a.reports.find? (fun x => x.1 == m))

/-- Every member reported the set consistent, with one digest (R349). -/
def RootRec.agreed (a : RootRec) : Bool :=
  !a.failed && !a.members.isEmpty && a.got.all (fun x => x.any (fun y => y.2.2.1 == 0)) &&
    (a.got.filterMap (fun x => x.map (fun y => y.2.1))).eraseDups.length == 1

/-- Every member reported that it is ready (R308, R349). -/
def RootRec.allReady (a : RootRec) : Bool := a.got.all (fun x => x.any (fun y => y.2.2.2))

/-- The root has done with a set's record. -/
def State.closeRoot (s : State) (id : W32) (a : RootRec) : State :=
  { s.draw with roots := s.roots.filter (fun b => !b.is id a.scope.toNat a.job.toNat a.commit a.set) }

@[simp] theorem State.closeRoot_ownId (s : State) (id : W32) (a : RootRec) : (s.closeRoot id a).ownId = s.ownId := rfl

/-- The root tells the other members its decision (R349, R351). -/
def State.tellMembers (s : State) (id : W32) (a : RootRec) (ok formed : Bool) : State :=
  (a.members.filter (fun m => m != s.ownId && s.feature featStage)).foldl (fun s m =>
    s.inject (s.sysPacket m (stageBytes (if ok then 3 else 4)
      { id := id, job := a.job, scope := a.scope, commit := a.commit, result := 0, ready := formed } 0 (ok && formed)))) s

/-- The decision of a set whose record the root holds (R349). -/
theorem stageDecisionStep_of_found {s w : State} {id : W32} {a : RootRec} {formed : Bool} (hreg : s.regOn = true)
    (hfind : s.roots.find? (fun a => a.id == id) = some a) (hw : w = s.runToNow (1024 * (a.commit - 4 - a.dg)))
    (hf : formed = (a.allReady && w.linesOk a)) : stageDecisionStep id s =
      if a.agreed then ((w.closeRoot id a).tellMembers id a a.agreed formed).takeGo id a.scope.toNat a.job.toNat a.commit a.set formed
      else ((w.closeRoot id a).tellMembers id a a.agreed formed).takeAbandon id a.scope.toNat a.job.toNat a.commit a.set := by
  subst hw hf
  unfold stageDecisionStep
  simp only [hfind]
  exact if_neg (by simp [hreg])

section Alone
variable {a : RootRec} {own : Nat} {dg : W64} {res : BitVec 8} {rdy : Bool} (hmembers : a.members = [own])
  (hreports : a.reports = [(own, dg, res, rdy)])
include hmembers

theorem State.tellMembers_of_alone {s : State} (id : W32) (ok formed : Bool) (hown : own = s.ownId) : s.tellMembers id a ok formed = s := by
  simp [State.tellMembers, hmembers, hown]

include hreports

theorem RootRec.got_of_alone : a.got = [some (own, dg, res, rdy)] := by
  simp [RootRec.got, hmembers, hreports]

theorem RootRec.agreed_of_alone : a.agreed = (!a.failed && res == 0) := by
  simp [RootRec.agreed, got_of_alone hmembers hreports, hmembers, List.eraseDups_cons]

theorem RootRec.allReady_of_alone : a.allReady = rdy := by
  simp [RootRec.allReady, got_of_alone hmembers hreports]

end Alone

/-- A set that concerns this package alone is decided on its own report, without messages (R348). -/
theorem stageDecisionStep_of_alone {s u : State} {id : W32} {a : RootRec} {dg : W64} {res : BitVec 8} {rdy : Bool} (hreg : s.regOn = true)
    (hfind : s.roots.find? (fun a => a.id == id) = some a) (hscope : a.scope = 0) (hmembers : a.members = [s.ownId])
    (hreports : a.reports = [(s.ownId, dg, res, rdy)])
    (hu : u = { (s.runToNow (1024 * (a.commit - 4 - a.dg))).draw with
      roots := s.roots.filter (fun b => !b.is id 0 a.job.toNat a.commit a.set) }) :
    stageDecisionStep id s = if !a.failed && res == 0 then u.takeGo id 0 a.job.toNat a.commit a.set rdy
      else u.takeAbandon id 0 a.job.toNat a.commit a.set := by
  have hclose : u = (s.runToNow (1024 * (a.commit - 4 - a.dg))).closeRoot id a := by
    rw [hu, State.closeRoot, State.runToNow_roots, hscope]
    rfl
  have hformed : rdy = (a.allReady && (s.runToNow (1024 * (a.commit - 4 - a.dg))).linesOk a) := by
    simp [RootRec.allReady_of_alone hmembers hreports, State.linesOk, hscope]
  have hown : s.ownId = u.ownId := by rw [hclose, State.closeRoot_ownId, State.runToNow_ownId]
  rw [stageDecisionStep_of_found hreg hfind rfl hformed, ← hclose, State.tellMembers_of_alone hmembers id _ _ hown,
    RootRec.agreed_of_alone hmembers hreports, hscope]
  rfl

theorem exec_stageDecision {s t : State} {id : W32} (h : stageDecisionStep id s = t) :
    exec (.stageDecision id) s = .next (s.stageFrame t) :=
  congrArg (fun t : State => Host.Outcome.next (s.stageFrame t)) h

/-! ### GO and ABANDON (R349) -/

/-- A message that changes no partition's set does what it does to the package's. -/
theorem foldl_stageSets_of_pkg {f : State → StageSet → State} {s t : State} (hpkg : f s .pkg = t) (hpart : ∀ q, f t (.part q) = t) :
    stageSets.foldl f s = t := by
  simp only [stageSets, List.foldl_cons, List.foldl_nil, hpkg, hpart]

/-- Registers of the package's set alone that change leave each partition's set as it was. -/
theorem stageOf_part_of_parts {s t : State} {q : Quad} (ht : t.parts = s.parts) (hparts : ∀ p : Nat, (s.prt p).stage.run = none) :
    (t.stageOf (.part q)).run = none := by
  rw [State.stageOf, State.prt, ht]
  exact hparts q

section Messages
variable {s : State} {k : StageRun} (hrun : s.stage.run = some k) (hparts : ∀ p : Nat, (s.prt p).stage.run = none)
include hrun hparts

theorem takeGo_of_pkg (id : W32) (scope job commit : Nat) (set : Option StageSet) (formed : Bool) :
    s.takeGo id scope job commit set formed =
      if k.id = id ∧ k.scope.toNat = scope ∧ k.job.toNat = job ∧ k.commit = commit ∧ setKey .pkg scope = set ∧ s.now < (commit - 2) * 1024 then
        s.setStage .pkg (fun g => { (g.show 3 0 id) with run := some { k with go := true, formed := formed } })
      else s := by
  refine foldl_stageSets_of_pkg ?_ fun q => ?_
  · simp only [State.stageOf, hrun]
  · rw [stageOf_part_of_parts (s := s) (by split <;> rfl) hparts]

theorem takeAbandon_of_pkg (id : W32) (scope job commit : Nat) (set : Option StageSet) :
    s.takeAbandon id scope job commit set =
      if k.id = id ∧ k.scope.toNat = scope ∧ k.job.toNat = job ∧ k.commit = commit ∧ setKey .pkg scope = set then
        s.setStage .pkg (fun g => { (g.show 5 (if k.result ≠ 0 then 1 else if !k.ready && k.forming then 7 else 5) k.id) with run := none })
      else s := by
  refine foldl_stageSets_of_pkg ?_ fun q => ?_
  · simp only [State.stageOf, hrun, State.abandonSet]
  · rw [stageOf_part_of_parts (s := s) (by split <;> rfl) hparts]

end Messages

/-- A set of a job or of the whole system is known by its id, not by its registers (R348). -/
theorem setKey_of_remote {r : StageSet} {scope : BitVec 2} (h : scope = 1 ∨ scope = 2) : setKey r scope.toNat = none := by
  rcases h with rfl | rfl <;> rfl

/-! ### STAGE_APPLY (R346, R349) -/

/-- A set takes effect, by the registers it belongs to (R346). -/
def State.applySet (s : State) (r : StageSet) (k : StageRun) : State :=
  match r with
  | .pkg => s.applyPkg k
  | .part q => s.applyPart q.val k

theorem State.applySet_pkg (s : State) (k : StageRun) : s.applySet .pkg k = s.applyPkg k := rfl
theorem State.applySet_part (s : State) (q : Quad) (k : StageRun) : s.applySet (.part q) k = s.applyPart q.val k := rfl

section Apply
variable {r : StageSet} {s w : State} {k : StageRun} (hrun : (s.stageOf r).run = some k)
include hrun

theorem stageApplyStep_of_no_go (hgo : k.go = false) :
    stageApplyStep r s = (s.runToNow (1024 * k.commit)).abandonSet r (if k.result ≠ 0 then 1 else 4) := by
  simp only [stageApplyStep, hrun, hgo, Bool.false_and, Bool.false_eq_true, if_false, Bool.not_false, if_true]

variable (hgo : k.go = true) (hbehind : s.applyBehind r k = false)
include hgo hbehind

/-- A set with GO whose memory cannot be read at its commit ends as inconsistent (R346; log 102). -/
theorem stageApplyStep_of_unreadable (hread : (s.runToNow (1024 * k.commit)).setReadable r = (w, false)) :
    stageApplyStep r s = w.abandonSet r 1 := by
  simp only [stageApplyStep, hrun, hgo, hbehind, hread, Bool.true_and, Bool.false_eq_true, if_false, if_true, Bool.not_true, Bool.not_false]

theorem stageApplyStep_of_readable (hread : (s.runToNow (1024 * k.commit)).setReadable r = (w, true)) :
    stageApplyStep r s = (w.setStage r (fun g => { (g.show 4 0 k.id) with run := none })).applySet r k := by
  cases r <;> simp only [stageApplyStep, hrun, hgo, hbehind, hread, Bool.true_and, Bool.false_eq_true, if_false, if_true, Bool.not_true,
    State.applySet]

end Apply

theorem exec_stageApply {r : StageSet} {s t : State} (h : stageApplyStep r s = t) : exec (.stageApply r) s = .next (s.stageFrame t.settle) :=
  congrArg (fun t : State => Host.Outcome.next (s.stageFrame t.settle)) h

/-! ### EPOCH_GRACE_END (R316) -/

theorem epochGraceEndStep_of_none {s : State} {j : Nat} (h : sget none s.fabric.prevEpoch j = none) : epochGraceEndStep j s = s := by
  simp only [epochGraceEndStep, h]

theorem epochGraceEndStep_of_some {s : State} {j b : Nat} {x : BitVec 16} (h : sget none s.fabric.prevEpoch j = some (x, b)) :
    epochGraceEndStep j s = { s.runToNow (1024 * b) with
      fabric := { s.fabric with prevEpoch := sset none s.fabric.prevEpoch j none } } := by
  simp only [epochGraceEndStep, h, State.runToNow_fabric]

/-! ### The rows of messages -/

section Here
variable {s : State} {a : Arrival} (hk : a.pkt.kind = 9) (hhere : SystemHere s a)
include hk hhere

theorem stageReportStep_of_here :
    stageReportStep a s = withCredit s a ((heard s a).takeReport a.pkt.srcPkg.toNat a.pkt.payload) :=
  receive_system _ hk hhere

variable (hremote : smRemote a.pkt.payload = true)
include hremote

theorem stageGoStep_of_here : stageGoStep a s = withCredit s a ((heard s a).takeGo (smId a.pkt.payload) (smScope a.pkt.payload)
    (smJob a.pkt.payload) (smCommit a.pkt.payload) none (smBit a.pkt.payload)) := by
  simp only [stageGoStep, receive_system _ hk hhere, hremote, if_true]

theorem stageAbandonStep_of_here : stageAbandonStep a s = withCredit s a ((heard s a).takeAbandon (smId a.pkt.payload)
    (smScope a.pkt.payload) (smJob a.pkt.payload) (smCommit a.pkt.payload) none) := by
  simp only [stageAbandonStep, receive_system _ hk hhere, hremote, if_true]

end Here

theorem kind_of_wfSystem {p : Packet} {n : Nat} (h : p.wfSystem n = true) : p.kind = 9 := by
  rw [Packet.wfSystem, Bool.and_eq_true] at h
  exact kind_eq_of_wf (n := 9) h.1 (by decide)

/-- A well-formed message of staged commit writes what its step does through the frame of staging. -/
theorem systemRow_of_wf {s t u : State} {a : Arrival} {n : Nat} (hw : a.pkt.wfSystem n = true) (h : t = u) :
    systemRow n a s (s.stageFrame t) = .next (s.stageFrame u) := by
  rw [systemRow, formed, hw, if_pos rfl, h]

/-- Settles O51, row by row: the write of CTL, the root's decision, the commit beat, the end of a grace, and the three messages. -/
theorem setsAreCheckedDecidedAndApplied : Obligations.SetsAreCheckedDecidedAndApplied := by
  unfold Obligations.SetsAreCheckedDecidedAndApplied
  refine ⟨⟨fun r v s hserves => ?_, fun v s C d hC hd => ⟨fun h => stageCtl_of_no_check h, fun h hlate => ?_, fun h htime hrun => ?_⟩,
    fun id s u a dg res rdy hreg hfind hscope hmembers hreports hu => ⟨fun hok hres => ?_, fun hbad => ?_⟩,
    fun r s u w k hrun hu => ⟨fun hgo => ?_, fun hgo hbehind hread => ?_, fun hgo hbehind hread hr => ?_, fun q hgo hbehind hread hr => ?_⟩,
    fun j s => ⟨fun hnone => ?_, fun x b hsome => ?_⟩⟩,
    fun a s v m hhere hv hm => ⟨fun hw => ?_, fun hw hremote => ?_, fun hw hremote => ?_⟩,
    fun s k formed hrun hscope hparts => ⟨fun htime => ?_, fun hlate => ?_, fun id hid => ?_, fun hres => ?_⟩⟩
  · have hstep : stageCheckStep r v s = (s.stageCtl r v).respond (.done 0) :=
      writeRow_serves _ hserves (pageAccessOk_write8 v (stageCtlReg_aligned r))
    exact congrArg (fun t : State => Host.Outcome.next (s.stageFrame t.settle)) hstep
  · subst hC hd
    rw [stageCtl_of_late h hlate]
    exact ⟨rfl, rfl, rfl⟩
  · subst hC hd
    rw [stageCtl_of_busy h htime hrun]
    exact ⟨rfl, rfl, rfl⟩
  · exact exec_stageDecision ((stageDecisionStep_of_alone hreg hfind hscope hmembers hreports hu).trans (if_pos (by simp [hok, hres])))
  · refine exec_stageDecision ((stageDecisionStep_of_alone hreg hfind hscope hmembers hreports hu).trans (if_neg ?_))
    rcases hbad with h | h
    · simp [h]
    · simpa using fun _ => h
  · subst hu
    exact exec_stageApply (stageApplyStep_of_no_go hrun hgo)
  · subst hu
    exact exec_stageApply (stageApplyStep_of_unreadable hrun hgo hbehind hread)
  · subst hu hr
    exact exec_stageApply ((stageApplyStep_of_readable hrun hgo hbehind hread).trans (State.applySet_pkg _ k))
  · subst hu hr
    exact exec_stageApply ((stageApplyStep_of_readable hrun hgo hbehind hread).trans (State.applySet_part _ q k))
  · exact next_linkFrame (.refl s) (epochGraceEndStep_of_none hnone)
  · refine next_linkFrame ?_ (epochGraceEndStep_of_some hsome)
    exact (s.linkWork_runToNow _).trans rfl
  · subst hv hm
    exact systemRow_of_wf hw (stageReportStep_of_here (kind_of_wfSystem hw) hhere)
  · subst hv hm
    exact systemRow_of_wf hw (stageGoStep_of_here (kind_of_wfSystem hw) hhere hremote)
  · subst hv hm
    exact systemRow_of_wf hw (stageAbandonStep_of_here (kind_of_wfSystem hw) hhere hremote)
  · rw [takeGo_of_pkg hrun hparts, if_pos ⟨rfl, rfl, rfl, rfl, setKey_of_remote hscope, htime⟩]
    rfl
  · rw [takeGo_of_pkg hrun hparts, if_neg fun ⟨_, _, _, _, _, h⟩ => absurd h (Nat.not_lt.mpr hlate)]
  · rw [takeGo_of_pkg hrun hparts, if_neg fun ⟨h, _⟩ => hid h.symm]
  · rw [takeAbandon_of_pkg hrun hparts, if_pos ⟨rfl, rfl, rfl, rfl, setKey_of_remote hscope⟩]
    simp only [if_pos hres]
    rfl

end Sys2Proof.Machine
end

section
/-!
System time (R324 to R328, R495): what a measurement makes of the time state, and each row of the references, of the sync over the links
and of holdover, written through the frame of system time.
-/
namespace Sys2Proof.Machine

/-! ### What system time changes -/

theorem State.LinkWork.timeFrame_eq {s t : State} (h : s.LinkWork t) : s.timeFrame t = t := by rw [h]; rfl

/-- A row of system time answers a change of the clock, the fabric and the clusters unchanged. -/
theorem next_timeFrame {s t u : State} (h : s.LinkWork u) (ht : t = u) : Host.Outcome.next (s.timeFrame t) =
    (.next u : Host.Outcome State Fault Refusal) := by
  rw [ht, h.timeFrame_eq]

/-- The time registers changed after the clock has run. -/
theorem State.linkWork_runTo_time (s : State) (x : Nat) (t : TimeSt) : s.LinkWork { s.runTo x with time := t } :=
  (s.linkWork_runTo x).trans rfl

theorem State.linkWork_runToNow_time (s : State) (x : Nat) (t : TimeSt) : s.LinkWork { s.runToNow x with time := t } :=
  (s.linkWork_runToNow x).trans rfl

/-! ### What the clock leaves of the time registers -/

@[simp] theorem State.runTo_time_state (s : State) (x : Nat) : (s.runTo x).time.state = s.time.state := by
  unfold State.runTo
  split <;> rfl

@[simp] theorem State.runTo_time_setSecs (s : State) (x : Nat) : (s.runTo x).time.setSecs = s.time.setSecs := by
  unfold State.runTo
  split <;> rfl

@[simp] theorem State.runToNow_time_state (s : State) (x : Nat) : (s.runToNow x).time.state = s.time.state := by
  simp only [State.runToNow, State.runTo_time_state]

@[simp] theorem State.runToNow_time_setSecs (s : State) (x : Nat) : (s.runToNow x).time.setSecs = s.time.setSecs := by
  simp only [State.runToNow, State.runTo_time_setSecs]

/-! ### Measurements (R326, R328) -/

section Measure
variable {t : TimeSt} {off : Int} {b : Nat}

theorem TimeSt.measure_of_locked (hs : t.state = .locked) : t.measure off b = { t with slew := off } := by
  simp only [TimeSt.measure, hs]

@[simp] theorem TimeSt.lock_lastSync (t : TimeSt) (off : Int) (b : Nat) : (t.lock off b).lastSync = t.lastSync := by
  unfold TimeSt.lock
  split
  · rfl
  · split
    · rfl
    · split <;> rfl

@[simp] theorem TimeSt.measure_lastSync (t : TimeSt) (off : Int) (b : Nat) : (t.measure off b).lastSync = t.lastSync := by
  unfold TimeSt.measure
  split
  · dsimp only
    rw [apply_ite TimeSt.lastSync, TimeSt.lock_lastSync, ite_self]
  · rfl
  · rfl

variable (hs : t.state = .acquire) (hever : t.everLocked = true)
include hs hever

/-- An offset beyond the bound starts the count again (R326). -/
theorem TimeSt.measure_of_beyond (hw : b < off.natAbs) : t.measure off b = { t with good := 0, predict := some off, slew := off } := by
  simp [TimeSt.measure, within, hs, hever, Nat.not_le.mpr hw]

variable (hw : off.natAbs ≤ b)
include hw

/-- One within the bound counts (R326). -/
theorem TimeSt.measure_of_within (hg : t.good < 7) : t.measure off b = { t with good := t.good + 1, predict := some off, slew := off } := by
  simp [TimeSt.measure, within, hs, hever, hw, Nat.not_le.mpr hg]

/-- The eighth in succession locks, and a package that was ever locked slews there (R324, R326). -/
theorem TimeSt.measure_of_eighth (hg : 7 ≤ t.good) : t.measure off b =
    { t with good := t.good + 1, predict := some off, slew := off, state := .locked } := by
  simp [TimeSt.measure, TimeSt.lock, within, hs, hever, hw, hg]

end Measure

/-! ### The references (R326, R328, R495) -/

section Reference
variable {s : State}

theorem timeSetStep_of_serves {v : W64} (h : PageServes s .registrar (pkgPage + 0x30)) :
    timeSetStep v s = (s.timeSet v).respond (.done 0) :=
  writeRow_serves _ h (pageAccessOk_write8 v (by decide))

theorem ppsEdgeStep_of_other {ts : Nat} (h : s.isRoot = false ∨ s.refSrc ≠ 1) : ppsEdgeStep ts s = s :=
  if_pos (by rcases h with h | h <;> simp [h])

/-- Of a root that acquires, the edge is the second that STW_TIME_SET named (R326). -/
theorem ppsEdgeStep_of_named {ts k : Nat} {u : State} {t : TimeSt} (hr : s.isRoot = true) (hsrc : s.refSrc = 1)
    (hst : s.time.state = .acquire) (hk : s.time.setSecs = some k) (hu : u = s.runToNow ts)
    (ht : t = { u.time with refNext := some (k * 1000000000 + 1000000000), setSecs := none, lastPps := u.time.ticks }) :
    ppsEdgeStep ts s = { u with time := t.measure ((((k * 1000000000 : Nat) : Int) - ts) * nsT) (20 * nsT) } := by
  have hstate : u.time.state = .acquire := by rw [hu, State.runToNow_time_state, hst]
  have hsecs : u.time.setSecs = some k := by rw [hu, State.runToNow_time_setSecs, hk]
  subst ht
  simp only [ppsEdgeStep, hr, hsrc, ← hu, hstate, hsecs, if_true, beq_self_eq_true, Bool.and_self, Bool.not_true, Bool.false_eq_true,
    if_false, Option.map_some, Option.getD_some]

theorem ptpMeasurementStep_of_ptp {off : Int} (hr : s.isRoot = true) (hsrc : s.refSrc = 2) :
    ptpMeasurementStep off s = { s with time := s.time.measure (off * nsT) (20 * nsT) } :=
  if_neg (by simp [hr, hsrc])

theorem refLossTimeoutStep_of_pins (hr : s.isRoot = true) (hsrc : s.refSrc = 1) : refLossTimeoutStep s =
    { s.runTo (s.time.lastPps + 1500000000 * nsT) with time := (s.runTo (s.time.lastPps + 1500000000 * nsT)).time.refGone } :=
  if_neg (by simp [hr, hsrc])

theorem referenceLostStep_of_ptp (hr : s.isRoot = true) (hsrc : s.refSrc = 2) : referenceLostStep s = { s with time := s.time.refGone } :=
  if_neg (by simp [hr, hsrc])

end Reference

/-! ### Holdover (R328) -/

section Holdover
variable {s u : State}

theorem syncLossHoldoverStep_of_locked (hr : s.isRoot = false) (hs : s.time.state = .locked)
    (hu : u = s.runTo (s.time.lastSync + 2 * 16 * 1024 * nsT)) :
    syncLossHoldoverStep s = { u with time := { u.time with state := .holdover, heldFrom := u.time.lastSync, slew := 0 } } := by
  subst hu
  exact if_neg (by simp [hr, hs])

theorem holdoverExpireStep_of_holdover (hs : s.time.state = .holdover) (hu : u = s.runTo (s.time.heldFrom + 100000000 * nsT)) :
    holdoverExpireStep s = { u with time := { u.time with state := .unlocked, good := 0, predict := none } } := by
  subst hu
  exact if_neg (by simp [hs])

end Holdover

/-! ### Synchronisation over the links (R327) -/

section Sync
variable {s : State}

/-- The beat of the next sync is a multiple of 16 that has not passed (R327). -/
theorem syncBeat_bounds {b k : Nat} {c : Prop} [Decidable c] (hk : k = if b % 16 = 0 ∧ c then b else (b / 16 + 1) * 16) :
    k % 16 = 0 ∧ b ≤ k := by
  split at hk <;> omega

theorem State.linkWork_sendLink (s : State) (l : Nat) (p : Packet) : s.LinkWork (s.sendLink l p) := by
  unfold State.sendLink
  dsimp only
  split <;> rfl

theorem State.mem_timeLinks {l : Nat} (h : l ∈ s.timeLinks) : (s.link l).up = true ∧ bit (s.link l).cap 1 = true := by
  rw [State.timeLinks, List.mem_filter, Bool.and_eq_true] at h
  exact h.2

/-- At its beat the message goes out on every link that carries TIME (R327). -/
theorem timeSyncSendStep_of_due {u v : State} {k : Nat}
    (hk : k = if s.beat % 16 = 0 ∧ s.time.syncSent ≠ some s.beat then s.beat else (s.beat / 16 + 1) * 16)
    (hu : u = s.runToNow (1024 * k)) (hv : v = { u with time := { u.time with syncSent := some k } }) : timeSyncSendStep s =
    v.timeLinks.foldl (fun s l => s.sendLink l (s.sysPacket (s.link l).peerId.toNat s.syncBytes)) v := by
  subst hv hu hk
  rfl

theorem takeSync_of_disregarded {l : Nat} {m : List Byte} (h : s.isRoot = true ∨ s.parentLink ≠ some l) : s.takeSync l m = s :=
  if_pos (by rcases h with h | h <;> simp [h])

/-- A usable message of the parent is a measurement that renews the sync, and it ends holdover (R327, R328). -/
theorem takeSync_of_usable {l : Nat} {m : List Byte} (hr : s.isRoot = false) (hp : s.parentLink = some l)
    (hm : nfld (leNat m) 97 3 ∈ [0, 2, 3]) : ∃ (t : TimeSt) (off : Int) (b : Nat), (s.takeSync l m).time = t.measure off b ∧
    t.lastSync = s.time.ticks ∧ (s.time.state = .holdover ∨ s.time.state = .locked → t.state = .locked) := by
  have husable : [0, 2, 3].contains (nfld (leNat m) 97 3) = true := List.contains_iff_mem.mpr hm
  simp only [State.takeSync, hr, hp, husable, bne_self_eq_false, Bool.or_self, Bool.not_true, Bool.false_eq_true, if_false]
  refine ⟨_, _, _, rfl, ?_, ?_⟩
  · split <;> rfl
  · rintro (h | h) <;> simp only [h]

theorem exec_timeSync_of_here {a : Arrival} (hw : a.pkt.wfSystem 1 = true) (hhere : SystemHere s a) :
    exec (.timeSync a) s = .next (s.timeFrame (withCredit s a ((heard s a).takeSync a.link a.pkt.payload))) := by
  have hstep : timeSyncStep a s = withCredit s a ((heard s a).takeSync a.link a.pkt.payload) :=
    receive_system _ (kind_of_wfSystem hw) hhere
  rw [exec, execTimeSync, systemRow, formed, hw, if_pos rfl, hstep]

end Sync

/-- Settles O45, row by row: the references, holdover, the measurement once ever locked, and the sync sent and received. -/
theorem timeFollowsItsReference : Obligations.TimeFollowsItsReference := by
  unfold Obligations.TimeFollowsItsReference
  refine ⟨⟨fun v s hd ha hrun hheld => ?_, fun off s hr hsrc => ?_, fun ts s h => ?_, fun ts k s u t hr hsrc hst hk hu ht => ?_,
    fun s u hr hsrc hu => ⟨?_, ?_⟩, fun s hr hsrc => ?_, fun s u hr hs hu => ?_, fun s u hs hu => ?_⟩,
    fun t off b hs hever => ?_, fun s u v k hk hu hv => ?_, fun a s v hw hhere hv => ?_, fun l m s h => ?_, fun l m s hr hp hm => ?_⟩
  · obtain ⟨hmapped, hreset⟩ := pageMapped_pkg (a := pkgPage + 0x30) ha (by decide)
    have hserves : PageServes s .registrar (pkgPage + 0x30) := ⟨hd, hmapped, hreset, hrun, by rw [State.pageBusy, hheld]; rfl⟩
    have hexec : exec (.timeSet v) s = .next (s.timeFrame ((s.timeSet v).respond (.done 0))) :=
      congrArg (fun t => Host.Outcome.next (s.timeFrame t)) (timeSetStep_of_serves hserves)
    rw [hexec, State.timeSet]
    refine ⟨fun hst => ?_, fun hst => ?_⟩
    · rw [if_pos hst]
      rfl
    · rw [if_neg hst]
      rfl
  · exact next_timeFrame rfl (ptpMeasurementStep_of_ptp hr hsrc)
  · exact next_timeFrame (.refl s) (ppsEdgeStep_of_other h)
  · refine next_timeFrame ?_ (ppsEdgeStep_of_named hr hsrc hst hk hu ht)
    exact hu ▸ s.linkWork_runToNow_time ts _
  · subst hu
    exact next_timeFrame (s.linkWork_runTo_time _ _) (refLossTimeoutStep_of_pins hr hsrc)
  · rw [hu, State.runTo_time_state]
  · exact next_timeFrame rfl (referenceLostStep_of_ptp hr hsrc)
  · exact next_timeFrame (hu ▸ s.linkWork_runTo_time _ _) (syncLossHoldoverStep_of_locked hr hs hu)
  · exact next_timeFrame (hu ▸ s.linkWork_runTo_time _ _) (holdoverExpireStep_of_holdover hs hu)
  · refine ⟨fun hw hg => ?_, fun hw hg => ?_, fun hw => ?_⟩
    · rw [TimeSt.measure_of_eighth hs hever hw hg]
      exact ⟨rfl, rfl, rfl⟩
    · rw [TimeSt.measure_of_within hs hever hw hg]
      exact ⟨hs, rfl⟩
    · rw [TimeSt.measure_of_beyond hs hever hw]
      exact ⟨hs, rfl⟩
  · obtain ⟨hmul, hle⟩ := syncBeat_bounds hk
    have hstep := timeSyncSendStep_of_due hk hu hv
    have hwork : s.LinkWork v := by
      subst hv hu
      exact s.linkWork_runToNow_time _ _
    refine ⟨hmul, hle, fun hnone => ?_, fun l hone => ?_⟩
    · rw [hnone] at hstep
      exact next_timeFrame hwork hstep
    · obtain ⟨hup, hcap⟩ := State.mem_timeLinks (hone ▸ List.mem_singleton_self l)
      rw [hone] at hstep
      exact ⟨hup, hcap, next_timeFrame (hwork.trans (v.linkWork_sendLink _ _)) hstep⟩
  · subst hv
    exact exec_timeSync_of_here hw hhere
  · exact takeSync_of_disregarded h
  · obtain ⟨t, off, b, htime, hsync, hlocked⟩ := takeSync_of_usable hr hp hm
    rw [htime]
    refine ⟨fun hs => ?_, fun hs => ?_, ?_⟩
    · rw [TimeSt.measure_of_locked (hlocked (.inl hs))]
      exact hlocked (.inl hs)
    · rw [TimeSt.measure_of_locked (hlocked (.inr hs))]
      exact hlocked (.inr hs)
    · rw [TimeSt.measure_lastSync, hsync]

end Sys2Proof.Machine
end

section
/-!
The power cap (R343, R344) and best-effort issue (R345, R498).
-/
namespace Sys2Proof.Machine

/-! ### STW_POWER_CAP (R343, R344, R435) -/

section Cap
variable {s : State} {v : W64}

/-- A cap that is taken is clamped, and the cap in force is at least the reservation, which no cap changes (R343, R344). -/
theorem State.powerCap_eq {c : Nat} (hc : c = max 2500 (min 5000 (fld v 0 13))) : s.powerCap v = { s with
    power := { s.power with capW := c, capEff := max c s.reservation, capHeld := decide (c < max c s.reservation)
                            overCap := s.power.overCap && !bit v 30 } } := by
  subst hc
  rfl

theorem powerCapWriteStep_of_serves (h : PageServes s .bursar (pkgPage + 0x40)) :
    powerCapWriteStep v s = (s.powerCap v).respond (.done 0) :=
  writeRow_serves _ h (pageAccessOk_write8 v (by decide))

/-- The boot ROM serves no page of the package (R452). -/
theorem romOnly_pkgPage (s : State) (off : Nat) : (s.stw.romOnly && decide (pkgPage + off < pkgPage)) = false := by
  rw [decide_eq_false (Nat.not_lt.mpr (Nat.le_add_right _ _)), Bool.and_false]

variable (hd : s.dark = false) (ha : s.agreedNow = true)
include hd ha

theorem powerCapWriteStep_of_restarting (hb : s.stw.bursar.st = .restarting) :
    powerCapWriteStep v s = s.holdAccess (pageWrite (pkgPage + 0x40) 8 v) := by
  obtain ⟨hmapped, hreset⟩ := pageMapped_pkg (a := pkgPage + 0x40) ha (by decide)
  rw [powerCapWriteStep, State.writeRow]
  exact gated_held (p := .bursar) _ hd hmapped (pageAccessOk_write8 v (by decide)) hreset (romOnly_pkgPage s 0x40) hb

theorem powerCapWriteStep_of_failed (hb : s.stw.bursar.st = .failed) :
    powerCapWriteStep v s = (s.hostError 5 (pkgPage + 0x40)).respond .error := by
  obtain ⟨hmapped, hreset⟩ := pageMapped_pkg (a := pkgPage + 0x40) ha (by decide)
  rw [powerCapWriteStep, State.writeRow]
  exact gated_failed (p := .bursar) _ hd hmapped (pageAccessOk_write8 v (by decide)) hreset (romOnly_pkgPage s 0x40) hb

end Cap

/-- An error seen by the host is an event and an entry of its log (R442). -/
theorem State.hostError_shape (s : State) (kind : Nat) (a : Addr) :
    ∃ ev log x, s.hostError kind a = { s with stw := { s.stw with events := ev, errlog := log }, host := x } :=
  (State.event_shape _ (2 ^ 8)).elim fun x h => ⟨_, _, x, h⟩

theorem capFrame_hostError (s : State) (kind : Nat) (a : Addr) (r : HostResp) :
    s.capFrame ((s.hostError kind a).respond r) = (s.hostError kind a).respond r := by
  obtain ⟨ev, log, x, h⟩ := s.hostError_shape kind a
  rw [h]
  rfl

theorem exec_powerCapWrite {s t : State} {v : W64} (h : powerCapWriteStep v s = t) : exec (.powerCapWrite v) s = .next (s.capFrame t) :=
  congrArg (fun t => Host.Outcome.next (s.capFrame t)) h

/-! ### BURSAR_POWER_MEASURE (R345, R498) -/

theorem bursarPowerMeasureStep_of_running {w : Nat} {s : State} (h : s.stw.bursar.st = .running) : bursarPowerMeasureStep w s =
    { s with power := { s.power with
      beFraction := nextFraction s.power w, overCap := s.power.overCap || (s.power.beFraction == 0 && decide (s.power.capEff < w)) } } :=
  if_neg (by simp [h])

section Fraction
variable {p : PowerSt} {w : Nat}

theorem nextFraction_of_hold (h : p.thermalHold = true) : nextFraction p w = 0 := if_pos h

/-- Whatever the Bursar chooses, issue rises by one step at most and never above 16/16 (R345). -/
theorem nextFraction_le (p : PowerSt) (w : Nat) : nextFraction p w ≤ min 16 (p.beFraction + 1) := by
  unfold nextFraction
  split
  · exact Nat.zero_le _
  · dsimp only
    split
    · exact Nat.le_trans (Nat.min_le_left _ _) (Nat.min_le_right _ _)
    · exact Nat.min_le_right _ _

theorem nextFraction_le_of_over (h : p.capEff < w) : nextFraction p w ≤ p.beFraction - 1 := by
  unfold nextFraction
  split
  · exact Nat.zero_le _
  · exact Nat.min_le_right _ _

end Fraction

/-- Settles O49, by the state of the Bursar for the write, and by the law of `nextFraction` for the measurement. -/
theorem powerCapIsClampedAndSettled : Obligations.PowerCapIsClampedAndSettled := by
  unfold Obligations.PowerCapIsClampedAndSettled
  refine ⟨fun v s c hc => ⟨fun hserves => ?_, fun hd ha hb => ?_, fun hd ha hb => ?_⟩, fun w s hb => ?_, fun w p => ?_⟩
  · rw [exec_powerCapWrite (powerCapWriteStep_of_serves hserves), State.powerCap_eq hc]
    rfl
  · rw [exec_powerCapWrite (powerCapWriteStep_of_restarting hd ha hb)]
    rfl
  · rw [exec_powerCapWrite (powerCapWriteStep_of_failed hd ha hb), capFrame_hostError]
  · exact congrArg (fun t => Host.Outcome.next (s.capFrame t)) (bursarPowerMeasureStep_of_running hb)
  · have hle := nextFraction_le p w
    exact ⟨Nat.le_trans hle (Nat.min_le_left _ _), Nat.le_trans hle (Nat.min_le_right _ _), nextFraction_of_hold,
      nextFraction_le_of_over⟩

end Sys2Proof.Machine
end

section
/-!
Program switches (R333, R334): the start of a switch at a boundary of the slot table, a Curator that stops for it, and its completion.
-/
namespace Sys2Proof.Machine

section Begin
variable {q p : Nat} {s : State} (hp : p = s.partOf q)
include hp

theorem programSwitchStep_of_none (hb : s.switchBeat p = none) : programSwitchStep q s = s := by
  simp only [programSwitchStep, ← hp, hb, ite_self]

/-- The switch begins at its boundary; with nothing that runs or waits, no Curator stops and no footprint counts into t_sw (R333,
R334). -/
theorem programSwitchStep_of_idle {u : State} {b : Nat} (hon : s.regOn = true) (hres : s.inReset p = false)
    (hb : s.switchBeat p = some b) (hu : u = s.runToNow (1024 * b)) (hout : u.runningIn p (u.prt p).active = none)
    (hinc : u.waitingIn p ((u.prt p).table.prog u.beat) = none) : programSwitchStep q s =
    u.onPart p (fun t => { t with switching := some (u.time.ticks + switchNs ((u.prt p).active.bind (fun k => ((u.prt p).prog k).image))
      (((u.prt p).table.prog u.beat).bind (fun k => ((u.prt p).prog k).image)) false false * nsT, (u.prt p).table.prog u.beat) }) := by
  simp only [programSwitchStep, ← hp, hon, hres, hb, ← hu, hout, hinc, Bool.not_true, Bool.or_self, Bool.false_eq_true, if_false,
    Option.isSome_none, Option.elim_none, List.foldl_nil]

/-- A switch completes once no engine of the outgoing program works and none of its clusters has halted (R333). -/
theorem switchCompleteStep_of_quiet {due : Nat} {inc : Option Nat} (hsw : (s.prt p).switching = some (due, inc)) (hon : s.regOn = true)
    (hres : s.inReset p = false)
    (hquiet : ∀ c ∈ (s.runningIn p (s.prt p).active).elim [] Task.clusters, (s.cl c).quiet = true ∧ (s.cl c).halt = none) :
    switchCompleteStep q s = (((s.runTo due).swap p (s.prt p).active inc).onPart p (fun t => { t with
      active := inc, switching := none })).sliceCtxs p (s.prt p).active inc := by
  have hall : ((s.runningIn p (s.prt p).active).elim [] Task.clusters).all (fun c => (s.cl c).quiet && (s.cl c).halt.isNone) = true := by
    refine List.all_eq_true.mpr fun c hc => ?_
    obtain ⟨hq, hh⟩ := hquiet c hc
    rw [hq, hh]
    rfl
  simp only [switchCompleteStep, ← hp, hsw, hon, hres, hall, Bool.not_true, Bool.or_self, Bool.false_eq_true, if_false]

end Begin

/-- A Curator that is at work stops dispatch, and keeps what it was doing to resume it (R333). -/
theorem Cluster.stopped_of_at_work {k : Cluster} {m : CuratorMode} (hm : k.cur.mode = m) (hi : m ≠ .idle) (hh : m ≠ .halted)
    (hs : m ≠ .switched) : k.stopped = { k with cur := { k.cur with mode := .switched, resume := m }, wake := k.wake || k.parked } := by
  subst hm
  unfold Cluster.stopped
  split
  · next h => exact absurd h hi
  · next h => exact absurd h hh
  · next h => exact absurd h hs
  · rfl

/-- Settles O60, by its rows: the boundary, where a switch begins or none is due, the stop of a Curator, and the completion. -/
theorem programsSwitchAtTheirSlots : Obligations.ProgramsSwitchAtTheirSlots := by
  unfold Obligations.ProgramsSwitchAtTheirSlots
  refine ⟨fun q s u p b hp hon hres => ⟨fun hb hn => ?_, fun hb hu hout hinc => ?_⟩, fun k m hm hi hh hs => ?_,
    fun q s p due inc hp hsw hon hres hquiet => ?_⟩
  · have hstep : (programSwitchStep q s).settle = s := by rw [programSwitchStep_of_none hp hb, State.settle_of_nil hn]
    exact congrArg (fun t => Host.Outcome.next (s.admitFrame t)) hstep
  · exact congrArg (fun t : State => Host.Outcome.next (s.admitFrame t.settle)) (programSwitchStep_of_idle hp hon hres hb hu hout hinc)
  · rw [Cluster.stopped_of_at_work hm hi hh hs]
    exact ⟨rfl, rfl, rfl⟩
  · exact congrArg (fun t : State => Host.Outcome.next (s.admitFrame t.settle)) (switchCompleteStep_of_quiet hp hsw hon hres hquiet)

end Sys2Proof.Machine
end

section
/-!
Ledger sums (R355 to R357): what an FP32 contribution is worth in a ledger's units, ledgers as a commutative monoid under `join`, and
the range in which N is the integer sum.
-/
namespace Sys2Proof.Machine

/-! ### The three fields of an FP32 code -/

section Fields
variable (w : W32)

theorem codeSign_fp32 : codeSign fp32 w.toNat = bit w 31 := rfl

theorem bit_31_eq_msb : bit w 31 = w.msb := by
  rw [bit, BitVec.msb_eq_getLsbD_last, BitVec.getLsbD]

theorem codeMag_fp32 : codeMag fp32 w.toNat = 2 ^ 23 * fld w 23 8 + fld w 0 23 := by
  simp only [codeMag, fp32, fld, nfld_eq]
  omega

/-- The value of an FP32 code by its fields (R72, R73). -/
theorem decode_fp32 : decode fp32 w.toNat =
    if fld w 23 8 = 255 then if fld w 0 23 = 0 then .inf (bit w 31) else .nan
    else if fld w 23 8 = 0 then if fld w 0 23 = 0 then .zero (bit w 31) else .num (bit w 31) (fld w 0 23) 1 (-149)
    else .num (bit w 31) (2 ^ 23 + fld w 0 23) 1 ((fld w 23 8 : Int) - 150) := by
  have hmag := codeMag_fp32 w
  have hex : fld w 23 8 < 2 ^ 8 := nfld_lt ..
  have hfr : fld w 0 23 < 2 ^ 23 := nfld_lt ..
  have htop : fp32.top = 2 ^ 23 * 255 - 1 := rfl
  have hp : fp32.p = 23 := rfl
  split
  · rw [decode_of_top_lt (by omega), codeSign_fp32]
    exact if_congr ⟨fun h => by omega, fun h => ⟨rfl, by omega⟩⟩ rfl rfl
  · split
    · next h0 =>
      rw [decode_of_lt (by omega) (by rw [hp]; omega), hmag, h0, codeSign_fp32, Nat.mul_zero, Nat.zero_add]
      rfl
    · rw [decode_of_ge (by omega) (by rw [hp]; omega), hmag, hp, Nat.mul_add_div (by decide), Nat.mul_add_mod,
        Nat.div_eq_of_lt hfr, Nat.mod_eq_of_lt hfr, codeSign_fp32]
      simp only [Nat.add_zero, show fp32.bias = 127 from rfl, Val.num.injEq, true_and]
      omega

theorem ledgerMag_lt (h : fld w 23 8 ≠ 255) : ledgerMag w < 2 ^ 288 := by
  have hex : fld w 23 8 < 2 ^ 8 := nfld_lt ..
  have hfr : fld w 0 23 < 2 ^ 23 := nfld_lt ..
  have hpow : (2 : Nat) ^ 288 = 2 ^ 24 * 2 ^ 264 := by rw [← Nat.pow_add]
  simp only [ledgerMag, Nat.shiftLeft_eq]
  rw [hpow]
  split
  · exact Nat.mul_lt_mul'' (by omega) (Nat.pow_lt_pow_right (by decide) (by decide))
  · exact Nat.mul_lt_mul_of_lt_of_le (by omega) (Nat.pow_le_pow_right (by decide) (by omega)) (by positivity)

end Fields

/-! ### A contribution in a ledger's units -/

section Contribution
variable {w : W32}

theorem ledgerUnits_of_finite (h : fld w 23 8 ≠ 255) : ledgerUnits w = (if bit w 31 then -1 else 1) * (ledgerMag w : Int) := by
  have hn : nonFinite w = false := by simpa [nonFinite] using h
  rw [ledgerUnits, hn, bit_31_eq_msb]
  cases w.msb <;> simp

theorem ledgerUnits_of_nonFinite (h : fld w 23 8 = 255) : ledgerUnits w = 0 := by
  have hn : nonFinite w = true := by simpa [nonFinite] using h
  rw [ledgerUnits, hn]
  rfl

theorem natAbs_ledgerUnits_lt (w : W32) : (ledgerUnits w).natAbs < 2 ^ 288 := by
  by_cases h : fld w 23 8 = 255
  · rw [ledgerUnits_of_nonFinite h, Int.natAbs_zero]; positivity
  · have hm := ledgerMag_lt w h
    rw [ledgerUnits_of_finite h]
    generalize (2 : Nat) ^ 288 = bound at hm ⊢
    split <;> omega

theorem fields_of_decode_zero {sg : Bool} (h : decode fp32 w.toNat = .zero sg) : fld w 23 8 = 0 ∧ fld w 0 23 = 0 := by
  rw [decode_fp32] at h
  split_ifs at h with _ _ hex hfr
  exact ⟨hex, hfr⟩

theorem fields_of_decode_inf {sg : Bool} (h : decode fp32 w.toNat = .inf sg) : fld w 23 8 = 255 ∧ fld w 0 23 = 0 ∧ bit w 31 = sg := by
  rw [decode_fp32] at h
  split_ifs at h with hex hfr
  exact ⟨hex, hfr, Val.inf.inj h⟩

theorem fields_of_decode_nan (h : decode fp32 w.toNat = .nan) : fld w 23 8 = 255 ∧ fld w 0 23 ≠ 0 := by
  rw [decode_fp32] at h
  split_ifs at h with hex hfr
  exact ⟨hex, hfr⟩

/-- A non-zero value is a whole number of units of 2^-160, the smallest subnormal being 2^11 of them. -/
theorem ledgerUnits_of_decode_num {sg : Bool} {n d : Nat} {e : Int} (h : decode fp32 w.toNat = .num sg n d e) :
    d = 1 ∧ -160 ≤ e ∧ ledgerUnits w = (if sg then -1 else 1) * ((n * 2 ^ (e + 160).toNat : Nat) : Int) := by
  rw [decode_fp32] at h
  split_ifs at h with hfin _ hex <;> cases h <;> rw [ledgerUnits_of_finite hfin, ledgerMag]
  · exact ⟨rfl, by decide, by rw [if_pos hex, Nat.shiftLeft_eq]; rfl⟩
  · refine ⟨rfl, by omega, ?_⟩
    rw [if_neg hex, Nat.shiftLeft_eq, show ((fld w 23 8 : Int) - 150 + 160).toNat = fld w 23 8 + 10 by omega]

/-- What a contribution says of a ledger by itself: its units, or its flag. -/
def ledgerOf (w : W32) : Ledger :=
  { n := BitVec.ofInt 320 (ledgerUnits w)
    nan := fld w 23 8 == 255 && fld w 0 23 != 0
    pinf := fld w 23 8 == 255 && fld w 0 23 == 0 && !bit w 31
    ninf := fld w 23 8 == 255 && fld w 0 23 == 0 && bit w 31 }

theorem Ledger.add_of_finite (l : Ledger) (h : fld w 23 8 ≠ 255) : l.add w = { l with n := l.n + BitVec.ofInt 320 (ledgerUnits w) } := by
  rw [Ledger.add, if_neg h, ledgerUnits_of_finite h]
  cases bit w 31
  · simp [BitVec.ofInt_natCast]
  · simp [BitVec.sub_eq_add_neg, BitVec.ofInt_neg, BitVec.ofInt_natCast]

/-- Adding a contribution is joining what it says by itself (R356, R357). -/
theorem Ledger.add_eq_join (l : Ledger) (w : W32) : l.add w = l.join (ledgerOf w) := by
  by_cases h : fld w 23 8 = 255
  · have hn : BitVec.ofInt 320 (ledgerUnits w) = 0 := by rw [ledgerUnits_of_nonFinite h]; rfl
    by_cases hf : fld w 0 23 = 0 <;> cases hb : bit w 31 <;> simp [Ledger.add, Ledger.join, ledgerOf, hn, h, hf, hb]
  · simp [Ledger.add_of_finite l h, Ledger.join, ledgerOf, h]

end Contribution

/-! ### Ledgers under join -/

theorem Ledger.join_assoc (a b c : Ledger) : (a.join b).join c = a.join (b.join c) := by
  simp [Ledger.join, BitVec.add_assoc, Bool.or_assoc]

theorem Ledger.join_comm (a b : Ledger) : a.join b = b.join a := by
  simp [Ledger.join, BitVec.add_comm a.n, Bool.or_comm a.nan, Bool.or_comm a.pinf, Bool.or_comm a.ninf]

@[simp] theorem Ledger.join_empty (a : Ledger) : a.join {} = a := by simp [Ledger.join]

/-- Contributions added to a ledger are the ledger joined with their own. -/
theorem Ledger.foldl_add (l : Ledger) (ws : List W32) : ws.foldl Ledger.add l = l.join (ws.foldl Ledger.add {}) := by
  induction ws using List.reverseRecOn with
  | nil => exact (Ledger.join_empty l).symm
  | append_singleton ws w ih => rw [List.foldl_concat, List.foldl_concat, ih, Ledger.add_eq_join, Ledger.add_eq_join, Ledger.join_assoc]

theorem Ledger.add_right_comm (l : Ledger) (v w : W32) : (l.add v).add w = (l.add w).add v := by
  simp only [Ledger.add_eq_join, Ledger.join_assoc, Ledger.join_comm (ledgerOf v)]

theorem Ledger.foldl_add_perm {ws vs : List W32} (h : ws.Perm vs) (l : Ledger) : ws.foldl Ledger.add l = vs.foldl Ledger.add l :=
  h.foldl_eq' (fun _ _ _ _ _ => Ledger.add_right_comm _ _ _) l

/-! ### N as the integer sum -/

theorem Ledger.add_n (l : Ledger) (w : W32) : (l.add w).n = l.n + BitVec.ofInt 320 (ledgerUnits w) := by
  rw [Ledger.add_eq_join]
  rfl

theorem Ledger.foldl_add_n (l : Ledger) (ws : List W32) : (ws.foldl Ledger.add l).n = l.n + BitVec.ofInt 320 (ws.map ledgerUnits).sum := by
  induction ws generalizing l with
  | nil => simp
  | cons w ws ih => rw [List.foldl_cons, ih, Ledger.add_n, List.map_cons, List.sum_cons, BitVec.ofInt_add, BitVec.add_assoc]

theorem natAbs_sum_ledgerUnits_le (ws : List W32) : (ws.map ledgerUnits).sum.natAbs ≤ ws.length * 2 ^ 288 := by
  induction ws with
  | nil => simp
  | cons w ws ih =>
    have hw := natAbs_ledgerUnits_lt w
    have hadd := Int.natAbs_add_le (ledgerUnits w) (ws.map ledgerUnits).sum
    rw [List.map_cons, List.sum_cons, List.length_cons, Nat.succ_mul]
    exact hadd.trans (Nat.add_comm _ (ledgerUnits w).natAbs ▸ Nat.add_le_add ih (Nat.le_of_lt hw))

/-- Below 2^31 contributions the sum stays in the range of N. -/
theorem Ledger.toInt_foldl_add_n {ws : List W32} (h : ws.length < 2 ^ 31) : (ws.foldl Ledger.add {}).n.toInt = (ws.map ledgerUnits).sum := by
  have hsum := natAbs_sum_ledgerUnits_le ws
  have hlt : ws.length * 2 ^ 288 < 2 ^ 31 * 2 ^ 288 := Nat.mul_lt_mul_of_pos_right h (by positivity)
  have hpow : (2 : Nat) ^ 320 = 2 * (2 ^ 31 * 2 ^ 288) := by decide
  rw [Ledger.foldl_add_n, show ({} : Ledger).n = 0#320 from rfl, BitVec.zero_add, BitVec.toInt_ofInt, hpow]
  generalize (2 : Nat) ^ 31 * 2 ^ 288 = bound at hlt ⊢
  exact Int.bmod_eq_of_le (by omega) (by omega)

/-- Settles O13: a contribution is the ledger it makes by itself, and ledgers join commutatively and associatively. -/
theorem ledgersAddExactlyInAnyOrder : Obligations.LedgersAddExactlyInAnyOrder := by
  unfold Obligations.LedgersAddExactlyInAnyOrder
  refine ⟨fun l w => ?_, fun _ _ => rfl, fun ws vs h => Ledger.foldl_add_perm h {}, fun ws vs => ?_, fun ws => Ledger.toInt_foldl_add_n⟩
  · refine ⟨Ledger.add_of_finite l, fun sg n d e => ledgerUnits_of_decode_num, fun sg h => ?_, fun h => ?_, fun h => ?_, fun h => ?_⟩
    · obtain ⟨hex, hfr⟩ := fields_of_decode_zero h
      have hmag : ledgerMag w = 0 := by simp [ledgerMag, hex, hfr]
      simp [Ledger.add, hex, hmag]
    · obtain ⟨hex, hfr, hsign⟩ := fields_of_decode_inf h
      simp [Ledger.add, hex, hfr, hsign]
    · obtain ⟨hex, hfr, hsign⟩ := fields_of_decode_inf h
      simp [Ledger.add, hex, hfr, hsign]
    · obtain ⟨hex, hfr⟩ := fields_of_decode_nan h
      simp [Ledger.add, hex, hfr]
  · rw [List.foldl_append, Ledger.foldl_add]

end Sys2Proof.Machine
end

section
/-!
The fragment encoding read back (R366, R367): a header gives the flags, sign and limbs of its element, a group gives its elements, a
packet gives its groups, and the packets of a chunk give what the sender held.
-/
namespace Sys2Proof.Machine

/-! ### Bytes and numbers in rows -/

@[simp] theorem leBytes_length (n k : Nat) : (leBytes n k).length = k := by
  induction k generalizing n with
  | zero => rfl
  | succ k ih => rw [leBytes, List.length_cons, ih]

theorem flatMap_leBytes_length {α : Type} (f : α → Nat) (c : Nat) (xs : List α) :
    (xs.flatMap (fun x => leBytes (f x) c)).length = c * xs.length := by
  induction xs with
  | nil => rfl
  | cons x xs ih => rw [List.flatMap_cons, List.length_append, leBytes_length, ih, List.length_cons, Nat.mul_succ, Nat.add_comm]

/-- Numbers laid down in fields of `c` bytes are read back field by field. -/
theorem map_leNat_fields {α : Type} (f : α → Nat) (c : Nat) (xs : List α) (rest : List Byte) :
    (List.range xs.length).map (fun k => leNat (((xs.flatMap (fun x => leBytes (f x) c) ++ rest).drop (c * k)).take c)) =
      xs.map (fun x => f x % 2 ^ (8 * c)) := by
  induction xs with
  | nil => rfl
  | cons x xs ih =>
    have hfirst : leNat (((leBytes (f x) c ++ (xs.flatMap (fun x => leBytes (f x) c) ++ rest)).drop (c * 0)).take c) = f x % 2 ^ (8 * c) := by
      rw [Nat.mul_zero, List.drop_zero, List.take_left' (leBytes_length _ _), leNat_leBytes]
    have hnext : ∀ k, (leBytes (f x) c ++ (xs.flatMap (fun x => leBytes (f x) c) ++ rest)).drop (c * (k + 1)) =
        (xs.flatMap (fun x => leBytes (f x) c) ++ rest).drop (c * k) := fun k => by
      rw [Nat.mul_succ, Nat.add_comm, ← List.drop_drop, List.drop_left' (leBytes_length _ _)]
    rw [List.length_cons, List.range_succ_eq_map, List.map_cons, List.map_map, List.flatMap_cons, List.append_assoc, hfirst, List.map_cons,
      ← ih]
    simp only [Function.comp_def, Nat.succ_eq_add_one, hnext]

theorem padTo_eq (n : Nat) (l : List Byte) (h : l.length ≤ n) : padTo n l = l ++ List.replicate (n - l.length) 0 := by
  induction n generalizing l with
  | zero => rw [List.length_eq_zero_iff.mp (Nat.le_zero.mp h)]; rfl
  | succ n ih =>
    cases l with
    | nil => rw [padTo, ih [] (Nat.zero_le n)]; rfl
    | cons b t =>
      rw [List.length_cons] at h
      rw [padTo, ih t (by omega), List.length_cons, Nat.add_sub_add_right]
      rfl

/-- Bit `i` of a number counted from the bits it has: only those below `n` are set. -/
theorem nfld_bitSum_of_le (p : Nat → Bool) {n lo : Nat} (h : n ≤ lo) (len : Nat) : nfld (bitSum p n) lo len = 0 := by
  rw [nfld_eq, Nat.div_eq_of_lt (Nat.lt_of_lt_of_le (bitSum_lt p n) (Nat.pow_le_pow_right (by decide) h)), Nat.zero_mod]

theorem foldl_two_pow_filter (p : Nat → Bool) (n : Nat) : ((List.range n).filter p).foldl (fun a i => a + 2 ^ i) 0 = bitSum p n := by
  rw [List.foldl_filter, bitSum]
  congr 1
  funext a i
  cases p i <;> simp [b2n]

/-- A number is the sum of its limbs. -/
theorem foldl_limbs (m : Nat) (n : Nat) : (List.range n).foldl (fun a i => a + nfld m (32 * i) 32 * 2 ^ (32 * i)) 0 = m % 2 ^ (32 * n) := by
  induction n with
  | zero => simp [Nat.mod_one]
  | succ n ih =>
    rw [List.range_succ, List.foldl_concat, ih, nfld_eq, Nat.mul_succ, Nat.pow_add, Nat.mod_mul, Nat.mul_comm (2 ^ (32 * n))]

theorem bitSum_congr {p q : Nat → Bool} : ∀ {n : Nat}, (∀ i < n, p i = q i) → bitSum p n = bitSum q n
  | 0, _ => rfl
  | n + 1, h => by rw [bitSum_succ, bitSum_succ, h n (Nat.lt_succ_self n), bitSum_congr (fun i hi => h i (Nat.lt_succ_of_lt hi))]

/-! ### An element -/

/-- What the receiver has of an element: N is not carried beside a flag (R367). -/
def Ledger.shipped (l : Ledger) : Ledger := if l.flagged then { l with n := 0 } else l

/-- Limb `i` is carried (R367). -/
def Ledger.carries (l : Ledger) (i : Nat) : Bool := !l.flagged && l.limb i != 0

/-- The bits of an element header (R367). -/
def Ledger.headerBit (l : Ledger) : Nat → Bool
  | 10 => l.neg && !l.flagged
  | 11 => l.nan
  | 12 => l.pinf
  | 13 => l.ninf
  | i => l.carries i

section Element
variable (l : Ledger)

theorem Ledger.headerBit_of_lt {i : Nat} (h : i < 10) : l.headerBit i = l.carries i := by
  interval_cases i <;> rfl

theorem Ledger.carried_eq : l.carried = (List.range 10).filter l.carries := by
  unfold Ledger.carried Ledger.carries
  cases l.flagged
  · rfl
  · exact (List.filter_eq_nil_iff.mpr (fun _ _ => Bool.false_ne_true)).symm

theorem Ledger.header_eq : l.header = bitSum l.headerBit 14 := by
  have hlimbs : bitSum l.headerBit 10 = bitSum l.carries 10 := bitSum_congr (fun _ => l.headerBit_of_lt)
  have hsign : (if l.neg && !l.flagged then 2 ^ 10 else 0) = b2n (l.neg && !l.flagged) * 2 ^ 10 := by
    cases l.neg && !l.flagged <;> rfl
  rw [Ledger.header, l.carried_eq, foldl_two_pow_filter, ← hlimbs, hsign]
  simp only [bitSum_succ l.headerBit, Ledger.headerBit]

theorem Ledger.testBit_header {i : Nat} (h : i < 14) : l.header.testBit i = l.headerBit i := by
  rw [l.header_eq, testBit_bitSum _ h]

theorem Ledger.header_lt : l.header < 2 ^ 14 := l.header_eq ▸ bitSum_lt _ 14

theorem Ledger.filter_header : (List.range 10).filter (fun i => l.header.testBit i) = l.carried := by
  rw [l.carried_eq]
  refine List.filter_congr (fun i hi => ?_)
  have hi := List.mem_range.mp hi
  rw [l.testBit_header (by omega), l.headerBit_of_lt hi]

/-- The reserved bits of a header are zero. -/
theorem Ledger.header_reserved : nfld l.header 14 2 = 0 := by rw [l.header_eq, nfld_bitSum_of_le _ (Nat.le_refl 14)]

/-- The flag bits of a header are zero when the element carries none. -/
theorem Ledger.header_flags : (nfld l.header 11 3 == 0) = !l.flagged := by
  have hb (i : Nat) (hi : i < 3) : (nfld l.header 11 3).testBit i = l.headerBit (11 + i) := by
    rw [nfld, Nat.testBit_mod_two_pow, Nat.testBit_shiftRight, l.testBit_header (by omega)]
    simp [hi]
  have h0 : l.nan = (nfld l.header 11 3).testBit 0 := (hb 0 (by decide)).symm
  have h1 : l.pinf = (nfld l.header 11 3).testBit 1 := (hb 1 (by decide)).symm
  have h2 : l.ninf = (nfld l.header 11 3).testBit 2 := (hb 2 (by decide)).symm
  rw [Ledger.flagged, h0, h1, h2]
  have hlt : nfld l.header 11 3 < 2 ^ 3 := nfld_lt ..
  generalize nfld l.header 11 3 = f at hlt
  revert f
  decide

theorem Ledger.limb_lt (i : Nat) : l.limb i < 2 ^ 32 := nfld_lt ..

/-- The carried limbs add up to the magnitude. -/
theorem Ledger.foldl_carried (h : l.mag < 2 ^ 320) :
    l.carried.foldl (fun a i => a + l.limb i * 2 ^ (32 * i)) 0 = if l.flagged then 0 else l.mag := by
  unfold Ledger.carried
  split
  · rfl
  · have hsum := foldl_limbs l.mag 10
    rw [Nat.mod_eq_of_lt h] at hsum
    rw [List.foldl_filter, ← hsum]
    congr 1
    funext a i
    by_cases hz : l.limb i = 0
    · rw [← Ledger.limb]; simp [hz]
    · rw [← Ledger.limb]; simp [hz]

/-- An element without a flag carries a limb unless N is zero. -/
theorem Ledger.carried_eq_nil (h : l.mag < 2 ^ 320) (hf : l.flagged = false) (hc : l.carried = []) : l.n = 0 := by
  have hmag := l.foldl_carried h
  rw [hc, hf] at hmag
  exact BitVec.toInt_inj.mp (Int.natAbs_eq_zero.mp hmag.symm)

/-- N from its sign and magnitude. -/
theorem Ledger.n_of_mag : (if l.neg then 0 - BitVec.ofNat 320 l.mag else BitVec.ofNat 320 l.mag) = l.n := by
  have hint : BitVec.ofInt 320 l.n.toInt = l.n := BitVec.ofInt_toInt
  have hsign : l.neg = decide (l.n.toInt < 0) := BitVec.msb_eq_toInt
  rw [hsign, Ledger.mag, ← BitVec.ofInt_natCast]
  by_cases hneg : l.n.toInt < 0
  · have habs : ((l.n.toInt.natAbs : Nat) : Int) = -l.n.toInt := Int.ofNat_natAbs_of_nonpos (Int.le_of_lt hneg)
    rw [habs, BitVec.ofInt_neg, hint, if_pos (decide_eq_true hneg)]
    exact (BitVec.zero_sub _).trans BitVec.neg_neg
  · have habs : ((l.n.toInt.natAbs : Nat) : Int) = l.n.toInt := Int.natAbs_of_nonneg (Int.not_lt.mp hneg)
    rw [habs, hint, decide_eq_false hneg]
    rfl

/-- A receiver rebuilds from a header and the carried magnitude what the sender had. -/
theorem Ledger.shipped_of_header {m : Nat} (hm : m = if l.flagged then 0 else l.mag) :
    ({ n := if l.header.testBit 10 then 0 - BitVec.ofNat 320 m else BitVec.ofNat 320 m, nan := l.header.testBit 11,
       pinf := l.header.testBit 12, ninf := l.header.testBit 13 } : Ledger) = l.shipped := by
  have h10 : l.header.testBit 10 = (l.neg && !l.flagged) := l.testBit_header (by decide)
  have h11 : l.header.testBit 11 = l.nan := l.testBit_header (by decide)
  have h12 : l.header.testBit 12 = l.pinf := l.testBit_header (by decide)
  have h13 : l.header.testBit 13 = l.ninf := l.testBit_header (by decide)
  have hn := l.n_of_mag
  rw [hm, h10, h11, h12, h13, Ledger.shipped]
  cases hf : l.flagged
  · simp only [Bool.not_false, Bool.and_true, Bool.false_eq_true, if_false, hn]
  · simp

end Element

/-! ### The elements of a group -/

/-- The limbs of an element as bytes (R367). -/
def Ledger.limbBytes (l : Ledger) : List Byte := l.carried.flatMap (fun i => leBytes (l.limb i) 4)

/-- An element that a sender sends: present, and with a magnitude below 2^319. -/
def Ledger.sendable (l : Ledger) : Prop := l.present = true ∧ l.mag < 2 ^ 319

theorem Ledger.limb_ne_zero_of_carried {l : Ledger} {i : Nat} (hi : i ∈ l.carried) : l.limb i ≠ 0 := by
  rw [Ledger.carried_eq, List.mem_filter, Ledger.carries, Bool.and_eq_true, bne_iff_ne] at hi
  exact hi.2.2

section Sendable
variable {l : Ledger} (h : l.sendable)
include h

theorem Ledger.sendable.mag_lt : l.mag < 2 ^ 320 := Nat.lt_trans h.2 (Nat.pow_lt_pow_right (by decide) (by decide))

/-- An element carries limbs or a flag, and not both. -/
theorem Ledger.sendable.carried_isEmpty : (l.carried.length == 0) = l.flagged := by
  cases hf : l.flagged
  · refine beq_eq_false_iff_ne.mpr (fun hc => ?_)
    have hn := l.carried_eq_nil h.mag_lt hf (List.length_eq_zero_iff.mp hc)
    have hp := h.1
    rw [Ledger.present, hn, hf] at hp
    exact absurd hp (by decide)
  · simp [Ledger.carried, hf]

theorem Ledger.sendable.carriedMag_testBit : (if l.flagged then 0 else l.mag).testBit 319 = false := by
  refine Nat.testBit_lt_two_pow (Nat.lt_of_le_of_lt ?_ h.2)
  split
  · exact Nat.zero_le _
  · exact Nat.le_refl _

/-- A receiver takes one element's limbs, finds nothing malformed and has the element as it was sent. -/
theorem readLimbs_cons (off : Nat) (t : List (Nat × Nat)) (bs : List Byte) :
    readLimbs ((off, l.header) :: t) (l.limbBytes ++ bs) = (readLimbs t bs).map (fun x => ((off, l.shipped) :: x.1, x.2)) := by
  have hwords : (List.range l.carried.length).map (fun k => leNat (((l.limbBytes ++ bs).drop (4 * k)).take 4)) = l.carried.map l.limb := by
    rw [Ledger.limbBytes, map_leNat_fields]
    exact List.map_congr_left (fun i _ => Nat.mod_eq_of_lt (l.limb_lt i))
  have hmag : (l.carried.zip (l.carried.map l.limb)).foldl (fun a x => a + x.2 * 2 ^ (32 * x.1)) 0 = if l.flagged then 0 else l.mag := by
    rw [← List.map_prod_left_eq_zip, List.foldl_map, l.foldl_carried h.mag_lt]
  have hlen : l.limbBytes.length = 4 * l.carried.length := flatMap_leBytes_length ..
  have hshort : ¬ (l.limbBytes ++ bs).length < 4 * l.carried.length := by rw [List.length_append, hlen]; omega
  have hnonzero : (l.carried.map l.limb).any (fun w => w == 0) = false := by
    simpa using fun i hi => Ledger.limb_ne_zero_of_carried hi
  have hempty := h.carried_isEmpty
  have hflags := l.header_flags
  have hrest : (l.limbBytes ++ bs).drop (4 * l.carried.length) = bs := List.drop_left' hlen
  rw [readLimbs]
  simp only [l.filter_header, hwords, hmag, hnonzero, l.header_reserved, h.carriedMag_testBit, bne, hempty, hflags, hrest, hshort,
    l.shipped_of_header rfl]
  cases hf : l.flagged <;> cases readLimbs t bs <;> rfl

end Sendable

/-- The elements of a group one after the other. -/
theorem readLimbs_elements (es : List (Nat × Ledger)) (h : ∀ e ∈ es, e.2.sendable) (bs : List Byte) :
    readLimbs (es.map (fun e => (e.1, e.2.header))) (es.flatMap (fun e => e.2.limbBytes) ++ bs) =
      some (es.map (fun e => (e.1, e.2.shipped)), bs) := by
  induction es with
  | nil => rfl
  | cons e es ih =>
    rw [List.map_cons, List.flatMap_cons, List.append_assoc, readLimbs_cons (h e List.mem_cons_self),
      ih (fun e he => h e (List.mem_cons_of_mem _ he))]
    rfl

/-! ### A group -/

/-- The present elements of group `g` with their offsets (R367). -/
def groupElems (sums : Sparse Ledger) (g : Nat) : List (Nat × Ledger) :=
  ((List.range 8).filter (fun i => (sget {} sums (8 * g + i)).present)).map (fun i => (8 * g + i, sget {} sums (8 * g + i)))

/-- The element headers of a group as bytes (R367). -/
def headerBytes (es : List (Nat × Ledger)) : List Byte := es.flatMap (fun e => leBytes e.2.header 2)

theorem headerBytes_length (es : List (Nat × Ledger)) : (headerBytes es).length = 2 * es.length := flatMap_leBytes_length ..

/-- The first word of group `g`: the mask of its present elements, and its number (R367). -/
def groupWord (sums : Sparse Ledger) (g : Nat) : Nat := bitSum (fun i => (sget {} sums (8 * g + i)).present) 8 + g * 256

theorem groupBytes_eq (sums : Sparse Ledger) (g : Nat) : groupBytes sums g = if groupElems sums g = [] then [] else
    leBytes (groupWord sums g) 4 ++ pad4 (headerBytes (groupElems sums g)) ++ (groupElems sums g).flatMap (fun e => e.2.limbBytes) := by
  unfold groupBytes groupElems headerBytes groupWord bitSum
  simp only [List.filter_map, List.isEmpty_iff, List.map_eq_nil_iff, List.flatMap_map, ← List.map_prod_left_eq_zip, List.foldl_map,
    Function.comp_def]
  rfl

theorem filter_groupWord (sums : Sparse Ledger) (g : Nat) : (List.range 8).filter (fun i => (groupWord sums g).testBit i) =
    (List.range 8).filter (fun i => (sget {} sums (8 * g + i)).present) := by
  refine List.filter_congr (fun i hi => ?_)
  have hi := List.mem_range.mp hi
  rw [groupWord, Nat.add_comm, Nat.mul_comm, Nat.testBit_two_pow_mul_add (i := 8) _ (bitSum_lt _ 8), if_pos hi, testBit_bitSum _ hi]

section Group
variable (sums : Sparse Ledger) {g : Nat} (hg : g < 32)
include hg

theorem groupWord_lt : groupWord sums g < 2 ^ 13 := by
  have hm := bitSum_lt (fun i => (sget {} sums (8 * g + i)).present) 8
  unfold groupWord
  omega

theorem groupWord_number : nfld (groupWord sums g) 8 5 = g := by
  have hm := bitSum_lt (fun i => (sget {} sums (8 * g + i)).present) 8
  rw [nfld_eq, groupWord]
  omega

theorem groupWord_reserved : nfld (groupWord sums g) 13 19 = 0 := by
  have hw := groupWord_lt sums hg
  rw [nfld_eq]
  omega

end Group

theorem pad4_eq (l : List Byte) : pad4 l = l ++ List.replicate (roundUp l.length 4 - l.length) 0 :=
  padTo_eq _ _ (by unfold roundUp ceilDiv; omega)

theorem pad4_length (l : List Byte) : (pad4 l).length = roundUp l.length 4 := by
  rw [pad4_eq, List.length_append, List.length_replicate]
  unfold roundUp ceilDiv
  omega

/-- A receiver takes one group and has its elements as they were sent. -/
theorem readGroup_groupBytes {sums : Sparse Ledger} {g : Nat} (hg : g < 32) (hes : groupElems sums g ≠ [])
    (h : ∀ e ∈ groupElems sums g, e.2.sendable) (bs : List Byte) :
    readGroup (groupBytes sums g ++ bs) = some (g, (groupElems sums g).map (fun e => (e.1, e.2.shipped)), bs) := by
  have hn : ((List.range 8).filter (fun i => (sget {} sums (8 * g + i)).present)).length = (groupElems sums g).length :=
    (List.length_map _).symm
  have hoffs : ((List.range 8).filter (fun i => (sget {} sums (8 * g + i)).present)).map (fun i => 8 * g + i) =
      (groupElems sums g).map Prod.fst := by rw [groupElems, List.map_map]; rfl
  rw [groupBytes_eq, if_neg hes, List.append_assoc, List.append_assoc]
  generalize groupElems sums g = es at *
  have hlimbs := readLimbs_elements es h bs
  generalize es.flatMap (fun e => e.2.limbBytes) ++ bs = limbs at hlimbs ⊢
  have hlen : (headerBytes es).length = 2 * es.length := headerBytes_length es
  have hpad : (pad4 (headerBytes es)).length = roundUp (2 * es.length) 4 := by rw [pad4_length, hlen]
  have hfour : ¬ (leBytes (groupWord sums g) 4 ++ (pad4 (headerBytes es) ++ limbs)).length < 4 := by
    rw [List.length_append, leBytes_length]; omega
  have hlong : ¬ (pad4 (headerBytes es) ++ limbs).length < roundUp (2 * es.length) 4 := by rw [List.length_append, hpad]; omega
  have hword : leNat ((leBytes (groupWord sums g) 4 ++ (pad4 (headerBytes es) ++ limbs)).take 4) = groupWord sums g := by
    rw [List.take_left' (leBytes_length _ _), leNat_leBytes, Nat.mod_eq_of_lt (Nat.lt_trans (groupWord_lt sums hg) (by decide))]
  have hdrop : (leBytes (groupWord sums g) 4 ++ (pad4 (headerBytes es) ++ limbs)).drop 4 = pad4 (headerBytes es) ++ limbs :=
    List.drop_left' (leBytes_length _ _)
  have hheads : (List.range es.length).map (fun k => leNat (((pad4 (headerBytes es) ++ limbs).drop (2 * k)).take 2)) =
      es.map (fun e => e.2.header) := by
    rw [pad4_eq, List.append_assoc, headerBytes, map_leNat_fields]
    exact List.map_congr_left (fun e _ => Nat.mod_eq_of_lt (Nat.lt_trans e.2.header_lt (by decide)))
  have hzeros : (((pad4 (headerBytes es) ++ limbs).take (roundUp (2 * es.length) 4)).drop (2 * es.length)).any (fun b => b != 0) = false := by
    rw [List.take_left' hpad, pad4_eq, List.drop_left' hlen]
    simp
  have hrest : (pad4 (headerBytes es) ++ limbs).drop (roundUp (2 * es.length) 4) = limbs := List.drop_left' hpad
  have hzip : (es.map Prod.fst).zip (es.map (fun e => e.2.header)) = es.map (fun e => (e.1, e.2.header)) := List.zip_map' ..
  rw [readGroup]
  simp only [hfour, hword, filter_groupWord, groupWord_number sums hg, groupWord_reserved sums hg, hdrop, hn, hoffs, hheads, hzeros, hrest,
    hzip, hlong, hlimbs]
  rfl

/-! ### The packets of a fragment -/

/-- The groups of a chunk that are sent in order `gs`: each has a present element, and all of them can be sent (R366). -/
def Sends (sums : Sparse Ledger) (gs : List Nat) : Prop :=
  ∀ g ∈ gs, g < 32 ∧ groupElems sums g ≠ [] ∧ ∀ e ∈ groupElems sums g, e.2.sendable

/-- The elements of groups `gs` as a receiver has them. -/
def receivedElems (sums : Sparse Ledger) (gs : List Nat) : List (Nat × Ledger) :=
  gs.flatMap (fun g => (groupElems sums g).map (fun e => (e.1, e.2.shipped)))

theorem groupBytes_length_pos {sums : Sparse Ledger} {g : Nat} (h : groupElems sums g ≠ []) : 4 ≤ (groupBytes sums g).length := by
  rw [groupBytes_eq, if_neg h, List.length_append, List.length_append, leBytes_length]
  omega

/-- The groups of a packet are read in order, each above the one before. -/
theorem readGroups_groups {sums : Sparse Ledger} {gs : List Nat} (h : Sends sums gs) {k : Nat} (hk : gs.length ≤ k) {prev : Option Nat}
    (hprev : ∀ p ∈ prev, ∀ g ∈ gs, p < g) (hup : gs.Pairwise (· < ·)) :
    readGroups k prev (gs.flatMap (groupBytes sums)) = some (gs.map (fun g => (g, (groupElems sums g).map (fun e => (e.1, e.2.shipped))))) := by
  induction gs generalizing k prev with
  | nil => cases k <;> rfl
  | cons g gs ih =>
    obtain ⟨hg, hes, hsend⟩ := h g List.mem_cons_self
    obtain ⟨hfirst, hup⟩ := List.pairwise_cons.mp hup
    obtain ⟨k, rfl⟩ := Nat.exists_eq_add_one_of_ne_zero (Nat.ne_of_gt (Nat.lt_of_lt_of_le (Nat.succ_pos _) hk))
    have hlow : prev.any (fun p => decide (g ≤ p)) = false := by
      cases prev with
      | none => rfl
      | some p => exact decide_eq_false (Nat.not_le.mpr (hprev p rfl g List.mem_cons_self))
    have hnext := ih (fun x hx => h x (List.mem_cons_of_mem _ hx)) (Nat.le_of_succ_le_succ hk) (prev := some g)
      (fun p hp x hx => Option.some.inj hp ▸ hfirst x hx) hup
    have hread := readGroup_groupBytes hg hes hsend (gs.flatMap (groupBytes sums))
    have hpos := groupBytes_length_pos hes
    rw [List.flatMap_cons, readGroups]
    · simp only [hread, hlow, hnext]
      rfl
    · intro hnil
      rw [(List.append_eq_nil_iff.mp hnil).1] at hpos
      exact absurd hpos (by decide)

/-- The (aux, payload) of the packet of groups `gs` (R366). -/
def fragPacket (sums : Sparse Ledger) (last : Bool) (gs : List Nat) : Nat × List Byte :=
  (gs.headD 0 + gs.length * 32 + (gs.flatMap (groupBytes sums)).length * 2 ^ 11 + (if last then 2 ^ 21 else 0), gs.flatMap (groupBytes sums))

/-- The fields of a packet's aux word (R366). -/
theorem fields_of_aux {first groups bytes aux : Nat} {last : Bool} (hf : first < 32) (hg : groups ≤ 32) (hb : bytes ≤ 512)
    (ha : aux = first + groups * 32 + bytes * 2 ^ 11 + (if last then 2 ^ 21 else 0)) :
    fld (BitVec.ofNat 32 aux) 0 5 = first ∧ fld (BitVec.ofNat 32 aux) 5 6 = groups ∧ fld (BitVec.ofNat 32 aux) 11 10 = bytes ∧
      bit (BitVec.ofNat 32 aux) 21 = last ∧ fld (BitVec.ofNat 32 aux) 22 10 = 0 := by
  have hlast := b2n_lt_two last
  have hflag : (if last then 2 ^ 21 else 0) = b2n last * 2 ^ 21 := by cases last <;> rfl
  have hnat : (BitVec.ofNat 32 aux).toNat = first + groups * 32 + bytes * 2 ^ 11 + b2n last * 2 ^ 21 := by
    rw [BitVec.toNat_ofNat, ha, hflag]
    omega
  simp only [fld, bit, hnat, nfld_eq, Nat.testBit_eq_decide_div_mod_eq]
  refine ⟨by omega, by omega, by omega, ?_, by omega⟩
  have hbit : (first + groups * 32 + bytes * 2 ^ 11 + b2n last * 2 ^ 21) / 2 ^ 21 % 2 = b2n last := by omega
  rw [hbit]
  cases last <;> rfl

theorem length_le_of_rising {n : Nat} {gs : List Nat} (h : ∀ g ∈ gs, g < n) (hup : gs.Pairwise (· < ·)) : gs.length ≤ n := by
  have hnodup : gs.Nodup := hup.imp Nat.ne_of_lt
  simpa using (List.subperm_of_subset hnodup (fun g hg => List.mem_range.mpr (h g hg))).length_le

/-- A packet of groups is read back whole (R366). -/
theorem readFragment_fragPacket {sums : Sparse Ledger} {gs : List Nat} (h : Sends sums gs) (hfit : (gs.flatMap (groupBytes sums)).length ≤ 512)
    {prev : Option Nat} (hprev : ∀ p ∈ prev, ∀ g ∈ gs, p < g) (hup : gs.Pairwise (· < ·)) (last : Bool) :
    readFragment prev (BitVec.ofNat 32 (fragPacket sums last gs).1) (fragPacket sums last gs).2 =
      some { elems := receivedElems sums gs, last := last, group := gs.getLast? } := by
  have hcount : gs.length ≤ 32 := length_le_of_rising (fun g hg => (h g hg).1) hup
  have hhead : gs.headD 0 < 32 := by
    cases gs with
    | nil => decide
    | cons g gs => exact (h g List.mem_cons_self).1
  obtain ⟨hfirst, hgroups, hbytes, hlast, hres⟩ := fields_of_aux hhead hcount hfit (rfl : (fragPacket sums last gs).1 = _)
  have hread := readGroups_groups h (Nat.le_succ_of_le hcount) hprev hup
  have hempty : (gs.length == 0 && (gs.flatMap (groupBytes sums)).length != 0) = false := by cases gs <;> rfl
  have hbig : decide (512 < (gs.flatMap (groupBytes sums)).length) = false := decide_eq_false (Nat.not_lt.mpr hfit)
  have hstart : ((gs.map (fun g => (g, (groupElems sums g).map (fun e => (e.1, e.2.shipped))))).head?.any
      (fun x => x.1 != gs.headD 0)) = false := by cases gs <;> simp
  rw [readFragment]
  simp only [hfirst, hgroups, hbytes, hlast, hres]
  simp only [fragPacket, hempty, hbig, List.take_length, List.drop_length, hread, hstart, List.length_map, bne_self_eq_false,
    Nat.lt_irrefl, decide_false, List.any_nil, Bool.or_self, Bool.false_eq_true, if_false, List.flatMap_map, List.getLast?_map,
    Option.map_map, Function.comp_def, Option.map_id', receivedElems]

/-! ### The fragment of a chunk -/

/-- The packets of the groups `ls`, packet by packet: the last one says so (R366). -/
def fragOf (sums : Sparse Ledger) : List (List Nat) → List (Nat × List Byte)
  | [] => []
  | gs :: t => fragPacket sums t.isEmpty gs :: fragOf sums t

/-- What the receiver of the packets of `ls` has: the elements of all their groups (R366, R367). -/
theorem readChunk_fragOf {sums : Sparse Ledger} {ls : List (List Nat)} (h : Sends sums ls.flatten)
    (hfit : ∀ gs ∈ ls, (gs.flatMap (groupBytes sums)).length ≤ 512) {prev : Option Nat} (hprev : ∀ p ∈ prev, ∀ g ∈ ls.flatten, p < g)
    (hup : ls.flatten.Pairwise (· < ·)) : readChunk prev (fragOf sums ls) = some (receivedElems sums ls.flatten) := by
  induction ls generalizing prev with
  | nil => rfl
  | cons gs ls ih =>
    rw [List.flatten_cons] at h hprev hup ⊢
    obtain ⟨hgs, hls, hbetween⟩ := List.pairwise_append.mp hup
    have hlater : ∀ p ∈ (gs.getLast? <|> prev), ∀ g ∈ ls.flatten, p < g := fun p hp g hg => by
      cases hl : gs.getLast? with
      | none => exact hprev p (by rw [hl] at hp; exact hp) g (List.mem_append_right _ hg)
      | some q =>
        rw [hl] at hp
        exact Option.some.inj hp ▸ hbetween q (List.mem_of_getLast? hl) g hg
    have hread := readFragment_fragPacket (fun g hg => h g (List.mem_append_left _ hg)) (hfit gs List.mem_cons_self)
      (fun p hp g hg => hprev p hp g (List.mem_append_left _ hg)) hgs ls.isEmpty
    have hrest := ih (fun g hg => h g (List.mem_append_right _ hg)) (fun x hx => hfit x (List.mem_cons_of_mem _ hx)) hlater hls
    have hend : (fragOf sums ls).isEmpty = ls.isEmpty := by cases ls <;> rfl
    rw [fragOf, readChunk, hread]
    simp only [hend, if_true, hrest, Option.map_some, receivedElems, List.flatMap_append]

/-- Groups `gs` as the sender collects them into a packet. -/
def packOf (sums : Sparse Ledger) (gs : List Nat) : Nat × Nat × List Byte := (gs.headD 0, gs.length, gs.flatMap (groupBytes sums))

theorem length_flatMap_le {α : Type} {f : α → List Byte} {c : Nat} (h : ∀ x, (f x).length ≤ c) (xs : List α) :
    (xs.flatMap f).length ≤ c * xs.length := by
  induction xs with
  | nil => exact Nat.zero_le _
  | cons x xs ih =>
    have hx := h x
    rw [List.flatMap_cons, List.length_append, List.length_cons, Nat.mul_succ]
    omega

theorem groupBytes_length_le (sums : Sparse Ledger) (g : Nat) : (groupBytes sums g).length ≤ 512 := by
  have hcount : (groupElems sums g).length ≤ 8 := by
    rw [groupElems, List.length_map]
    exact (List.length_filter_le ..).trans (Nat.le_of_eq List.length_range)
  have hlimbs : ∀ l : Ledger, l.limbBytes.length ≤ 40 := fun l => by
    have hc : l.carried.length ≤ 10 := by
      rw [l.carried_eq]
      exact (List.length_filter_le ..).trans (Nat.le_of_eq List.length_range)
    rw [Ledger.limbBytes, flatMap_leBytes_length]
    omega
  have hall := length_flatMap_le (fun e : Nat × Ledger => hlimbs e.2) (groupElems sums g)
  rw [groupBytes_eq]
  split
  · exact Nat.zero_le _
  · rw [List.length_append, List.length_append, leBytes_length, pad4_length, headerBytes_length]
    unfold roundUp ceilDiv
    omega

/-- The sender divides the groups with a present element among packets in order, each packet within 512 bytes (R366). -/
theorem fragPack_eq (sums : Sparse Ledger) (gs : List Nat) (ps : List (List Nat)) (hps : ∀ p ∈ ps, p ≠ [] ∧ (p.flatMap (groupBytes sums)).length ≤ 512) :
    ∃ ls : List (List Nat), fragPack sums gs (ps.map (packOf sums)) = ls.map (packOf sums) ∧
      ls.flatten = ps.reverse.flatten ++ gs.filter (fun g => !(groupBytes sums g).isEmpty) ∧
      ∀ l ∈ ls, (l.flatMap (groupBytes sums)).length ≤ 512 := by
  induction gs generalizing ps with
  | nil => exact ⟨ps.reverse, by rw [fragPack, List.map_reverse], by simp, fun l hl => (hps l (List.mem_reverse.mp hl)).2⟩
  | cons g gs ih =>
    rw [fragPack.eq_def]
    simp only
    cases he : (groupBytes sums g).isEmpty
    · have hone : ([g].flatMap (groupBytes sums)).length ≤ 512 := by simpa using groupBytes_length_le sums g
      have hnew : packOf sums [g] = (g, 1, groupBytes sums g) := by simp [packOf]
      cases ps with
      | nil =>
        obtain ⟨ls, hpack, hflat, hfit⟩ := ih [[g]] (by simpa using hone)
        exact ⟨ls, by rw [← hpack, List.map_singleton, hnew]; rfl, by simp [hflat, he], hfit⟩
      | cons p ps =>
        obtain ⟨⟨hp, hpfit⟩, hps⟩ := List.forall_mem_cons.mp hps
        by_cases hroom : (p.flatMap (groupBytes sums)).length + (groupBytes sums g).length ≤ 512
        · have hjoin : packOf sums (p ++ [g]) = (p.headD 0, p.length + 1, p.flatMap (groupBytes sums) ++ groupBytes sums g) := by
            cases p with
            | nil => exact absurd rfl hp
            | cons x p => simp [packOf]
          obtain ⟨ls, hpack, hflat, hfit⟩ := ih ((p ++ [g]) :: ps)
            (List.forall_mem_cons.mpr ⟨⟨by simp, by simpa using hroom⟩, hps⟩)
          refine ⟨ls, ?_, by simp [hflat, he], hfit⟩
          rw [← hpack, List.map_cons, List.map_cons, hjoin]
          exact if_pos hroom
        · obtain ⟨ls, hpack, hflat, hfit⟩ := ih ([g] :: p :: ps)
            (List.forall_mem_cons.mpr ⟨⟨by simp, hone⟩, List.forall_mem_cons.mpr ⟨⟨hp, hpfit⟩, hps⟩⟩)
          refine ⟨ls, ?_, by simp [hflat, he], hfit⟩
          rw [← hpack, List.map_cons, List.map_cons, List.map_cons, hnew]
          exact if_neg hroom
    · obtain ⟨ls, hpack, hflat, hfit⟩ := ih ps hps
      exact ⟨ls, by rw [← hpack]; rfl, by simp [hflat, he], hfit⟩

/-- Packets numbered from `k` on, the last of which is marked, are the packets of their groups. -/
theorem map_zip_packOf (sums : Sparse Ledger) (ls : List (List Nat)) (k : Nat) : ((List.range' k ls.length).zip (ls.map (packOf sums))).map
    (fun x => (x.2.1 + x.2.2.1 * 32 + x.2.2.2.length * 2 ^ 11 + (if x.1 + 1 = k + ls.length then 2 ^ 21 else 0), x.2.2.2)) = fragOf sums ls := by
  induction ls generalizing k with
  | nil => rfl
  | cons gs ls ih =>
    have hlast : (k + 1 = k + (ls.length + 1)) ↔ ls.isEmpty = true := by rw [List.isEmpty_iff, ← List.length_eq_zero_iff]; omega
    have hnext := ih (k + 1)
    rw [show k + 1 + ls.length = k + (ls.length + 1) by omega] at hnext
    rw [List.length_cons, List.range'_succ, List.map_cons, List.zip_cons_cons, List.map_cons, hnext, fragOf, fragPacket]
    simp only [packOf, hlast]

/-- The packets of a chunk, the last one marked, and one empty packet where no element is present (R366). -/
theorem fragPackets_eq {sums : Sparse Ledger} {ls : List (List Nat)} (h : fragPack sums (List.range 32) [] = ls.map (packOf sums)) :
    fragPackets sums = fragOf sums (if ls = [] then [[]] else ls) := by
  unfold fragPackets
  rw [h]
  cases ls with
  | nil => simp [fragOf, fragPacket]
  | cons gs ls =>
    have hmap := map_zip_packOf sums (gs :: ls) 0
    rw [← List.range_eq_range', Nat.zero_add] at hmap
    rw [if_neg (List.cons_ne_nil _ _), ← hmap]
    simp only [List.map_cons, List.length_cons, List.length_map]

/-! ### The elements of a chunk -/

theorem sget_of_mem {α : Type} (d : α) {m : Sparse α} (h : Rising m) {e : Nat × α} (he : e ∈ m) : sget d m e.1 = e.2 := by
  induction m with
  | nil => cases he
  | cons x m ih =>
    obtain ⟨hx, hm⟩ := List.pairwise_cons.mp h
    rcases List.mem_cons.mp he with rfl | he
    · simp [sget]
    · rw [sget, if_neg (Nat.ne_of_lt (hx e he)), ih hm he]

theorem mem_of_sget_ne {α : Type} (d : α) {m : Sparse α} {k : Nat} (h : sget d m k ≠ d) : (k, sget d m k) ∈ m := by
  induction m with
  | nil => exact absurd rfl h
  | cons x m ih =>
    rw [sget] at h ⊢
    split at h
    · next hk => rw [if_pos hk, ← hk]; exact List.mem_cons_self
    · next hk => rw [if_neg hk]; exact List.mem_cons_of_mem _ (ih h)

theorem mem_groupElems {sums : Sparse Ledger} {g : Nat} {e : Nat × Ledger} :
    e ∈ groupElems sums g ↔ e.1 / 8 = g ∧ e.2 = sget {} sums e.1 ∧ e.2.present = true := by
  simp only [groupElems, List.mem_map, List.mem_filter, List.mem_range]
  constructor
  · rintro ⟨i, ⟨hi, hp⟩, rfl⟩
    exact ⟨by simp only; omega, rfl, hp⟩
  · rintro ⟨rfl, hv, hp⟩
    have hsplit : 8 * (e.1 / 8) + e.1 % 8 = e.1 := Nat.div_add_mod e.1 8
    exact ⟨e.1 % 8, ⟨Nat.mod_lt _ (by decide), by rw [hsplit, ← hv]; exact hp⟩, by rw [hsplit, ← hv]⟩

theorem pairwise_groupElems (sums : Sparse Ledger) (g : Nat) : (groupElems sums g).Pairwise (fun a b => a.1 < b.1) :=
  List.pairwise_map.mpr ((List.pairwise_lt_range.filter _).imp (fun h => Nat.add_lt_add_left h _))

section Chunk
variable {sums : Sparse Ledger} (h : Rising sums) (hp : ∀ e ∈ sums, e.1 < 256 ∧ e.2.present = true)
include h hp

/-- The groups of a chunk hold its present elements, in order. -/
theorem flatMap_groupElems : (List.range 32).flatMap (groupElems sums) = sums := by
  have hirrefl : Std.Irrefl (fun a b : Nat × Ledger => a.1 < b.1) := ⟨fun a => Nat.lt_irrefl a.1⟩
  have hantisymm : Std.Antisymm (fun a b : Nat × Ledger => a.1 < b.1) := ⟨fun _ _ hab hba => absurd hab (Nat.lt_asymm hba)⟩
  have hup : ((List.range 32).flatMap (groupElems sums)).Pairwise (fun a b => a.1 < b.1) := by
    refine List.pairwise_flatMap.mpr ⟨fun g _ => pairwise_groupElems sums g, List.pairwise_lt_range.imp (fun hgg a ha b hb => ?_)⟩
    obtain ⟨rfl, -, -⟩ := mem_groupElems.mp ha
    obtain ⟨rfl, -, -⟩ := mem_groupElems.mp hb
    omega
  refine hup.eq_of_mem_iff h (fun e => ?_)
  rw [List.mem_flatMap]
  constructor
  · rintro ⟨g, -, he⟩
    obtain ⟨-, hv, hpres⟩ := mem_groupElems.mp he
    have hne : sget {} sums e.1 ≠ {} := by
      rintro hz
      rw [hv, hz] at hpres
      exact absurd hpres (by decide)
    have hmem := mem_of_sget_ne _ hne
    rwa [← hv] at hmem
  · intro he
    obtain ⟨hlt, hpres⟩ := hp e he
    exact ⟨e.1 / 8, List.mem_range.mpr (by omega), mem_groupElems.mpr ⟨rfl, (sget_of_mem {} h he).symm, hpres⟩⟩

end Chunk

theorem groupBytes_isEmpty (sums : Sparse Ledger) (g : Nat) : (groupBytes sums g).isEmpty = (groupElems sums g).isEmpty := by
  cases he : groupElems sums g with
  | nil => rw [groupBytes_eq, if_pos he]; rfl
  | cons e es =>
    have hpos := groupBytes_length_pos (he ▸ List.cons_ne_nil e es)
    cases hb : groupBytes sums g with
    | nil => rw [hb] at hpos; exact absurd hpos (by decide)
    | cons b bs => rfl

/-- Leaving out the groups without a present element leaves out no element. -/
theorem receivedElems_filter (sums : Sparse Ledger) (gs : List Nat) :
    receivedElems sums (gs.filter (fun g => !(groupBytes sums g).isEmpty)) = (gs.flatMap (groupElems sums)).map (fun e => (e.1, e.2.shipped)) := by
  induction gs with
  | nil => rfl
  | cons g gs ih =>
    rw [List.filter_cons, List.flatMap_cons, List.map_append, ← ih, groupBytes_isEmpty]
    cases hes : groupElems sums g with
    | nil => rfl
    | cons e es => rw [← hes]; simp [hes, receivedElems]

/-- Settles O14: the sender cuts the groups with a present element into packets, each packet is read back whole, and the groups hold the
elements of the chunk. -/
theorem fragmentsCarryEveryPresentElement : Obligations.FragmentsCarryEveryPresentElement := by
  intro sums hrise hall
  obtain ⟨ls, hpack, hflat, hfit⟩ := fragPack_eq sums (List.range 32) [] (by simp)
  rw [List.reverse_nil, List.flatten_nil, List.nil_append] at hflat
  have helems := flatMap_groupElems hrise (fun e he => ⟨(hall e he).1, (hall e he).2.1⟩)
  have hsend : Sends sums ls.flatten := fun g hg => by
    rw [hflat, List.mem_filter, List.mem_range, groupBytes_isEmpty, Bool.not_eq_true', List.isEmpty_eq_false_iff] at hg
    refine ⟨hg.1, hg.2, fun e he => ?_⟩
    have hmem : e ∈ sums := helems ▸ List.mem_flatMap.mpr ⟨g, List.mem_range.mpr hg.1, he⟩
    exact (hall e hmem).2
  have hup : ls.flatten.Pairwise (· < ·) := hflat ▸ List.pairwise_lt_range.filter _
  have hrows : (if ls = [] then [[]] else ls).flatten = ls.flatten := by
    split
    · next hnil => rw [hnil]; rfl
    · rfl
  have hread := readChunk_fragOf (ls := if ls = [] then [[]] else ls) (hrows ▸ hsend)
    (by split
        · simp
        · exact hfit)
    (prev := none) (by simp) (hrows ▸ hup)
  rw [fragPackets_eq hpack, hread, hrows, hflat, receivedElems_filter, helems]
  rfl

end Sys2Proof.Machine
end

section
/-!
The hub's own timers (R368, R370, R375): what each finds oldest, and what it does with it.
-/
namespace Sys2Proof.Machine

/-! ### A pre-open unit -/

theorem preopenExpireStep_of_kept {h : Nat} {s : State} {u : Unit_} {rest : List Unit_} (hu : (s.hub h).preopen = u :: rest) :
    preopenExpireStep h s =
      ((s.runToNow (u.at_ + 100000)).onHub h (fun b => { b with preopen := b.preopen.tail })).lateDrop h (unitsOf u.pkt) := by
  simp only [preopenExpireStep, hu]

theorem preopenExpireStep_of_empty {h : Nat} {s : State} (hu : (s.hub h).preopen = []) : preopenExpireStep h s = s := by
  simp only [preopenExpireStep, hu]

/-! ### A logged unit -/

/-- A unit that does not run past the end of its log lies there in one piece (R368). -/
theorem logPieces_of_fits {c : Ctx} {a n : Nat} (hn : 0 < n) (hfit : a + n ≤ pLogSize c.plan) :
    logPieces c a n = [(pLogBase c.plan + a, n)] := by
  have hmin : min n (pLogSize c.plan - a) = n := Nat.min_eq_left (by omega)
  have hrest : n - (pLogSize c.plan - a) = 0 := by omega
  simp [logPieces, hmin, hrest, Nat.ne_of_gt hn]

section Retake
variable {h n a : Nat} {s w : State} {c d : Ctx} {u : Unit_} {r : Option (List Byte)}

/-- The oldest unit that can be taken back is read from its log in one piece, and taken or lost (R368, R465). -/
theorem retakeStep_of_read (hc : s.retakable h = some (c, u)) (hn : n = 32 + u.pkt.payload.length)
    (hd : d = { c with log := c.log.tail, logBytes := c.logBytes - n })
    (ha : a = (c.logAt + pLogSize c.plan - (d.logBytes + n)) % pLogSize c.plan) (hpos : 0 < n) (hfit : a + n ≤ pLogSize c.plan)
    (hread : (s.setCtx d).read (pLogBase c.plan + a) n = (w, r)) :
    retakeStep h s = if r.isSome then ((State.takeUnit 4 true u.hub w u.pkt u.at_).1).completeCtxs else w.loseUnit d h u := by
  subst hn hd ha
  have hpieces := logPieces_of_fits (c := { c with log := c.log.tail, logBytes := c.logBytes - (32 + u.pkt.payload.length) }) hpos hfit
  simp only [retakeStep, State.retake, hc, hpieces, List.foldl_cons, List.foldl_nil, hread, Bool.true_and]

theorem retakeStep_of_none (hc : s.retakable h = none) : retakeStep h s = s := by
  simp only [retakeStep, State.retake, hc]

end Retake

/-! ### A context's deadline -/

/-- The one open context of the partition fails at its deadline (R375). -/
theorem contextDeadlineStep_of_one {q : Nat} {s : State} {x : Ctx} (hx : s.red.ctxs = [x]) (hpart : x.part = s.partOf q) (hopen : x.st = .open_)
    (hdue : x.deadline ≤ (s.runToNow x.deadline).now) : contextDeadlineStep q s = (s.runToNow x.deadline).failCtx x 1 := by
  have hawaits : x.awaits = true := by rw [Ctx.awaits, hopen]; rfl
  simp [contextDeadlineStep, hx, hpart, hawaits, least, hdue, State.expireCtx, hopen]

theorem contextDeadlineStep_of_none {q : Nat} {s : State} (hx : s.red.ctxs = []) : contextDeadlineStep q s = s := by
  simp [contextDeadlineStep, hx, least]

/-- Settles O40, timer by timer: the oldest pre-open unit, the oldest logged unit, the earliest deadline. -/
theorem hubTimersActOnTheirOldest : Obligations.HubTimersActOnTheirOldest := by
  unfold Obligations.HubTimersActOnTheirOldest
  refine ⟨fun h s => ⟨fun u rest hu => ?_, fun hu => ?_⟩, fun h s => ⟨fun c d u n a w bs hc hn hd ha hpos hfit => ⟨fun hread => ?_, fun hread => ?_⟩,
    fun hc => ?_⟩, fun q s => ⟨fun x hx hpart hopen hdue => ?_, fun hx => ?_⟩⟩
  · exact hubGoes_of_step (preopenExpireStep_of_kept hu) rfl
  · exact hubGoes_of_step (preopenExpireStep_of_empty hu) rfl
  · exact hubGoes_of_step (retakeStep_of_read hc hn hd ha hpos hfit hread) rfl
  · exact hubGoes_of_step (retakeStep_of_read hc hn hd ha hpos hfit hread) rfl
  · exact hubGoes_of_step (retakeStep_of_none hc) rfl
  · exact hubGoes_of_step (contextDeadlineStep_of_one hx hpart hopen hdue) rfl
  · exact hubGoes_of_step (contextDeadlineStep_of_none hx) rfl

end Sys2Proof.Machine
end

section
/-!
The close of a binding (R409): what it makes of the state record, field by field, and how the command that bound it ends.
-/
namespace Sys2Proof.Machine

/-! ### A field written into a number -/

theorem testBit_setFld (n lo len v i : Nat) : (setFld n lo len v).testBit i =
    if i < lo then n.testBit i else if i < lo + len then v.testBit (i - lo) else n.testBit i := by
  have hlow : n % 2 ^ lo < 2 ^ lo := Nat.mod_lt _ (Nat.two_pow_pos _)
  have hsplit : setFld n lo len v = 2 ^ lo * (2 ^ len * (n >>> (lo + len)) + v % 2 ^ len) + n % 2 ^ lo := by
    simp only [setFld, Nat.shiftLeft_eq, Nat.pow_add]
    ring
  rw [hsplit, Nat.testBit_two_pow_mul_add _ hlow, Nat.testBit_two_pow_mul_add _ (Nat.mod_lt _ (Nat.two_pow_pos _)), Nat.testBit_mod_two_pow,
    Nat.testBit_mod_two_pow, Nat.testBit_shiftRight]
  by_cases hi : i < lo
  · simp [hi]
  · rw [if_neg hi, if_neg hi]
    by_cases hj : i < lo + len
    · have : i - lo < len := by omega
      simp [hj, this]
    · rw [if_neg hj, if_neg (by omega : ¬ i - lo < len), show lo + len + (i - lo - len) = i by omega]

theorem nfld_setFld_self (n lo len v : Nat) : nfld (setFld n lo len v) lo len = v % 2 ^ len := by
  refine Nat.eq_of_testBit_eq (fun i => ?_)
  rw [testBit_nfld, testBit_setFld, Nat.testBit_mod_two_pow, if_neg (by omega), Nat.add_sub_cancel_left]
  by_cases hi : i < len <;> simp [hi]

theorem nfld_setFld_apart {n lo len v lo' len' : Nat} (h : lo' + len' ≤ lo ∨ lo + len ≤ lo') :
    nfld (setFld n lo len v) lo' len' = nfld n lo' len' := by
  refine Nat.eq_of_testBit_eq (fun i => ?_)
  rw [testBit_nfld, testBit_nfld, testBit_setFld]
  by_cases hi : i < len'
  · rcases h with h | h
    · rw [if_pos (by omega)]
    · rw [if_neg (by omega), if_neg (by omega)]
  · simp [hi]

/-! ### The state record -/

/-- A field within the record is read from the number that is cut to it. -/
theorem fld_ofNat_of_le {w n lo len : Nat} (h : lo + len ≤ w) : fld (BitVec.ofNat w n) lo len = nfld n lo len := by
  refine Nat.eq_of_testBit_eq (fun i => ?_)
  rw [fld, testBit_nfld, testBit_nfld, BitVec.toNat_ofNat, Nat.testBit_mod_two_pow]
  by_cases hi : i < len
  · rw [decide_eq_true (by omega : lo + i < w), Bool.true_and]
  · simp [hi]

theorem fld_ustSet_self (u : UState) {lo len : Nat} (v : Nat) (h : lo + len ≤ 512) : fld (ustSet u lo len v) lo len = v % 2 ^ len := by
  rw [ustSet, fld_ofNat_of_le h, nfld_setFld_self]

theorem fld_ustSet_apart (u : UState) {lo len lo' len' : Nat} (v : Nat) (h : lo' + len' ≤ 512) (ha : lo' + len' ≤ lo ∨ lo + len ≤ lo') :
    fld (ustSet u lo len v) lo' len' = fld u lo' len' := by
  rw [ustSet, fld_ofNat_of_le h, nfld_setFld_apart ha, fld]

/-- The shifts of a clean close lie above the last step and the count. -/
theorem ustLast_closeShift (b : Binding) (u : UState) (k : Nat) (amax : W32) : ustLast (b.closeShift u k amax) = ustLast u := by
  unfold Binding.closeShift ustLast
  split
  · rfl
  · rw [fld_ustSet_apart _ _ (by decide) (by omega), fld_ustSet_apart _ _ (by decide) (by omega)]

/-- The close makes the last step the binding's, frozen or not (R409). -/
theorem ustLast_closedState (b : Binding) (u : UState) : ustLast (b.closedState u) = b.step.toNat := by
  have hstep : ustLast (ustSet u 0 64 b.step.toNat) = b.step.toNat := by
    rw [ustLast, fld_ustSet_self _ _ (by decide), Nat.mod_eq_of_lt b.step.isLt]
  unfold Binding.closedState
  dsimp only
  split
  · rw [ustLast, fld_ustSet_apart _ _ (by decide) (by decide), ← ustLast, hstep]
  · rw [ustLast, fld_ustSet_apart _ _ (by decide) (by decide), fld_ustSet_apart _ _ (by decide) (by decide), ← ustLast,
      ustLast_closeShift, ustLast_closeShift, hstep]

/-- A binding that is not frozen counts one more update (R409). -/
theorem ustCount_closedState {b : Binding} (u : UState) (hf : uFrozen b.cfg = false) :
    ustCount (b.closedState u) = (ustCount b.ust + 1) % 2 ^ 64 := by
  unfold Binding.closedState
  dsimp only
  rw [if_neg (by rw [hf]; decide), ustCount, fld_ustSet_self _ _ (by decide)]

/-! ### The row -/

/-- A binding without row counts closes with the write of its state block (R409). -/
theorem bindingCloseStep_of_read {q : Nat} {s a d : State} {b : Binding} {bs : List Byte} {ok : Bool}
    (hb : s.bindings.find? (fun b => b.part == s.partOf q && b.st == .closing) = some b) (hrow : uRow b.cfg = false)
    (hread : s.hubRead b.job.toNat (b.desc + 256) 64 = (a, some bs))
    (hwrite : a.hubWrite b.job.toNat (ownerHub b.part) (b.desc + 256) (leBytes (b.closedState (BitVec.ofNat 512 (leNat bs))).toNat 64) = (d, ok)) :
    bindingCloseStep q s = (if uFrozen b.cfg then d.updCount b.part HubSt.incFrozen else d).updEnd b (if ok then stOk else stMem) (b.due + 21000) := by
  have htouched : b.touched = [] := by rw [Binding.touched, hrow]; rfl
  simp only [bindingCloseStep, hb, htouched, List.map_nil, State.readNats, hread, hwrite, List.zip_nil_left, State.writeNats, Bool.and_true,
    List.length_nil, Nat.mul_zero, Nat.add_zero]
  rfl

/-- Settles O38: the record by its fields, the command by whether the binding is frozen. -/
theorem bindingClosesItsRegion : Obligations.BindingClosesItsRegion := by
  intro q s a d b bs ok hb hrow hread hwrite
  have hstep := bindingCloseStep_of_read hb hrow hread hwrite
  refine ⟨ustLast_closedState b _, fun hf => ?_, fun hf => ⟨?_, ustCount_closedState _ hf⟩⟩
  · rw [if_pos hf] at hstep
    exact hubGoes_of_step hstep rfl
  · rw [if_neg (by rw [hf]; decide)] at hstep
    exact hubGoes_of_step hstep rfl

end Sys2Proof.Machine
end

section
/-!
The registers of the reset controller (R467, R484), which hardware serves unless the package is dark, and the copy of an archive slot for
the host.
-/
namespace Sys2Proof.Machine

/-! ### The page of the reset controller -/

section Page
variable {s : State} {o : Nat} {v : W64} (f : State → State)

theorem rstPage_not_lt {a o : Nat} (h : a ≤ rstPage) : ¬ rstPage + o < a := Nat.not_lt.mpr (Nat.le_trans h (Nat.le_add_right _ _))

/-- Nobody is there to ask while the package is dark (R452, R485). -/
theorem writeRow_rst_of_dark (hd : s.dark = true) : s.writeRow none (rstPage + o) 8 v f = s := by
  have hrom : decide ((pageWrite (rstPage + o) 8 v).addr < pkgPage) = false := decide_eq_false (rstPage_not_lt (by decide))
  rw [State.writeRow, State.gated, hrom, hd, Bool.and_false]
  rfl

/-- Else hardware takes the write at once, in any reset (R439, R467). -/
theorem writeRow_rst (hd : s.dark = false) (ho : o < 0x1000) (ha : o % 8 = 0) :
    s.writeRow none (rstPage + o) 8 v f = (f s).respond (.done 0) := by
  have hmapped : s.pageMapped (rstPage + o) = true := by
    have hlow : rstPage ≤ rstPage + o := Nat.le_add_right _ _
    have hhigh : rstPage + o + 1 ≤ rstPage + 0x1000 := Nat.add_le_add_left (Nat.succ_le_of_lt ho) rstPage
    rw [State.pageMapped, if_neg (rstPage_not_lt (by decide)), if_neg (rstPage_not_lt (by decide)), if_neg (rstPage_not_lt (by decide)),
      inside, decide_eq_true hlow, decide_eq_true hhigh]
    rfl
  have hreset : s.pageInReset (rstPage + o) = false := by
    have hpart : decide (rstPage + o < partPage 4) = false := decide_eq_false (rstPage_not_lt (by decide))
    rw [State.pageInReset, hpart, Bool.and_false]
    rfl
  have hok : pageAccessOk (pageWrite (rstPage + o) 8 v) = true := pageAccessOk_write8 v (by rw [Nat.add_mod, ha]; rfl)
  have haddr : (pageWrite (rstPage + o) 8 v).addr = rstPage + o := rfl
  rw [State.writeRow, State.gated]
  simp [hd, haddr, hmapped, hreset, hok]

end Page

/-! ### STW_ARCHIVE_CTL (R484) -/

section Archive
variable {s : State} {v : W64}

theorem archiveCtlWrite_of_read (hread : bit v 2 = true) (hidle : s.reset_.arBusy = none) : s.archiveCtlWrite v = { s with reset_ := { s.reset_ with
    arSlot := BitVec.ofNat 2 (fld v 0 2), arDone := s.reset_.arDone && !bit v 4
    arBusy := some (BitVec.ofNat 2 (fld v 0 2), fld s.reset_.arBuf 0 48) } } := by
  simp [State.archiveCtlWrite, hread, hidle]

theorem archiveCtlWrite_of_no_read (hread : bit v 2 = false) : s.archiveCtlWrite v = { s with reset_ := { s.reset_ with
    arSlot := BitVec.ofNat 2 (fld v 0 2), arDone := s.reset_.arDone && !bit v 4 } } := by
  simp [State.archiveCtlWrite, hread]

theorem exec_archiveRead (hd : s.dark = false) :
    exec (.archiveRead v) s = .next (s.archiveFrame ((s.archiveCtlWrite v).respond (.done 0))) := by
  have hexec : exec (.archiveRead v) s = .next (s.archiveFrame (archiveReadStep v s)) := rfl
  rw [hexec, archiveReadStep, writeRow_rst (o := 0x40) _ hd (by decide) (by decide)]

/-- A buffer that does not lie in the carve-out ends the copy with error. -/
theorem archiveCopyDoneStep_of_outside {slot : BitVec 2} {buf : Nat} (hbusy : s.reset_.arBusy = some (slot, buf))
    (hout : s.inCarve buf archiveSlotBytes = false) :
    archiveCopyDoneStep s = { s with reset_ := { s.reset_ with arBusy := none, arDone := true, arError := true } } := by
  fun_cases archiveCopyDoneStep s with
  | case1 hnone => cases hnone.symm.trans hbusy
  | case2 slot' buf' hsome ok t ok' ht =>
    cases hsome.symm.trans hbusy
    have hok : ¬ ok = true := by
      rw [show ok = (s.inCarve buf archiveSlotBytes && s.stw.custodian.st == .running && !s.dark) from rfl, hout]
      exact Bool.false_ne_true
    obtain ⟨rfl, rfl⟩ := Prod.mk.inj ((if_neg hok).symm.trans ht)
    rfl

theorem exec_archiveCopyDone {t : State} (h : archiveCopyDoneStep s = t) (hp : t.mem.newPoison = []) :
    exec .archiveCopyDone s = .next (s.archiveFrame t) := by
  have hexec : exec .archiveCopyDone s = .next (s.archiveFrame (archiveCopyDoneStep s).settle) := rfl
  rw [hexec, h, State.settle_of_nil hp]

end Archive

/-- Settles O53: the write by whether it asks for a read, the end of a copy by its buffer. -/
theorem archiveIsCopiedForTheHost : Obligations.ArchiveIsCopiedForTheHost := by
  unfold Obligations.ArchiveIsCopiedForTheHost
  refine ⟨fun v s hd => ⟨fun hread hidle => ?_, fun hread => ?_⟩, fun s slot buf hbusy hp hout => ?_⟩
  · rw [exec_archiveRead hd, archiveCtlWrite_of_read hread hidle]
    rfl
  · rw [exec_archiveRead hd, archiveCtlWrite_of_no_read hread]
    rfl
  · exact exec_archiveCopyDone (archiveCopyDoneStep_of_outside hbusy hout) hp

end Sys2Proof.Machine
end

section
/-!
Resets (R467 to R473, R481, R485): what the halt of a partition leaves alone, how a reset begins, and what the end of each phase does.
-/
namespace Sys2Proof.Machine

/-! ### What the halt of a partition leaves alone -/

/-- The account of the reset controller, the supply and its pins, and the steward: what a reset's halt of the work leaves alone. -/
structure ResetAccount where
  parts : Sparse (Option PartReset)
  pkg : Option PartReset
  resets : W32
  on : Bool
  pinLow : Bool
  trip : Bool
  rsCtl : W64
  stw : StewardSt

def State.account (s : State) : ResetAccount :=
  ⟨s.reset_.parts, s.reset_.pkg, s.reset_.resets, s.power.on, s.power.pinLow, s.power.trip, s.reset_.rsCtl, s.stw⟩

/-- What each step of a fold keeps, the fold keeps. -/
theorem foldl_keeps {σ α β : Type} {f : σ → α → σ} {g : σ → β} (hf : ∀ s x, g (f s x) = g s) (xs : List α) (s : σ) :
    g (xs.foldl f s) = g s :=
  List.foldlRecOn (motive := fun t => g t = g s) xs f rfl fun t ht x _ => (hf t x).trans ht

section Account
variable (s : State)

theorem State.LinkWork.account_eq {s t : State} (h : s.LinkWork t) : t.account = s.account := by rw [h]; rfl

/-- A SYSTEM packet of this package goes out on a link, is dropped, or is for the package itself (R310, R314). -/
theorem State.account_inject {p : Packet} (hk : p.kind = 9) : (s.inject p).account = s.account := by
  have hown : ∀ h, s.landOwn h p = s := fun h => if_pos hk
  unfold State.inject
  dsimp only
  split
  · split
    · rfl
    · exact (s.linkWork_sendOn _ _ _ _).account_eq
  · split
    · rw [hown]
    · rfl
    · split
      · exact (s.linkWork_sendOn _ _ _ _).account_eq
      · rfl

theorem State.account_notify (dsts : List Nat) (n : Notice) : (s.notify dsts n).account = s.account := by
  unfold State.notify State.injectAll
  rw [List.foldl_map]
  exact foldl_keeps (fun t _ => t.account_inject rfl) dsts s

theorem State.account_countNotices (n : Nat) : (s.countNotices n).account = s.account := rfl
theorem State.account_countBeyond : s.countBeyond.account = s.account := rfl
theorem State.account_onPart (p : Nat) (f : Part → Part) : (s.onPart p f).account = s.account := rfl
theorem State.account_settleCap : s.settleCap.account = s.account := rfl
theorem State.account_onLast (qs : List Nat) (f : ResetLast → ResetLast) : (s.onLast qs f).account = s.account := rfl

theorem State.account_setStage (r : StageSet) (f : StageRegs → StageRegs) : (s.setStage r f).account = s.account := by
  cases r <;> rfl

theorem State.account_abandonSet (r : StageSet) (reason : Nat) : (s.abandonSet r reason).account = s.account := by
  unfold State.abandonSet
  split
  · rfl
  · exact s.account_setStage r _

theorem State.account_failResync (p : Nat) : (s.failResync p).account = s.account := by
  unfold State.failResync
  split <;> rfl

theorem State.account_sendMemberDown (mask cause : Nat) : (s.sendMemberDown mask cause).account = s.account := by
  unfold State.sendMemberDown
  refine foldl_keeps (fun t j => ?_) _ s
  rw [State.account_countNotices]
  exact t.account_notify _ _

theorem State.account_haltPart (p cause : Nat) : (s.haltPart p cause).account = s.account := by
  unfold State.haltPart
  dsimp only
  rw [State.account_settleCap, State.account_onPart]
  split
  · rw [State.account_abandonSet, State.account_sendMemberDown]
  · rw [State.account_sendMemberDown]

/-- What is beyond the single-fault class is counted, and no more (R464, R486). -/
theorem State.account_ite_countBeyond (c : Bool) : (if c = true then s else s.countBeyond).account = s.account := by
  split <;> rfl

end Account

/-! ### The beginning of a reset (R467 to R470, R485) -/

section Start
variable {s : State} {q cause : Nat}

/-- A partition reset that begins: its record, and the account of the reset controller with it. -/
theorem startPart_eqs (h : s.inReset (s.partOf q) = false) : ∃ r : PartReset, r.phase = 1 ∧ r.cause = BitVec.ofNat 4 cause ∧
    r.from_ = s.time.ticks ∧ (s.startPart q cause).reset_.parts = sset none s.reset_.parts (s.partOf q) (some r) ∧
    (s.startPart q cause).reset_.resets = satAdd s.reset_.resets 1 := by
  have hticks : ∀ c : Bool, (if c = true then s else s.countBeyond).time.ticks = s.time.ticks := fun c => by split <;> rfl
  have hkept : ∀ (c : Bool) (qs : List Nat) (f : ResetLast → ResetLast),
      (((if c = true then s else s.countBeyond).haltPart (s.partOf q) cause).failResync (s.partOf q) |>.onLast qs f).account = s.account :=
    fun c qs f => by
      rw [State.account_onLast, State.account_failResync, State.account_haltPart, State.account_ite_countBeyond]
  unfold State.startPart
  dsimp only
  rw [if_neg (by rw [h]; exact Bool.false_ne_true)]
  generalize s.twinOnly (quadMask (s.quads (s.partOf q))) = c
  have hacc := hkept c (s.quads (s.partOf q)) (fun l => l.begun 1 cause false)
  refine ⟨_, ?_, ?_, ?_, congrArg (fun a : ResetAccount => sset none a.parts (s.partOf q) (some _)) hacc,
    congrArg (fun a : ResetAccount => satAdd a.resets 1) hacc⟩
  · rfl
  · rfl
  · exact hticks c

/-- A package reset that begins: its record, the pins and the trip as they stood. -/
theorem startPkg_eqs (hon : s.power.on = true) (hpkg : s.reset_.pkg = none) : ∃ r : PartReset, r.phase = 1 ∧ r.cause = BitVec.ofNat 4 cause ∧
    (s.startPkg cause).reset_.pkg = some r ∧ (s.startPkg cause).power.pinLow = s.power.pinLow ∧
    (s.startPkg cause).power.trip = s.power.trip := by
  have hkept : ∀ (c : Bool) (f : ResetLast → ResetLast), let t := if c = true then s else s.countBeyond
      ((t.partitions.foldl (fun t p => if t.inReset p then t else t.haltPart p cause) t).abandonSet .pkg 6 |>.onLast [0, 1, 2, 3] f).account =
        s.account := fun c f => by
    dsimp only
    rw [State.account_onLast, State.account_abandonSet, foldl_keeps (g := State.account), State.account_ite_countBeyond]
    intro t p
    split
    · rfl
    · exact t.account_haltPart p cause
  unfold State.startPkg
  rw [if_neg (by rw [hon, hpkg]; decide)]
  generalize s.twinOnly 15 = c
  have hacc := hkept c (fun l => l.begun 1 cause true)
  refine ⟨_, ?_, ?_, rfl, congrArg ResetAccount.pinLow hacc, congrArg ResetAccount.trip hacc⟩
  · rfl
  · rfl

end Start

/-! ### The phases of a partition reset (R470) -/

theorem exec_partPhase (q : Quad) (o : PhaseObs) {s : State} {r : PartReset} (hr : sget none s.reset_.parts q = some r) :
    exec (.partitionResetPhaseEnd q o) s = .next (s.resetFrame (s.endPartPhase q r o).settle) := by
  have hexec : exec (.partitionResetPhaseEnd q o) s = .next (s.resetFrame (partPhaseStep q o s).settle) := rfl
  rw [hexec, partPhaseStep, hr]

@[simp] theorem State.quads_runTo (s : State) (t p : Nat) : (s.runTo t).quads p = s.quads p := by
  rw [State.quads, State.layout, State.runTo_stw, State.quads, State.layout]

section PartPhase
variable {q : Nat} {o : PhaseObs} {s u : State} {r : PartReset} (hu : u = s.runTo (r.since + o.durationUs.toNat * 1000 * nsT))
include hu

theorem endPartPhase_archive (hp : r.phase = 1) : s.endPartPhase q r o = u.nextPhase q r 2 := by
  subst hu
  unfold State.endPartPhase
  rw [hp]
  rfl

theorem endPartPhase_discard (hp : r.phase = 2) : s.endPartPhase q r o =
    ((u.closeArchive r (u.quads q) false o.unitsRead).discard q).nextPhase q { r with units := [], dump := [] } 3 := by
  subst hu
  rw [State.quads_runTo]
  unfold State.endPartPhase
  rw [hp]
  rfl

theorem endPartPhase_test (hp : r.phase = 4) : s.endPartPhase q r o = u.nextPhase q
    { r with failed := (o.failedDies.map (fun d => d.val)).filter (fun d => (u.quads q).contains (dieQuad d)) } 5 := by
  subst hu
  rw [State.quads_runTo]
  unfold State.endPartPhase
  rw [hp]
  rfl

/-- Roles wait for a Custodian that restarts (R435). -/
theorem endPartPhase_wait (hp : r.phase = 5) (hc : u.stw.custodian.st = .restarting) : s.endPartPhase q r o = u := by
  subst hu
  unfold State.endPartPhase
  rw [hp]
  exact if_pos hc

theorem endPartPhase_wipe (hp : r.phase = 8) : s.endPartPhase q r o = (u.wipeQuads (u.quads q)).nextPhase q r 9 := by
  subst hu
  rw [State.quads_runTo]
  unfold State.endPartPhase
  rw [hp]
  rfl

theorem endPartPhase_finish (hp : r.phase = 9) : s.endPartPhase q r o = u.finishPart q r := by
  subst hu
  unfold State.endPartPhase
  rw [hp]
  rfl

end PartPhase

/-! ### The phases of a package reset (R485) -/

theorem exec_pkgPhase (o : PhaseObs) {s : State} {r : PartReset} (hr : s.reset_.pkg = some r) :
    exec (.packageResetPhaseEnd o) s = .next (s.resetFrame (s.endPkgPhase r o).settle) := by
  have hexec : exec (.packageResetPhaseEnd o) s = .next (s.resetFrame (pkgPhaseStep o s).settle) := rfl
  rw [hexec, pkgPhaseStep, hr]

theorem not_wait {u : State} {n : Nat} (hb : u.power.mayBoot = true) : ¬ (3 ≤ n ∧ (!u.power.mayBoot) = true) :=
  fun h => absurd h.2 (by rw [hb]; exact Bool.false_ne_true)

section PkgPhase
variable {o : PhaseObs} {s u : State} {r : PartReset} (hu : u = s.runTo (r.since + o.durationUs.toNat * 1000 * nsT))
include hu

/-- From phase 3 on a phase ends only when power, pin, input and temperature allow it (R488, R494, R499). -/
theorem endPkgPhase_wait (hp : 3 ≤ r.phase.toNat) (hb : u.power.mayBoot = false) : s.endPkgPhase r o = u := by
  subst hu
  exact if_pos ⟨hp, by rw [hb]; rfl⟩

theorem endPkgPhase_archive (hp : r.phase = 1) : s.endPkgPhase r o = ({ u with reset_ := { u.reset_ with
    pkg := some { r with phase := 2, since := u.time.ticks } } } : State).onLast [0, 1, 2, 3] (fun l => { l with phase := 2 }) := by
  subst hu
  unfold State.endPkgPhase
  rw [hp]
  rfl

theorem endPkgPhase_powerDown (hp : r.phase = 2) : s.endPkgPhase r o =
    ((u.closeArchive r [0, 1, 2, 3] true o.unitsRead).powerDown).nextPkgPhase 3 := by
  subst hu
  unfold State.endPkgPhase
  rw [hp]
  rfl

variable (hb : u.power.mayBoot = true)
include hb

theorem endPkgPhase_boot (hp : r.phase = 3) : s.endPkgPhase r o = u.boot.nextPkgPhase 4 := by
  subst hu
  refine (if_neg (not_wait hb)).trans ?_
  rw [hp]
  rfl

theorem endPkgPhase_bring (hp : r.phase = 6) : s.endPkgPhase r o = (u.bringAll o).nextPkgPhase 7 := by
  subst hu
  refine (if_neg (not_wait hb)).trans ?_
  rw [hp]
  rfl

/-- The root port is ready with the last phase, and PCIE_PERST_N goes high (R493, log 94). -/
theorem endPkgPhase_finish (hp : r.phase = 7) : s.endPkgPhase r o = ({ u with reset_ := { u.reset_ with pkg := none, perstN := true } } : State).onLast
    [0, 1, 2, 3] (fun l => { l with phase := 15, duration := elapsedUs r.from_ u.time.ticks }) := by
  subst hu
  refine (if_neg (not_wait hb)).trans ?_
  rw [hp]
  rfl

end PkgPhase

/-! ### STW_RESET_CTL and a unit that does not answer (R467, R481) -/

section Request
variable {v : W64} {s : State} {i : Instr}

/-- Either row is the write of STW_RESET_CTL. -/
theorem exec_resetRequest (hi : i = .partitionResetRequest v ∨ i = .packageResetRequest v) :
    exec i s = .next (s.resetFrame (resetRequestStep v s)) := by
  rcases hi with rfl | rfl <;> rfl

theorem resetRequestStep_of_dark (hd : s.dark = true) : resetRequestStep v s = s := writeRow_rst_of_dark (o := 0) _ hd

theorem resetRequestStep_of_up (hd : s.dark = false) : resetRequestStep v s = (s.resetCtl v).respond (.done 0) :=
  writeRow_rst (o := 0) _ hd (by decide) (by decide)

theorem resetCtl_of_no_code (hc : fld v 8 8 ≠ 0xD5) : s.resetCtl v = s := if_pos hc

theorem resetCtl_of_package (hc : fld v 8 8 = 0xD5) (h3 : bit v 3 = true) : s.resetCtl v = s.startPkg 1 := by
  rw [State.resetCtl, if_neg (not_not_intro hc), if_pos h3]

theorem resetCtl_of_partition (hc : fld v 8 8 = 0xD5) (h3 : bit v 3 = false) (h2 : bit v 2 = true) :
    s.resetCtl v = s.startPart (fld v 0 2) 1 := by
  rw [State.resetCtl, if_neg (not_not_intro hc), if_neg (by rw [h3]; exact Bool.false_ne_true), if_pos h2]

end Request

section Timeout
variable {q n : Nat} {scan : Bool} {s : State} {r : PartReset} (hp : r.phase = 2)
include hp

theorem archiveTimeoutStep_part (hr : sget none s.reset_.parts q = some r) : archiveTimeoutStep false q n scan s =
    { s with reset_ := { s.reset_ with parts := sset none s.reset_.parts q (some (s.dumpTimeout r n scan)) } } := by
  simp only [archiveTimeoutStep, hr, hp, Bool.false_eq_true, if_false, if_true]

theorem archiveTimeoutStep_pkg (hr : s.reset_.pkg = some r) : archiveTimeoutStep true q n scan s =
    { s with reset_ := { s.reset_ with pkg := some (s.dumpTimeout r n scan) } } := by
  simp only [archiveTimeoutStep, hr, hp, if_true]

end Timeout

theorem exec_archiveTimeout {pkg : Bool} {q : Quad} {n : Nat} {scan : Bool} {s : State} {x : ResetSt}
    (h : archiveTimeoutStep pkg q n scan s = { s with reset_ := x }) :
    exec (.archiveUnitTimeout pkg q n scan) s = .next { s with reset_ := x } := by
  have hexec : exec (.archiveUnitTimeout pkg q n scan) s = .next (s.archiveFrame (archiveTimeoutStep pkg q n scan s)) := rfl
  rw [hexec, h]
  rfl

/-- Settles O52: the request by its code and the reset it names, the phases by their numbers, the unit that is passed over. -/
theorem resetsBeginAndRunTheirPhases : Obligations.ResetsBeginAndRunTheirPhases := by
  unfold Obligations.ResetsBeginAndRunTheirPhases
  refine ⟨fun v s i hi => ?_, fun q cause s hrise hres => ?_, fun q o s u r hr hu => ?_, fun o s u r hr hu => ?_,
    fun q n scan s r hr hp => exec_archiveTimeout (archiveTimeoutStep_part hp hr)⟩
  · rw [exec_resetRequest hi]
    refine ⟨fun hd => ?_, fun hd hc => ?_, fun hd hc h3 => ?_, fun hd hc h3 h2 => ?_⟩
    · rw [resetRequestStep_of_dark hd]
      rfl
    · rw [resetRequestStep_of_up hd, resetCtl_of_no_code hc]
      rfl
    · rw [resetRequestStep_of_up hd, resetCtl_of_package hc h3]
    · rw [resetRequestStep_of_up hd, resetCtl_of_partition hc h3 h2]
  · obtain ⟨r, hphase, hcause, hfrom, hparts, hresets⟩ := startPart_eqs (cause := cause) hres
    exact ⟨r, by rw [hparts, sget_sset_self none _ _ hrise], hphase, hcause, hfrom, hresets⟩
  · rw [exec_partPhase q o hr]
    refine ⟨fun hp => ?_, fun hp => ?_, fun hp => ?_, fun hp hc => ?_, fun hp => ?_, fun hp => ?_⟩
    · rw [endPartPhase_archive hu hp]
    · rw [endPartPhase_discard hu hp]
    · rw [endPartPhase_test hu hp]
    · rw [endPartPhase_wait hu hp hc]
    · rw [endPartPhase_wipe hu hp]
    · rw [endPartPhase_finish hu hp]
  · rw [exec_pkgPhase o hr]
    refine ⟨fun hp => ?_, fun hp hb => ?_, fun hp hb => ?_, fun hp hb => ?_, fun hp hb => ?_⟩
    · rw [endPkgPhase_powerDown hu hp]
    · rw [endPkgPhase_wait hu hp hb]
    · rw [endPkgPhase_boot hu hb hp]
    · rw [endPkgPhase_bring hu hb hp]
    · rw [endPkgPhase_finish hu hb hp]

end Sys2Proof.Machine
end

section
/-!
Power-on, the input monitor, the reset pin and the temperatures (R487, R488, R494, R498, R499).
-/
namespace Sys2Proof.Machine

/-! ### POWER_ON and PKG_RESET_N (R487, R494) -/

theorem exec_powerOn (s : State) : exec .powerOn s = .next (s.resetFrame (powerOnStep s)) := rfl

/-- The package that POWER_ON boots: its materials, and the power-on reset (R487). -/
def State.powerUp (s : State) : State := { s.unpowered with reset_ := { s.unpowered.reset_ with pkg := some {
  quads := 15, phase := 4, cause := 0, from_ := s.time.ticks, since := s.time.ticks, units := [] } } }

theorem powerOnStep_of_start {s : State} (hoff : s.power.on = false) (hstart : s.power.mayStart = true) :
    powerOnStep s = (s.powerUp.onLast [0, 1, 2, 3] (fun l => l.begun 4 0 true)).boot :=
  if_neg (by rw [hoff, hstart]; exact Bool.false_ne_true)

theorem powerOnStep_of_no_start {s : State} (h : s.power.on = true ∨ s.power.mayStart = false) : powerOnStep s = s :=
  if_pos (by rcases h with h | h <;> simp [h])

theorem exec_pkgResetPin (s : State) : exec .pkgResetPin s =
    .next (s.resetFrame (State.startPkg { s with power := { s.power with pinLow := true } } 0)) := rfl

theorem exec_pkgResetNRelease (s : State) : exec .pkgResetNRelease s = .next { s with power := { s.power with pinLow := false } } := rfl

/-! ### VIN_SAMPLE (R488) -/

section Vin
variable {a b v : Nat} {s u : State}

theorem exec_vinSample : exec (.vinSample a b) s = .next (s.resetFrame (vinSampleStep a b s)) := rfl

/-- What the monitor counts of a voltage from 42.0 V to 56.0 V, which neither cuts nor counts as very low or high. -/
theorem sample_counts (p : PowerSt) (h1 : 420 ≤ min a b) (h2 : min a b ≤ 560) : (p.sample a b).veryLowFor = 0 ∧ (p.sample a b).highFor = 0 ∧
    (p.sample a b).lowFor = if min a b < 440 then p.lowFor + 1 else 0 := by
  have hlow : decide (min a b < 420) = false := decide_eq_false (by omega)
  have hhigh : decide (560 < min a b) = false := decide_eq_false (by omega)
  have hfloor : decide (420 ≤ min a b) = true := decide_eq_true h1
  simp only [PowerSt.sample, streak, hlow, hhigh, hfloor, Bool.false_and, Bool.true_and, Bool.false_eq_true, if_false, decide_eq_true_eq,
    and_self]

section On
variable (hv : v = min a b) (hon : s.power.on = true) (hu : u = { s with power := (s.power.sample a b).envField 0 10 v })
include hv hon hu

/-- The sample of a powered package shows the voltage, and the monitor decides from what it has counted. -/
theorem vinSampleStep_of_on : vinSampleStep a b s =
    if 600 < v ∨ v < 400 ∨ 10 < (s.power.sample a b).veryLowFor then u.powerLoss
    else if 100 < (s.power.sample a b).highFor then (u.trouble 45).onPower (fun p => { p with highHold := true })
    else if 1000 < (s.power.sample a b).lowFor then u.trouble 44
    else u := by
  subst hv hu
  exact if_neg (by show ¬ (!s.power.on) = true; rw [hon]; exact Bool.false_ne_true)

theorem vinSampleStep_of_cut (h : 600 < v ∨ v < 400) : vinSampleStep a b s = u.powerLoss := by
  rw [vinSampleStep_of_on hv hon hu, if_pos (or_assoc.mp (.inl h))]

/-- Between 42.0 V and 56.0 V only the count of low samples decides. -/
theorem vinSampleStep_of_inside (h1 : 420 ≤ v) (h2 : v ≤ 560) :
    vinSampleStep a b s = if 1000 < (if v < 440 then s.power.lowFor + 1 else 0) then u.trouble 44 else u := by
  obtain ⟨hvery, hhigh, hlow⟩ := sample_counts (a := a) (b := b) s.power (hv ▸ h1) (hv ▸ h2)
  have hcut : ¬ (600 < v ∨ v < 400 ∨ 10 < (s.power.sample a b).veryLowFor) := by
    rw [hvery]
    omega
  rw [vinSampleStep_of_on hv hon hu, if_neg hcut, hhigh, if_neg (by decide), hlow, hv]

theorem vinSampleStep_of_good (h1 : 440 ≤ v) (h2 : v ≤ 560) : vinSampleStep a b s = u := by
  rw [vinSampleStep_of_inside hv hon hu (by omega) h2, if_neg (Nat.not_lt.mpr h1), if_neg (by decide)]

theorem vinSampleStep_of_low (h1 : 420 ≤ v) (h2 : v < 440) : vinSampleStep a b s = if 1000 ≤ s.power.lowFor then u.trouble 44 else u := by
  rw [vinSampleStep_of_inside hv hon hu h1 (by omega), if_pos h2]
  exact if_congr Nat.lt_succ_iff rfl rfl

end On
end Vin

/-! ### THERMAL_SAMPLE (R498, R499) -/

section Thermal
variable {x e : EnvSample} {s : State} {p : PowerSt}

theorem exec_thermalSample : exec (.thermalSample x) s = .next (s.resetFrame (thermalSampleStep (wholeSample x) s)) := rfl

theorem all_dies_lt_iff {n : Nat} : (e.dies.map reading).all (fun t => t < n) = true ↔ ∀ t ∈ e.dies, reading t < n := by simp

section On
variable (he : e = wholeSample x) (hon : s.power.on = true) (hp : p = (s.power.warm e).hot e)
include he hon hp

theorem thermalSampleStep_of_on : thermalSampleStep (wholeSample x) s =
    if p.tripped e then State.startPkg { s with power := { p with trip := true } } 5
    else if (e.dies.map reading).all (fun t => t < 85) then { s with power := { p with trip := false } }
    else { s with power := p } := by
  subst he hp
  exact if_neg (by rw [hon]; exact Bool.false_ne_true)

theorem thermalSampleStep_of_trip (ht : p.tripped e = true) :
    thermalSampleStep (wholeSample x) s = State.startPkg { s with power := { p with trip := true } } 5 := by
  rw [thermalSampleStep_of_on he hon hp, if_pos ht]

theorem thermalSampleStep_of_warm (ht : p.tripped e = false) (hw : ∃ t ∈ e.dies, 85 ≤ reading t) :
    thermalSampleStep (wholeSample x) s = { s with power := p } := by
  have hall : ¬ (e.dies.map reading).all (fun t => t < 85) = true := fun h =>
    let ⟨t, htd, hge⟩ := hw
    absurd (all_dies_lt_iff.mp h t htd) (Nat.not_lt.mpr hge)
  rw [thermalSampleStep_of_on he hon hp, if_neg (by rw [ht]; exact Bool.false_ne_true), if_neg hall]

theorem thermalSampleStep_of_cool (ht : p.tripped e = false) (hc : ∀ t ∈ e.dies, reading t < 85) :
    thermalSampleStep (wholeSample x) s = { s with power := { p with trip := false } } := by
  rw [thermalSampleStep_of_on he hon hp, if_neg (by rw [ht]; exact Bool.false_ne_true), if_pos (all_dies_lt_iff.mpr hc)]

end On

/-- A die at 110 degrees trips at once (R499). -/
theorem tripped_of_hot_die (h : ∃ t ∈ e.dies, 110 ≤ reading t) : p.tripped e = true := by
  obtain ⟨t, ht, hge⟩ := h
  have hany : (e.dies.map reading).any (fun r => 110 ≤ r) = true :=
    List.any_eq_true.mpr ⟨reading t, List.mem_map_of_mem ht, decide_eq_true hge⟩
  rw [PowerSt.tripped, hany, Bool.true_or]

theorem le_foldl_max {n : Nat} (l : List Nat) (m : Nat) (h : n ≤ m ∨ ∃ x ∈ l, n ≤ x) : n ≤ l.foldl max m := by
  induction l generalizing m with
  | nil => simpa using h
  | cons y ys ih =>
    refine ih (max m y) ?_
    rcases h with h | ⟨x, hx, h⟩
    · exact .inl (le_max_of_le_left h)
    · rcases List.mem_cons.mp hx with rfl | hx
      · exact .inl (le_max_of_le_right h)
      · exact .inr ⟨x, hx, h⟩

/-- A die at 95 degrees holds best-effort issue at 0 (R498). -/
theorem warm_of_hot_die (q : PowerSt) (h : ∃ t ∈ e.dies, 95 ≤ reading t) : ((q.warm e).hot e).thermalHold = true ∧ ((q.warm e).hot e).beFraction = 0 := by
  have htop : decide (95 ≤ (e.dies.map reading).foldl max 0) = true :=
    let ⟨t, ht, hge⟩ := h
    decide_eq_true (le_foldl_max _ 0 (.inr ⟨reading t, List.mem_map_of_mem ht, hge⟩))
  simp only [PowerSt.hot, PowerSt.warm, htop, Bool.true_or, if_true, and_self]

end Thermal

/-- Settles O50: each sample goes through the monitor's or the sensors' own equation. -/
theorem inputAndTemperatureAreWatched : Obligations.InputAndTemperatureAreWatched := by
  unfold Obligations.InputAndTemperatureAreWatched
  refine ⟨fun s u hoff hstart hu => ?_, fun s h => ?_, fun a b v s u hv hon hu => ⟨fun h1 h2 => ?_, fun h => ?_, fun h1 h2 hlow => ?_, fun h1 h2 hlow => ?_⟩,
    exec_pkgResetPin, exec_pkgResetNRelease, fun x e s p he hon hp => ⟨fun ht => ?_, fun ht hw => ?_, fun ht hc => ?_, fun h => ?_⟩⟩
  · rw [exec_powerOn, powerOnStep_of_start hoff hstart, hu, State.powerUp]
  · rw [exec_powerOn, powerOnStep_of_no_start h]
    rfl
  · rw [exec_vinSample, vinSampleStep_of_good hv hon hu h1 h2, hu]
    rfl
  · rw [exec_vinSample, vinSampleStep_of_cut hv hon hu h]
  · rw [exec_vinSample, vinSampleStep_of_low hv hon hu h1 h2, if_pos hlow]
  · rw [exec_vinSample, vinSampleStep_of_low hv hon hu h1 h2, if_neg (Nat.not_le.mpr hlow), hu]
    rfl
  · rw [exec_thermalSample, thermalSampleStep_of_trip he hon hp ht]
  · rw [exec_thermalSample, thermalSampleStep_of_warm he hon hp ht hw]
    rfl
  · rw [exec_thermalSample, thermalSampleStep_of_cool he hon hp ht hc]
    rfl
  · rw [hp]
    exact warm_of_hot_die s.power h

end Sys2Proof.Machine
end

section
/-!
The commands of power and reset, each to its end (R467 to R470, R481, R485, R487, R488, R494, R499).
-/
namespace Sys2Proof.Machine

/-- The power-on reset stands at phase 4 with cause 0, over cleared memories and a clock that reads 0 (R452, R487). -/
theorem boot_powerUp (s : State) (f : ResetLast → ResetLast) : ∃ r : PartReset, r.phase = 4 ∧ r.cause = 0 ∧
    let t := (s.powerUp.onLast [0, 1, 2, 3] f).boot
    t.power.on = true ∧ t.reset_.pkg = some r ∧ t.time.now = 0 ∧ t.clusters = [] ∧ t.mem.bytes = [] :=
  ⟨_, rfl, rfl, rfl, rfl, rfl, rfl, rfl⟩

/-- Loss of power is a package reset at phase 3 with cause 5 (R485, R488). -/
theorem powerLoss_eqs {s : State} (hon : s.power.on = true) : ∃ r : PartReset, r.phase = 3 ∧ r.cause = 5 ∧
    s.powerLoss.power.on = false ∧ s.powerLoss.reset_.pkg = some r := by
  unfold State.powerLoss
  rw [if_neg (by rw [hon]; exact Bool.false_ne_true)]
  exact ⟨_, rfl, rfl, rfl, rfl⟩

theorem envFlag_on (p : PowerSt) (i : Nat) (b : Bool) : (p.envFlag i b).on = p.on := by
  unfold PowerSt.envFlag
  split <;> rfl

/-- A reading of the sensors does not turn the power off. -/
theorem hot_warm_on (p : PowerSt) (e : EnvSample) : ((p.warm e).hot e).on = p.on := by
  show (PowerSt.envFlag _ 48 _).on = _
  rw [envFlag_on, envFlag_on, envFlag_on]
  rfl

@[simp] theorem State.mem_nextPhase (s : State) (p n : Nat) (r : PartReset) : (s.nextPhase p r n).mem = s.mem := rfl

@[simp] theorem State.mem_onLast (s : State) (qs : List Nat) (f : ResetLast → ResetLast) : (s.onLast qs f).mem = s.mem := rfl

theorem State.parts_nextPhase (s : State) (p n : Nat) (r : PartReset) : (s.nextPhase p r n).reset_.parts =
    sset none s.reset_.parts p (some { r with phase := BitVec.ofNat 4 n, since := s.time.ticks }) := rfl

section Ends
variable {o : PhaseObs} {s : State} {r : PartReset} (hnp : s.mem.newPoison = [])
include hnp

/-- Phase 1 of a partition reset leads to phase 2 (R470). -/
theorem exec_partPhase_archive {q : Quad} (hr : sget none s.reset_.parts q = some r) (hp : r.phase = 1) (hrise : Sys2Proof.Rising s.reset_.parts) :
    ∃ t, exec (.partitionResetPhaseEnd q o) s = .next t ∧ sget none t.reset_.parts q = some { r with phase := 2, since := t.time.ticks } := by
  refine ⟨_, exec_partPhase q o hr, ?_⟩
  rw [endPartPhase_archive rfl hp, State.settle_of_nil (by rw [State.mem_nextPhase, State.runTo_mem, hnp])]
  show sget none (State.nextPhase _ _ _ _).reset_.parts q = _
  rw [State.parts_nextPhase, State.runTo_reset, sget_sset_self none _ _ hrise]
  rfl

/-- Phase 1 of a package reset leads to phase 2, and its last phase to none (R485, R493). -/
theorem exec_pkgPhase_ends (hr : s.reset_.pkg = some r) : ∃ t, exec (.packageResetPhaseEnd o) s = .next t ∧
    (r.phase = 1 → t.reset_.pkg = some { r with phase := 2, since := t.time.ticks }) ∧
    (r.phase = 7 → (s.runTo (r.since + o.durationUs.toNat * 1000 * nsT)).power.mayBoot = true → t.reset_.pkg = none ∧ t.reset_.perstN = true) := by
  refine ⟨_, exec_pkgPhase o hr, fun hp => ?_, fun hp hb => ?_⟩
  · rw [endPkgPhase_archive rfl hp, State.settle_of_nil (by rw [State.mem_onLast, State.runTo_mem, hnp])]
    rfl
  · rw [endPkgPhase_finish rfl hb hp, State.settle_of_nil (by rw [State.mem_onLast, State.runTo_mem, hnp])]
    exact ⟨rfl, rfl⟩

end Ends

/-- Settles O3, by how each reset begins and how each phase ends. -/
theorem powerAndResetCommandsComplete : Obligations.PowerAndResetCommandsComplete := by
  unfold Obligations.PowerAndResetCommandsComplete
  refine ⟨fun s hoff hstart => ?_, fun a b s hon h1 h2 => ?_, fun a b s hon h => ?_, fun s hon hpkg => ?_, exec_pkgResetNRelease,
    fun x e s p he hon hp ht hc => ?_, fun x s hon hpkg hhot => ?_, fun v s p hp hd hc h3 h2 hres hrise => ?_,
    fun v s hd hon hpkg hc h3 => ?_, fun q o s r hr hp hnp hrise => exec_partPhase_archive hnp hr hp hrise,
    fun o s r hr hnp => exec_pkgPhase_ends hnp hr,
    fun q n scan s r hp => ⟨fun hr => exec_archiveTimeout (archiveTimeoutStep_part hp hr), fun hr => exec_archiveTimeout (archiveTimeoutStep_pkg hp hr)⟩⟩
  · obtain ⟨r, hphase, hcause, hpow, hpkg, hnow, hcl, hmem⟩ := boot_powerUp s (fun l => l.begun 4 0 true)
    refine ⟨_, r, exec_powerOn s, ?_⟩
    rw [powerOnStep_of_start hoff hstart]
    exact ⟨hpow, hpkg, hphase, hcause, hnow, hcl, hmem⟩
  · rw [exec_vinSample, vinSampleStep_of_good rfl hon rfl h1 h2]
    rfl
  · obtain ⟨r, hphase, hcause, hpow, hpkg⟩ := powerLoss_eqs (s := { s with power := (s.power.sample a b).envField 0 10 (min a b) }) hon
    refine ⟨_, r, exec_vinSample, ?_⟩
    rw [vinSampleStep_of_cut rfl hon rfl (.inr h)]
    exact ⟨hpow, hpkg, hphase, hcause⟩
  · obtain ⟨r, hphase, hcause, hr, hpin, -⟩ := startPkg_eqs (s := { s with power := { s.power with pinLow := true } }) (cause := 0) hon hpkg
    exact ⟨_, r, exec_pkgResetPin s, hpin, hr, hphase, hcause⟩
  · rw [exec_thermalSample, thermalSampleStep_of_cool he hon hp ht hc]
    rfl
  · obtain ⟨p, hp⟩ : ∃ p, p = (s.power.warm (wholeSample x)).hot (wholeSample x) := ⟨_, rfl⟩
    have hon' : p.on = true := hp ▸ (hot_warm_on _ _).trans hon
    obtain ⟨r, hphase, hcause, hr, -, htrip⟩ := startPkg_eqs (s := { s with power := { p with trip := true } }) (cause := 5) hon' hpkg
    refine ⟨_, r, exec_thermalSample, ?_⟩
    rw [thermalSampleStep_of_trip rfl hon hp (tripped_of_hot_die hhot)]
    exact ⟨htrip, hr, hphase, hcause⟩
  · subst hp
    obtain ⟨r, hphase, hcause, -, hparts, hresets⟩ := startPart_eqs (cause := 1) hres
    refine ⟨_, r, exec_resetRequest (.inl rfl), ?_⟩
    rw [resetRequestStep_of_up hd, resetCtl_of_partition hc h3 h2]
    exact ⟨rfl, (congrArg (fun m => sget none m (s.partOf (fld v 0 2))) hparts).trans (sget_sset_self none _ _ hrise), hphase, hcause, hresets⟩
  · obtain ⟨r, hphase, hcause, hr, -, -⟩ := startPkg_eqs (cause := 1) hon hpkg
    refine ⟨_, r, exec_resetRequest (.inr rfl), ?_⟩
    rw [resetRequestStep_of_up hd, resetCtl_of_package hc h3]
    exact ⟨rfl, hr, hphase, hcause⟩

end Sys2Proof.Machine
end

section
/-!
A Custodian that serves again is more than a processor that runs (R435, R466).
-/
namespace Sys2Proof.Machine

/-- Refutes O54: its RESTART_COMPLETE clause says that a Custodian back in time changes nothing but its own state, and leaves out the
die failures found during its restart, which it marks then (R435, R466). In `custodianOwesMark` one is owed, and is marked. -/
theorem not_firmwareRestartsOrFails : ¬ Obligations.FirmwareRestartsOrFails := by
  unfold Obligations.FirmwareRestartsOrFails
  rintro ⟨-, -, hrestart⟩
  obtain ⟨-, hintime, -⟩ := hrestart .custodian custodianOwesMark (by decide) (by decide)
  have hexec := hintime (by decide) (.inl rfl) rfl rfl
  obtain ⟨t, ht, hmarks, -⟩ := exec_restartComplete_custodianOwesMark
  have heq : t = custodianOwesMark.onProc .custodian (fun k => { k with st := .running }) := Host.Outcome.next.inj (ht.symm.trans hexec)
  rw [heq, State.onProc_panel] at hmarks
  exact absurd hmarks (by decide)

end Sys2Proof.Machine
end

section
/-!
Anti-rollback, attestation and the lifecycle (R453 to R461).
-/
namespace Sys2Proof.Machine

/-- A field as a word of its own width. -/
theorem toNat_ofNat_fld {w : Nat} (v : BitVec w) (lo len : Nat) : (BitVec.ofNat len (fld v lo len)).toNat = fld v lo len := by
  rw [BitVec.toNat_ofNat]
  exact Nat.mod_eq_of_lt (nfld_lt _ _ _)

theorem ofNat_fld_eq_zero_iff {w : Nat} (v : BitVec w) (lo len : Nat) : BitVec.ofNat len (fld v lo len) = 0 ↔ fld v lo len = 0 := by
  rw [← BitVec.toNat_inj, toNat_ofNat_fld]
  rfl

/-! ### Anti-rollback (R453, R454) -/

section Svn
variable {v : W64} {s : State} {m : BitVec 3}

theorem exec_svnCommit (h : PageServes s .custodian (pkgPage + 0x180)) :
    exec (.svnCommit v) s = .next (s.stewardFrame ((s.svnCommit v).respond (.done 0))) :=
  congrArg (fun t => Host.Outcome.next (s.stewardFrame t)) (writeRow_serves _ h (pageAccessOk_write8 v (by decide)))

theorem svnCommit_of_none (h : fld v 0 3 = 0) : s.svnCommit v = s := if_pos ((ofNat_fld_eq_zero_iff v 0 3).mpr h)

theorem svnCommit_of_some (h : fld v 0 3 ≠ 0) : s.svnCommit v =
    { s with stw := { s.stw with svnBusy := some (BitVec.ofNat 3 (fld v 0 3) ||| s.stw.svnBusy.getD 0) } } :=
  if_neg (mt (ofNat_fld_eq_zero_iff v 0 3).mp h)

/-- A counter after a commit: the larger of itself and the running svn, if it is named (R453, R454). -/
theorem raised_getD (m : BitVec 3) (ctr svn : List Nat) {c : Nat} (hc : c < 3) :
    (raised m ctr svn).getD c 0 = if bit m c then max (ctr.getD c 0) (svn.getD c 0) else ctr.getD c 0 := by
  match c, hc with
  | 0, _ => rfl
  | 1, _ => rfl
  | 2, _ => rfl

/-- The steward once a commit of `m` is done. -/
def StewardSt.committed (w : StewardSt) (m : BitVec 3) : StewardSt :=
  let ctr := raised m w.ctr w.svn
  { w with svnBusy := none, ctr := ctr
           meas := w.meas.set 4 (extend (w.meas.getD 4 0) (Config.bootDigest 4 (fuseNumber w.lifecycle w.transitions ctr))) }

theorem exec_svnCommitDone (hon : s.custodianOn = true) (hm : s.stw.svnBusy = some m) :
    exec .svnCommitDone s = .next { s with stw := s.stw.committed m } := by
  have hexec : exec .svnCommitDone s = .next (s.stewardFrame (svnDoneStep s)) := rfl
  have hstep : svnDoneStep s = { s with stw := s.stw.committed m } := by
    rw [svnDoneStep, hm]
    exact if_neg (by rw [hon]; exact Bool.false_ne_true)
  rw [hexec, hstep]
  rfl

end Svn

/-! ### Attestation (R455 to R458) -/

section Attest
variable {i : Instr} {op : BitVec 2} {s : State} {nonce : BitVec 384} {buf time : Nat}

theorem exec_attest (hi : (i, op) ∈ [(Instr.report, 1#2), (.extend, 2#2), (.certs, 3#2)]) (h : PageServes s .custodian (pkgPage + 0x100)) :
    exec i s = .next (s.stewardFrame ((s.attestCtlWrite (BitVec.ofNat 64 op.toNat)).respond (.done 0))) := by
  have hexec : exec i s = .next (s.stewardFrame (attestStep op s)) := by
    simp only [List.mem_cons, Prod.mk.injEq, List.not_mem_nil, or_false] at hi
    rcases hi with ⟨rfl, rfl⟩ | ⟨rfl, rfl⟩ | ⟨rfl, rfl⟩ <;> rfl
  rw [hexec, attestStep, writeRow_serves _ h (pageAccessOk_write8 _ (by decide))]

/-- An op code alone does not clear done (R456). -/
theorem attestCtlWrite_of_op (op : BitVec 2) (s : State) : s.attestCtlWrite (BitVec.ofNat 64 op.toNat) =
    if s.stw.attBusy.isSome then s else (s.onStw (fun w => { w with attOp := op })).attestStart op := by
  have hdone : ∀ x : BitVec 2, bit (BitVec.ofNat 64 x.toNat) 3 = false := by decide
  have hop : ∀ x : BitVec 2, BitVec.ofNat 2 (fld (BitVec.ofNat 64 x.toNat) 0 2) = x := by decide
  have hkept : s.onStw (fun w => { w with attDone := w.attDone && !bit (BitVec.ofNat 64 op.toNat) 3 }) = s := by
    rw [hdone, Bool.not_false]
    simp only [Bool.and_true]
    rfl
  rw [State.attestCtlWrite, hkept, hop]

theorem attestCtlWrite_of_busy (hb : s.stw.attBusy.isSome = true) : s.attestCtlWrite (BitVec.ofNat 64 op.toNat) = s := by
  rw [attestCtlWrite_of_op, if_pos hb]

theorem attestCtlWrite_of_idle (hb : s.stw.attBusy = none) (hop : op ≠ 0) : s.attestCtlWrite (BitVec.ofNat 64 op.toNat) =
    { s with stw := { s.stw with attOp := op, attBusy := some (op, s.stw.nonce, fld s.stw.attBuf 0 48, s.now) } } := by
  rw [attestCtlWrite_of_op, if_neg (by rw [hb]; exact Bool.false_ne_true)]
  exact if_neg (by simpa [State.onStw, hb] using hop)

theorem exec_attestOpDone (hon : s.custodianOn = true) (hb : s.stw.attBusy = some (op, nonce, buf, time)) {t : State} {ok : Bool}
    (hrun : s.attestRun op nonce buf time = (t, ok)) (hnp : t.mem.newPoison = []) : exec .attestOpDone s =
      .next (s.stewardFrame (t.onStw (fun w => { w with attBusy := none, attDone := true, attError := !ok }))) := by
  have hexec : exec .attestOpDone s = .next (s.stewardFrame (attestDoneStep s).settle) := rfl
  have hstep : attestDoneStep s = t.onStw (fun w => { w with attBusy := none, attDone := true, attError := !ok }) := by
    rw [attestDoneStep, hb]
    refine (if_neg (by rw [hon]; exact Bool.false_ne_true)).trans ?_
    rw [hrun]
  have hsettle : (attestDoneStep s).settle = attestDoneStep s := State.settle_of_nil (by rw [hstep]; exact hnp)
  rw [hexec, hsettle, hstep]

theorem attestRun_of_not_agreed (h : s.attestAgreed = false) : s.attestRun op nonce buf time = (s, false) :=
  if_pos (by rw [h]; rfl)

theorem attestRun_extend (h : s.attestAgreed = true) : s.attestRun 2 nonce buf time =
    (s.onStw (fun w => { w with meas := w.meas.set 5 (extend (w.meas.getD 5 0) nonce) }), true) :=
  (if_neg (by rw [h]; exact Bool.false_ne_true)).trans rfl

end Attest

/-! ### The lifecycle (R459 to R461) -/

section Lifecycle
variable {v : W64} {s u : State} {r : BitVec 3} {dest a : Nat}

theorem exec_lifecycleRequest (h : PageServes s .custodian (negPage + 0x90)) :
    exec (.lifecycleRequest v) s = .next (s.resetFrame ((s.lifecycleWrite v).respond (.done 0))) :=
  congrArg (fun t => Host.Outcome.next (s.resetFrame t)) (writeRow_serves _ h (pageAccessOk_write8 v (by decide)))

/-- A request is judged, and carried out only where it is accepted (R461). -/
theorem lifecycleWrite_of_request (hrom : s.stw.romOnly = false) (hreq : bit v 7 = true) (hr : r = s.lifecycleResult (fld v 4 3) (fld v 16 48))
    (hu : u = { s with stw := { s.stw with lcTarget := BitVec.ofNat 3 (fld v 4 3), lcToken := BitVec.ofNat 48 (fld v 16 48), lcResult := r } }) :
    s.lifecycleWrite v = if r = 1 then State.startPkg { u with stw := u.stw.blow (BitVec.ofNat 3 (fld v 4 3)) } 4 else u := by
  subst hr hu
  have hdest : (BitVec.ofNat 3 (fld v 4 3)).toNat = fld v 4 3 := toNat_ofNat_fld v 4 3
  rw [State.lifecycleWrite, if_neg (by rw [hrom]; exact Bool.false_ne_true)]
  dsimp only
  rw [if_neg (by rw [hreq]; exact Bool.false_ne_true), hdest]
  rfl

theorem lifecycleResult_of_busy (hb : s.stw.lcBusy.isSome = true) : s.lifecycleResult dest a = 5 := if_pos hb

theorem lifecycleResult_of_idle (hb : s.stw.lcBusy = none) : s.lifecycleResult dest a =
    match lifecycleEdge s.stw.lifecycle.toNat dest with
    | none => 3
    | some token =>
      if s.stw.lifecycle = 3 ∧ dest = 1 ∧ s.stw.redeploys = 0 then 4
      else if token && !s.tokenOk a dest then 2
      else 1 := if_neg (by rw [hb]; exact Bool.false_ne_true)

/-- Nothing leads out of DECOMMISSIONED (R460). -/
theorem lifecycleEdge_four (dest : Nat) : lifecycleEdge 4 dest = none := by
  unfold lifecycleEdge
  simp

end Lifecycle

/-- Settles O56: the commit, the operation and the request each by its own equation. -/
theorem antiRollbackAttestationAndLifecycle : Obligations.AntiRollbackAttestationAndLifecycle := by
  unfold Obligations.AntiRollbackAttestationAndLifecycle
  refine ⟨⟨fun v s h => ⟨fun hv => ?_, fun hv => ?_⟩, fun s m hon hm => ?_⟩, fun i op s hi h => ⟨fun hb => ?_, fun hb => ?_⟩,
    fun s nonce buf time hon hnp => ⟨fun hb hagreed => ?_, fun op hb hagreed => ?_⟩,
    fun v s u r h hrom hreq hr hu => ⟨fun hne => ?_, fun heq => ?_⟩,
    fun s dest a => ⟨lifecycleResult_of_busy, fun hb hl => ?_, fun hb hl hd => ?_, fun hb hl hd hlim => ?_, fun hb hl hd htok => ?_⟩⟩
  · rw [exec_svnCommit h, svnCommit_of_none hv]
    rfl
  · rw [exec_svnCommit h, svnCommit_of_some hv]
    rfl
  · exact ⟨_, exec_svnCommitDone hon hm, rfl, fun c hc => raised_getD m _ _ hc, fun i hi => by
      simp [StewardSt.committed, List.getD_eq_getElem?_getD, List.getElem?_set_ne hi.symm]⟩
  · have hop : op ≠ 0 := by
      simp only [List.mem_cons, Prod.mk.injEq, List.not_mem_nil, or_false] at hi
      rcases hi with ⟨-, rfl⟩ | ⟨-, rfl⟩ | ⟨-, rfl⟩ <;> decide
    rw [exec_attest hi h, attestCtlWrite_of_idle hb hop]
    rfl
  · rw [exec_attest hi h, attestCtlWrite_of_busy hb]
    rfl
  · rw [exec_attestOpDone hon hb (attestRun_extend hagreed) hnp]
    rfl
  · rw [exec_attestOpDone hon hb (attestRun_of_not_agreed hagreed) hnp]
    rfl
  · rw [exec_lifecycleRequest h, lifecycleWrite_of_request hrom hreq hr hu, if_neg hne, hu]
    rfl
  · rw [exec_lifecycleRequest h, lifecycleWrite_of_request hrom hreq hr hu, if_pos heq]
  · rw [lifecycleResult_of_idle hb, hl]
    simp [lifecycleEdge_four]
  · rw [lifecycleResult_of_idle hb, hl, hd]
    rfl
  · rw [lifecycleResult_of_idle hb, hl, hd, hlim]
    rfl
  · rw [lifecycleResult_of_idle hb, hl, hd, htok]
    rfl

end Sys2Proof.Machine
end

section
/-!
Notices of members, the release of a rejoin and the resynchronisation of a twin (R378, R474 to R479).
-/
namespace Sys2Proof.Machine

/-! ### The rows of recovery messages -/

/-- A well-formed message writes what its step does. -/
theorem systemRow_next {s t : State} {a : Arrival} {n : Nat} (hw : a.pkt.wfSystem n = true) : systemRow n a s t = .next t := by
  rw [systemRow, formed, hw, if_pos rfl]

section Here
variable {s : State} {a : Arrival} {n : Nat} (hw : a.pkt.wfSystem n = true) (hhere : SystemHere s a)
include hw hhere

theorem recoverRow_of_here (f : State → State) : systemRow n a s (s.recoverFrame (s.receive a f).settle) =
    .next (s.recoverFrame (withCredit s a (f (heard s a))).settle) := by
  rw [systemRow_next hw, receive_system f (kind_of_wfSystem hw) hhere]

theorem resetRow_of_here (f : State → State) : systemRow n a s (s.resetFrame (s.receive a f).settle) =
    .next (s.resetFrame (withCredit s a (f (heard s a))).settle) := by
  rw [systemRow_next hw, receive_system f (kind_of_wfSystem hw) hhere]

end Here

/-! ### Notices (R474 to R476) -/

section Notices
variable {s : State} {a : Arrival} {j m : Nat}

theorem exec_memberDown_of_here (hw : a.pkt.wfSystem 0x10 = true) (hhere : SystemHere s a) : exec (.memberDown a) s = .next (s.recoverFrame
    (withCredit s a ((heard s a).takeNotice (nJob a.pkt.payload) (nMember a.pkt.payload))).settle) :=
  recoverRow_of_here hw hhere _

theorem exec_memberUp_of_here (hw : a.pkt.wfSystem 0x12 = true) (hhere : SystemHere s a)
    (hown : (heard s a).plan.member (nJob a.pkt.payload) (heard s a).ownId = true) : exec (.memberUp a) s = .next (s.recoverFrame
    (withCredit s a ((heard s a).takeMemberUp (nJob a.pkt.payload) (nMember a.pkt.payload) (nBeat a.pkt.payload))).settle) :=
  (recoverRow_of_here hw hhere _).trans (by rw [if_pos hown])

section Proxy
variable (hw : a.pkt.wfSystem 0x11 = true) (hhere : SystemHere s a)
include hw hhere

theorem exec_memberDownProxy_of_other (hown : (heard s a).ownId ≠ nMember a.pkt.payload) : exec (.memberDownProxy a) s = .next (s.resetFrame
    (withCredit s a ((heard s a).takeNotice (nJob a.pkt.payload) (nMember a.pkt.payload))).settle) :=
  (resetRow_of_here hw hhere _).trans (by rw [if_neg (Ne.symm hown)])

/-- A proxy notice that names this package resets the partition that runs the job (R474, R475). -/
theorem exec_memberDownProxy_of_own {p : Nat} (hown : (heard s a).ownId = nMember a.pkt.payload)
    (hpart : (heard s a).jobPart (nJob a.pkt.payload) = some p)
    (hmember : (heard s a).plan.member (nJob a.pkt.payload) (nMember a.pkt.payload) = true) :
    exec (.memberDownProxy a) s = .next (s.resetFrame (withCredit s a ((heard s a).startPart p 6)).settle) :=
  (resetRow_of_here hw hhere _).trans (by rw [if_pos hown.symm, hpart, Option.elim_some, if_pos hmember])

end Proxy

theorem takeNotice_of_noticed (h : s.noticed j m = true) : s.takeNotice j m = s := if_pos (by rw [h]; rfl)

/-- A first notice is noted, counted by whether a twin stands in, and acted on (R475, R476, R486). -/
theorem takeNotice_of_new (hnew : s.noticed j m = false) (hmember : s.plan.member j m = true) (hown : s.plan.member j s.ownId = true)
    (hne : m ≠ s.ownId) (hsync : s.resyncWith j m = false) : s.takeNotice j m = ((({ s with
      fabric := { s.fabric with notices := s.fabric.notices ++ [(j, m)] }
      reset_ := { s.reset_ with
        fcFailovers := if s.oneTwin j m then satAdd s.reset_.fcFailovers 1 else s.reset_.fcFailovers
        fcBeyond := if s.oneTwin j m then s.reset_.fcBeyond else satAdd s.reset_.fcBeyond 1 } } : State).failNoticed j).peerDown).afterHub := by
  rw [State.takeNotice, if_neg (by simp [hnew, hmember, hown, hne])]
  dsimp only
  rw [if_neg]
  exact fun h => absurd (hsync.symm.trans h) Bool.false_ne_true

end Notices

/-! ### MEMBER_UP and the release of a rejoin (R475, R477, R478) -/

/-- What a step's release leaves alone: all but the partitions. -/
theorem State.releaseAtBeat_shape (s : State) (j b : Nat) : ∃ x, s.releaseAtBeat j b = { s with parts := x } := by
  unfold State.releaseAtBeat
  refine List.foldlRecOn (motive := fun t : State => ∃ x, t = { s with parts := x }) programs _ ⟨s.parts, rfl⟩ fun t ⟨x, hx⟩ y _ => ?_
  split
  · rw [hx]
    exact ⟨_, rfl⟩
  · exact ⟨x, hx⟩

/-- MEMBER_UP ends the notice, and touches neither contexts nor memory. -/
theorem takeMemberUp_eqs (s : State) (j m b : Nat) : (s.takeMemberUp j m b).noticed j m = false ∧ (s.takeMemberUp j m b).red = s.red ∧
    (s.takeMemberUp j m b).mem = s.mem := by
  have hgone : (s.fabric.notices.filter (fun x => x != (j, m))).contains (j, m) = false := by
    simp
  unfold State.takeMemberUp
  dsimp only
  generalize hu : State.releaseAtBeat _ j b = u
  obtain ⟨x, hx⟩ := State.releaseAtBeat_shape _ j b
  rw [hu] at hx
  subst hx
  exact ⟨hgone, rfl, rfl⟩

section Rejoin
variable {s : State} {j : JobId}

theorem exec_rejoinRelease : exec (.rejoinRelease j) s = .next (s.recoverFrame (rejoinReleaseStep j s).settle) := rfl

variable (hon : s.regOn = true)
include hon

theorem rejoinReleaseStep_of_on : rejoinReleaseStep j s = (s.waitingRelease j).foldl (fun s x =>
    ((s.runToNow (1024 * x.2.2)).onSrec x.1 x.2.1 (fun r => { r with releaseAt := none })).releaseStep x.1 x.2.1) s :=
  if_neg (by rw [hon]; exact Bool.false_ne_true)

theorem exec_rejoinRelease_of_none (hnp : s.mem.newPoison = []) (hwait : s.waitingRelease j = []) : exec (.rejoinRelease j) s = .next s := by
  rw [exec_rejoinRelease, rejoinReleaseStep_of_on hon, hwait, List.foldl_nil, State.settle_of_nil hnp]
  rfl

theorem exec_rejoinRelease_of_one {p k b : Nat} (hwait : s.waitingRelease j = [(p, k, b)]) : exec (.rejoinRelease j) s =
    .next (s.recoverFrame (((s.runToNow (1024 * b)).onSrec p k (fun r => { r with releaseAt := none })).releaseStep p k).settle) := by
  rw [exec_rejoinRelease, rejoinReleaseStep_of_on hon, hwait, List.foldl_cons, List.foldl_nil]

end Rejoin

/-- Settles O46, notice by notice and release by release. -/
theorem membersLeaveAndReturn : Obligations.MembersLeaveAndReturn := by
  unfold Obligations.MembersLeaveAndReturn
  refine ⟨⟨fun a s j m hhere hj hm => ?_, fun s j m => takeNotice_of_noticed, fun s j m => takeNotice_of_new, takeMemberUp_eqs⟩,
    fun j s hon hnp => ⟨exec_rejoinRelease_of_none hon hnp, fun p k b => exec_rejoinRelease_of_one hon⟩⟩
  subst hj hm
  exact ⟨fun hw => exec_memberDown_of_here hw hhere, fun hw => exec_memberDownProxy_of_other hw hhere,
    fun p hw => exec_memberDownProxy_of_own hw hhere, fun hw => exec_memberUp_of_here hw hhere⟩

/-! ### The resynchronisation of a twin (R478, R479) -/

section Resync
variable {v : W64} {s : State} {a : Arrival}

theorem exec_resyncArm (hd : s.dark = false) :
    exec (.resyncArm v) s = .next (s.recoverFrame ((s.resyncCtl v).respond (.done 0)).settle) :=
  congrArg (fun t : State => Host.Outcome.next (s.recoverFrame t.settle)) (writeRow_rst (o := 0x60) _ hd (by decide) (by decide))

theorem resyncCtl_of_running (h : s.reset_.rsState = 1 ∨ s.reset_.rsState = 2) :
    s.resyncCtl v = { s with reset_ := { s.reset_ with rsWritten := BitVec.ofNat 64 (fld v 0 16) } } := if_pos h

section Idle
variable (h1 : s.reset_.rsState ≠ 1) (h2 : s.reset_.rsState ≠ 2)
include h1 h2

theorem resyncCtl_of_no_arm (harm : rsArm v = false) : s.resyncCtl v = { s with reset_ := { s.reset_ with
    rsWritten := BitVec.ofNat 64 (fld v 0 16), rsCtl := BitVec.ofNat 64 (fld v 0 16) } } :=
  (if_neg (not_or.mpr ⟨h1, h2⟩)).trans (if_pos (by rw [harm]; rfl))

variable (harm : rsArm v = true)
include harm

/-- An armed resync needs a twin partner that is not down (R478). -/
theorem resyncCtl_of_arm : s.resyncCtl v =
    let u : State := { s with reset_ := { s.reset_ with
      rsWritten := BitVec.ofNat 64 (fld v 0 16), rsCtl := BitVec.ofNat 64 (fld v 0 16), rsState := 1, rsLeft := [], rsReady := none } }
    match s.plan.twin with
    | none => u.endResync
    | some t => if !jTwin (s.jobEntry (rsJob v)) || !s.plan.member (rsJob v) s.ownId || s.noticed (rsJob v) t then u.endResync
      else u.tellTwin 0x13 (rsJob v) :=
  ((if_neg (not_or.mpr ⟨h1, h2⟩)).trans (if_neg (by rw [harm]; exact Bool.false_ne_true))).trans rfl

theorem resyncCtl_of_alone (htwin : s.plan.twin = none) : s.resyncCtl v = { s with reset_ := { s.reset_ with
    rsWritten := BitVec.ofNat 64 (fld v 0 16), rsCtl := BitVec.ofNat 64 (fld v 0 16), rsState := 4, rsLeft := [], rsReady := none } } := by
  rw [resyncCtl_of_arm h1 h2 harm, htwin]
  rfl

theorem resyncCtl_of_partner {t : Nat} (htwin : s.plan.twin = some t) (hjob : jTwin (s.jobEntry (rsJob v)) = true)
    (hown : s.plan.member (rsJob v) s.ownId = true) (hup : s.noticed (rsJob v) t = false) : s.resyncCtl v = ({ s with reset_ := { s.reset_ with
      rsWritten := BitVec.ofNat 64 (fld v 0 16), rsCtl := BitVec.ofNat 64 (fld v 0 16), rsState := 1, rsLeft := [], rsReady := none } } : State).tellTwin
        0x13 (rsJob v) := by
  rw [resyncCtl_of_arm h1 h2 harm, htwin]
  dsimp only
  rw [if_neg (by simp [hjob, hown, hup])]

end Idle

/-! A resync that is done tells its partner and the members, and these messages move neither its fields nor the layout. -/

theorem State.account_tellTwin (s : State) (sub j : Nat) : (s.tellTwin sub j).account = s.account := by
  unfold State.tellTwin
  split
  · rfl
  · exact s.account_notify _ _

theorem State.account_sendMemberUp (s : State) (j b : Nat) (step : W64) : (s.sendMemberUp j b step).account = s.account :=
  State.account_notify _ _ _

/-- The package once its resync is done and its partner and the members have been told (R478 step 6). -/
def State.resyncTold (s : State) (j b : Nat) (step : W64) : State :=
  (({ s with reset_ := { s.reset_ with rsState := 3, rsHolding := s.reset_.rsHolding && !s.holdEnds j s.ownId } } : State).tellTwin
    0x15 j).sendMemberUp j b step

theorem State.account_resyncTold (s : State) (j b : Nat) (step : W64) : (s.resyncTold j b step).account = s.account := by
  rw [State.resyncTold, State.account_sendMemberUp, State.account_tellTwin]
  rfl

theorem resyncCopyDoneStep_of_all {u : State} {step : W64} {lexp : BitVec 8} {j b : Nat} (hst : s.reset_.rsState = 2)
    (hleft : s.reset_.rsLeft = []) (hready : s.reset_.rsReady = some (step, lexp)) (hj : j = rsJob s.reset_.rsCtl) (hb : b = s.rejoinBeat j s.beat)
    (hu : s.resyncTold j b step = u) :
    resyncCopyDoneStep s = u.adoptLoss (s.partOf (rsQuad s.reset_.rsCtl)) (rsSlot s.reset_.rsCtl) b lexp := by
  have hacc : u.account = s.account := hu ▸ s.account_resyncTold j b step
  have hctl : u.reset_.rsCtl = s.reset_.rsCtl := congrArg ResetAccount.rsCtl hacc
  have hpart : ∀ q, u.partOf q = s.partOf q := fun q => congrArg (fun x : ResetAccount => partOfQuad (fld x.stw.memcfgOn 0 3) q) hacc
  rw [← hctl, ← hpart]
  subst hu hj hb
  rw [resyncCopyDoneStep, hst, hleft, hready]
  rfl

theorem exec_resyncCopyDone : exec .resyncCopyDone s = .next (s.recoverFrame (resyncCopyDoneStep s).settle) := rfl

end Resync

/-- Settles O47: the write of STW_RESYNC_CTL by the state it finds, the partner's messages, and the end of the copy. -/
theorem resyncRunsThroughItsSteps : Obligations.ResyncRunsThroughItsSteps := by
  unfold Obligations.ResyncRunsThroughItsSteps
  refine ⟨fun v s => exec_resyncArm, fun v w s hw => ?_, fun a s v hhere hv => ?_, fun s step lexp j b hst hleft hready hj hb => ?_⟩
  · subst hw
    exact ⟨resyncCtl_of_running, fun h1 h2 => ⟨resyncCtl_of_no_arm h1 h2, resyncCtl_of_alone h1 h2, fun t harm => resyncCtl_of_partner h1 h2 harm⟩⟩
  · subst hv
    exact ⟨fun hw => recoverRow_of_here hw hhere _, fun hw => recoverRow_of_here hw hhere _, fun hw => recoverRow_of_here hw hhere _⟩
  · rw [exec_resyncCopyDone, resyncCopyDoneStep_of_all hst hleft hready hj hb rfl, State.resyncTold]

end Sys2Proof.Machine
end

section
/-!
What the fuses record (R449, R453, R459): the anti-rollback counters, the lifecycle and the number of its transitions. With the running
svns and the transition that waits for its reset, they are left alone by all the work of memory, hubs and tasks.
-/
namespace Sys2Proof.Machine

/-- The fuses, the running svns (R450), and the transition that is under way. -/
structure Fuses where
  ctr : List Nat
  svn : List Nat
  lifecycle : BitVec 3
  transitions : Nat
  lcBusy : Option (BitVec 3)

def State.fuses (s : State) : Fuses := ⟨s.stw.ctr, s.stw.svn, s.stw.lifecycle, s.stw.transitions, s.stw.lcBusy⟩

/-- An operation that answers beside its state has left the fuses of `s` alone. -/
structure KeepsFuses {α : Type} (s : State) (x : State × α) : Prop where
  eq : x.1.fuses = s.fuses

namespace KeepsFuses
variable {α : Type} {s t u : State} {x : State × α} {r : α}

theorem of_eq (hkept : KeepsFuses s x) (h : x = (u, r)) : u.fuses = s.fuses := by
  rw [← hkept.eq, h]

theorem trans (hkept : KeepsFuses t x) (h : t.fuses = s.fuses) : KeepsFuses s x := ⟨hkept.eq.trans h⟩

end KeepsFuses

section Keeps
variable (s : State)

theorem fuses_of_account {s t : State} (h : t.account = s.account) : t.fuses = s.fuses :=
  congrArg (fun a : ResetAccount => (⟨a.stw.ctr, a.stw.svn, a.stw.lifecycle, a.stw.transitions, a.stw.lcBusy⟩ : Fuses)) h

theorem State.LinkWork.fuses_eq {s t : State} (h : s.LinkWork t) : t.fuses = s.fuses := fuses_of_account h.account_eq

theorem State.TasksKept.fuses_eq {s t : State} (h : s.TasksKept t) : t.fuses = s.fuses := by
  rw [State.fuses, h.1]
  rfl

/-! ### Memory -/

theorem State.fuses_runTo (t : Nat) : (s.runTo t).fuses = s.fuses := (s.linkWork_runTo t).fuses_eq

theorem State.fuses_read (a n : Nat) : KeepsFuses s (s.read a n) := ⟨rfl⟩

theorem State.fuses_writeAck (o a : Nat) (bs : List Byte) : KeepsFuses s (s.writeAck o a bs) := ⟨(s.tasksKept_writeAck o a bs).fuses_eq⟩

theorem State.fuses_hubRead (job a n : Nat) : KeepsFuses s (s.hubRead job a n) := ⟨(s.tasksKept_hubRead job a n).fuses_eq⟩

theorem State.fuses_hubWrite (job o a : Nat) (bs : List Byte) : KeepsFuses s (s.hubWrite job o a bs) :=
  ⟨(s.tasksKept_hubWrite job o a bs).fuses_eq⟩

theorem State.fuses_readNats (job n : Nat) (as : List Addr) : KeepsFuses s (s.readNats job n as) := by
  induction as generalizing s with
  | nil => exact ⟨rfl⟩
  | cons a t ih =>
    unfold State.readNats
    split
    · next u h => exact ⟨(s.fuses_hubRead job a n).of_eq h⟩
    · next u bs h =>
      have hu := (s.fuses_hubRead job a n).of_eq h
      split
      · next v h => exact ⟨((ih u).of_eq h).trans hu⟩
      · next v l h => exact ⟨((ih u).of_eq h).trans hu⟩

theorem State.fuses_writeNats (job o n : Nat) (xs : List (Addr × Nat)) : KeepsFuses s (s.writeNats job o n xs) := by
  induction xs generalizing s with
  | nil => exact ⟨rfl⟩
  | cons x t ih => exact ⟨(ih _).eq.trans (s.fuses_hubWrite job o x.1 (leBytes x.2 n)).eq⟩

theorem State.fuses_writeParts (job o : Nat) (xs : List (Nat × List (Addr × Nat))) : KeepsFuses s (s.writeParts job o xs) := by
  induction xs generalizing s with
  | nil => exact ⟨rfl⟩
  | cons x t ih => exact ⟨(ih _).eq.trans (s.fuses_writeNats job o x.1 x.2).eq⟩

/-! ### Events, halts and dies -/

theorem State.fuses_event (mask : Nat) : (s.event mask).fuses = s.fuses := by
  obtain ⟨x, h⟩ := s.event_shape mask
  rw [h]
  rfl

theorem State.fuses_hostError (kind : Nat) (a : Addr) : (s.hostError kind a).fuses = s.fuses := by
  obtain ⟨ev, log, x, h⟩ := s.hostError_shape kind a
  rw [h]
  rfl

theorem State.fuses_dieFailed (slot : Nat) (code : BitVec 16) : (s.dieFailed slot code).fuses = s.fuses := by
  unfold State.dieFailed
  dsimp only
  split
  · rfl
  · split <;> rfl

theorem State.fuses_markFailed (slot : Nat) (code : BitVec 16) : (s.markFailed slot code).fuses = s.fuses := by
  unfold State.markFailed
  split
  · rfl
  · exact s.fuses_dieFailed slot code

theorem State.fuses_onPoison (a : Addr) : (s.onPoison a).fuses = s.fuses := by
  unfold State.onPoison
  dsimp only
  split
  · split
    · exact State.fuses_markFailed _ _ _
    · rfl
  · rfl

theorem State.fuses_settle : s.settle.fuses = s.fuses := foldl_keeps (fun t a => t.fuses_onPoison a) _ _

theorem State.fuses_noteRaise (c i old new : Nat) : (s.noteRaise c i old new).fuses = s.fuses := by
  unfold State.noteRaise
  dsimp only
  split <;> rfl

theorem State.fuses_claspAdd (c i n : Nat) : (s.claspAdd c i n).fuses = s.fuses := by
  unfold State.claspAdd
  dsimp only
  split
  · split
    · exact s.fuses_noteRaise c i _ _
    · exact s.fuses_noteRaise c i _ _
  · rfl

theorem State.fuses_hostClaspAdd (c i n : Nat) : (s.hostClaspAdd c i n).fuses = s.fuses := by
  unfold State.hostClaspAdd
  split
  · rfl
  · split
    · exact s.fuses_claspAdd c i n
    · exact s.fuses_event 1

/-! ### Rings and records

A definition that matches on a ring's answer is opened as a function, before it meets its arguments: the kernel would else compute the
range check of the ring to compare the two sides. -/

theorem State.fuses_ringRead (p a n : Nat) : KeepsFuses s (s.ringRead p a n) := by
  unfold State.ringRead
  split
  · exact ⟨rfl⟩
  · exact ⟨rfl⟩

theorem State.fuses_ringWrite (p a : Nat) (bs : List Byte) : KeepsFuses s (s.ringWrite p a bs) := by
  unfold State.ringWrite
  split
  · exact s.fuses_writeAck ownerReg a bs
  · exact ⟨rfl⟩

theorem State.fuses_ringFault (p : Nat) : (s.ringFault p).fuses = s.fuses := State.fuses_event _ _

theorem State.fuses_cqIndex (p : Nat) : KeepsFuses s (s.cqIndex p) := by
  obtain ⟨read, hr, hread⟩ : ∃ f, f = @State.ringRead ∧ ∀ s p a n, KeepsFuses s (f s p a n) := ⟨_, rfl, State.fuses_ringRead⟩
  generalize hf : @State.cqIndex = f
  delta State.cqIndex at hf
  rw [← hr] at hf
  subst hf
  dsimp only
  split
  · next u h => exact ⟨(hread s p _ 16).of_eq h⟩
  · next u v h => exact ⟨(hread s p _ 16).of_eq h⟩

theorem State.fuses_putRecord (p : Nat) (r : Record) (msi : Option Nat) : (s.putRecord p r msi).fuses = s.fuses := by
  obtain ⟨index, hi, hindex⟩ : ∃ f, f = @State.cqIndex ∧ ∀ s p, KeepsFuses s (f s p) := ⟨_, rfl, State.fuses_cqIndex⟩
  obtain ⟨write, hw, hwrite⟩ : ∃ f, f = @State.ringWrite ∧ ∀ s p a bs, KeepsFuses s (f s p a bs) := ⟨_, rfl, State.fuses_ringWrite⟩
  generalize hf : @State.putRecord = f
  delta State.putRecord at hf
  rw [← hi, ← hw] at hf
  subst hf
  dsimp only
  split
  · next u h => exact (u.fuses_ringFault p).trans ((hindex s p).of_eq h)
  · next u prod _ h =>
    have hu := (hindex s p).of_eq h
    split
    · next v h => exact (v.fuses_ringFault p).trans (((hwrite u p _ _).of_eq h).trans hu)
    · next v h =>
      have hv := ((hwrite u p _ _).of_eq h).trans hu
      split
      · next w h => exact (w.fuses_ringFault p).trans (((hwrite v p _ _).of_eq h).trans hv)
      · next w h =>
        have hw := ((hwrite v p _ _).of_eq h).trans hv
        split
        · exact hw
        · exact hw

theorem State.fuses_record (p : Nat) (r : Record) (msi : Option Nat) : (s.record p r msi).fuses = s.fuses := by
  unfold State.record
  split
  · exact s.fuses_putRecord p r msi
  · rfl

theorem State.fuses_payAborted (p : Nat) : (s.payAborted p).fuses = s.fuses := by
  unfold State.payAborted
  split
  · rfl
  · exact foldl_keeps (g := State.fuses) (fun t r => t.fuses_putRecord p _ _) _ s

end Keeps
end Sys2Proof.Machine
end

section
/-!
The work of tasks, bindings and step control leaves the fuses alone.
-/
namespace Sys2Proof.Machine

section Keeps
variable (s : State)

/-! ### Tasks -/

theorem State.fuses_dropStreams (p k : Nat) : (s.dropStreams p k).fuses = s.fuses := foldl_keeps (g := State.fuses) (fun _ _ => by rfl) _ s

theorem State.fuses_zeroClasps (i : Image) : (s.zeroClasps i).fuses = s.fuses := foldl_keeps (g := State.fuses) (fun _ _ => by rfl) _ s

theorem State.fuses_endTask (p : Nat) (t : Task) (r : Record) : (s.endTask p t r).fuses = s.fuses := by
  unfold State.endTask
  extract_lets cs prog bad stale first value step away s1 s2 s3 red s4 s5 s6 s7
  have h5 : s5.fuses = s4.fuses := foldl_keeps (g := State.fuses) (fun _ _ => by rfl) _ s4
  have h3 : s3.fuses = s2.fuses := foldl_keeps (g := State.fuses) (fun _ _ => by rfl) _ s2
  have h2 : s2.fuses = s1.fuses := by
    unfold s2
    split
    · rfl
    · cases t.image with
      | none => rfl
      | some i => exact s1.fuses_zeroClasps i
  exact (s7.fuses_record _ _ _).trans (h5.trans (h3.trans (h2.trans (s.fuses_dropStreams p _))))

theorem State.fuses_reap (p : Nat) : (s.reap p).fuses = s.fuses := by
  unfold State.reap
  split
  · split
    · split
      · exact s.fuses_endTask p _ _
      · rfl
    · rfl
  · rfl

theorem State.fuses_haltAll (t : Task) (h : HaltInfo) : (s.haltAll t h).fuses = s.fuses :=
  foldl_keeps (g := State.fuses) (fun _ _ => by rfl) _ s

theorem State.fuses_failCtx (c : Ctx) (reason chunk src : Nat) : (s.failCtx c reason chunk src).fuses = s.fuses := by
  unfold State.failCtx
  split
  · rfl
  · exact foldl_keeps (g := State.fuses) (fun _ _ => by rfl) _ _

theorem State.fuses_failNoticed (job : Nat) : (s.failNoticed job).fuses = s.fuses := by
  unfold State.failNoticed
  extract_lets both
  split
  · rfl
  · exact foldl_keeps (g := State.fuses) (fun t c => t.fuses_failCtx c 2 0 0) _ s

/-! ### Bindings -/

theorem State.fuses_updCount (p : Nat) (f : HubSt → HubSt) : (s.updCount p f).fuses = s.fuses :=
  foldl_keeps (g := State.fuses) (fun _ _ => by rfl) _ s

theorem State.fuses_updEnd (b : Binding) (st : BitVec 16) (due : Nat) : (s.updEnd b st due).fuses = s.fuses := rfl

theorem State.fuses_applyElem (b : Binding) (i : Nat) (r : W32) : KeepsFuses s (s.applyElem b i r) := by
  unfold State.applyElem
  extract_lets c p mf of_ adam bf
  split
  next s1 w h1 =>
  split
  next s2 m h2 =>
  split
  next s3 k h3 =>
  split
  next s4 f h4 =>
  have hread : s4.fuses = s.fuses := ((s3.fuses_readNats _ _ _).of_eq h4).trans (((s2.fuses_readNats _ _ _).of_eq h3).trans
    (((s1.fuses_readNats _ _ _).of_eq h2).trans ((s.fuses_readNats _ _ _).of_eq h1)))
  split
  · extract_lets
    split
    split
    next s5 ok h5 => exact ⟨((s4.fuses_writeParts _ _ _).of_eq h5).trans hread⟩
  · exact ⟨hread⟩

theorem State.fuses_applyGroup (b : Binding) (k : Nat) (rs : List W32) : KeepsFuses s (s.applyGroup b k rs) := by
  unfold State.applyGroup
  extract_lets c of_ ps sAt pAt
  split
  next s1 w h1 =>
  split
  next s2 m h2 =>
  split
  next s3 st h3 =>
  split
  next s4 pm h4 =>
  have hread : s4.fuses = s.fuses := ((s3.fuses_readNats _ _ _).of_eq h4).trans (((s2.fuses_readNats _ _ _).of_eq h3).trans
    (((s1.fuses_readNats _ _ _).of_eq h2).trans ((s.fuses_readNats _ _ _).of_eq h1)))
  split
  · extract_lets
    split
    split
    next s5 ok h5 => exact ⟨((s4.fuses_writeParts _ _ _).of_eq h5).trans hread⟩
  · exact ⟨hread⟩

/-- Of a fold whose state carries more, each step keeps the fuses: so does the fold. -/
theorem keepsFuses_foldl {α β : Type} {f : State × β → α → State × β} (hf : ∀ x a, KeepsFuses x.1 (f x a)) (xs : List α) (x : State × β) :
    KeepsFuses x.1 (xs.foldl f x) :=
  ⟨foldl_keeps (g := fun x : State × β => x.1.fuses) (fun x a => (hf x a).eq) xs x⟩

theorem State.fuses_applyAll (b : Binding) (vals : Sparse (Option W32)) : KeepsFuses s (s.applyAll b vals) := by
  unfold State.applyAll
  split
  · exact ⟨rfl⟩
  · split
    · refine keepsFuses_foldl (fun x k => ?_) _ (s, _, true)
      split
      · exact ⟨rfl⟩
      · split
        · next t c h => exact ⟨(x.1.fuses_applyGroup _ _ _).of_eq h⟩
        · next t h => exact ⟨(x.1.fuses_applyGroup _ _ _).of_eq h⟩
    · refine keepsFuses_foldl (fun x v => ?_) _ (s, _, true)
      split
      · exact ⟨rfl⟩
      · split
        · exact ⟨rfl⟩
        · split
          · next t c h => exact ⟨(x.1.fuses_applyElem _ _ _).of_eq h⟩
          · next t h => exact ⟨(x.1.fuses_applyElem _ _ _).of_eq h⟩

theorem State.fuses_pull (b : Binding) : KeepsFuses s (s.pull b) := by
  unfold State.pull
  split
  · exact ⟨rfl⟩
  · split
    · exact ⟨rfl⟩
    · exact ⟨rfl⟩

theorem State.fuses_serve (b : Binding) : (s.serve b).fuses = s.fuses := by
  unfold State.serve
  split
  · rfl
  · split
    next s1 b1 h1 =>
    split
    next s2 b2 ok h2 =>
    have hkept : s2.fuses = s.fuses := ((s1.fuses_applyAll _ _).of_eq h2).trans ((s.fuses_pull b).of_eq h1)
    extract_lets s3
    split
    · exact hkept
    · split
      · exact (State.fuses_updCount _ _ _).trans hkept
      · exact hkept
      · exact hkept

theorem State.fuses_serveAll : s.serveAll.fuses = s.fuses := foldl_keeps (g := State.fuses) (fun t b => t.fuses_serve b) _ s

theorem State.fuses_heldResults (b : Binding) : KeepsFuses s (s.heldResults b) := by
  unfold State.heldResults
  split
  · exact ⟨rfl⟩
  · split
    · next t h => exact ⟨(s.fuses_readNats _ _ _).of_eq h⟩
    · next t l h => exact ⟨(s.fuses_readNats _ _ _).of_eq h⟩

theorem State.fuses_atVerdict (clean : Bool) (b : Binding) : (s.atVerdict clean b).fuses = s.fuses := by
  unfold State.atVerdict
  split
  · rfl
  · split
    · exact s.fuses_updCount _ _
    · split
      · next t h => exact (t.fuses_updEnd _ _ _).trans ((s.fuses_heldResults b).of_eq h)
      · next t vals h =>
        split
        next u b1 ok hu =>
        have hkept := ((t.fuses_applyAll _ _).of_eq hu).trans ((s.fuses_heldResults b).of_eq h)
        split
        · exact hkept
        · exact hkept

theorem State.fuses_applyPass (p prog : Nat) (step : W64) (clean : Bool) : (s.applyPass p prog step clean).fuses = s.fuses :=
  foldl_keeps (g := State.fuses) (fun t b => t.fuses_atVerdict clean b) _ s

theorem State.fuses_haltBinding (b : Binding) : (s.haltBinding b).fuses = s.fuses := by
  unfold State.haltBinding
  split
  · rfl
  · extract_lets failed
    refine (State.fuses_updEnd _ _ _ _).trans ?_
    split
    · exact s.fuses_updCount _ _
    · rfl

/-! ### Waits -/

theorem State.fuses_closeCtx (x : Ctx) : (s.closeCtx x).fuses = s.fuses := rfl

theorem State.fuses_settleWaits : s.settleWaits.fuses = s.fuses := by
  unfold State.settleWaits
  extract_lets waits closed t
  refine (foldl_keeps (g := State.fuses) (fun t w => ?_) _ _).trans (foldl_keeps (g := State.fuses) (fun t w => by rfl) _ s)
  split <;> rfl

theorem State.fuses_notify (dsts : List Nat) (n : Notice) : (s.notify dsts n).fuses = s.fuses := fuses_of_account (s.account_notify dsts n)

/-! ### Step control -/

theorem State.fuses_regRead (p job a n : Nat) : KeepsFuses s (s.regRead p job a n) := by
  unfold State.regRead
  split
  · exact ⟨rfl⟩
  · split
    · next t bs h => exact ⟨(s.fuses_hubRead job a n).of_eq h⟩
    · next t h => exact ⟨(s.fuses_hubRead job a n).of_eq h⟩

theorem State.fuses_regPut (p job a : Nat) (bs : List Byte) : KeepsFuses s (s.regPut p job a bs) := by
  unfold State.regPut
  split
  · exact ⟨rfl⟩
  · split
    · next t h => exact ⟨(s.fuses_hubWrite job ownerReg a bs).of_eq h⟩
    · next t h => exact ⟨(s.fuses_hubWrite job ownerReg a bs).of_eq h⟩

theorem State.fuses_endRecvs (cs : List Nat) (prog : Nat) : (s.endRecvs cs prog).fuses = s.fuses :=
  foldl_keeps (g := State.fuses) (fun _ _ => by rfl) _ s

theorem State.fuses_haltTask (p : Nat) (t : Task) (c : Nat) (h : HaltInfo) : (s.haltTask p t c h).fuses = s.fuses := by
  unfold State.haltTask
  extract_lets t1 fh prog s1 s2 s3
  have h1 : s1.fuses = s.fuses := s.fuses_haltAll t1 fh
  have h2 : s2.fuses = s1.fuses := foldl_keeps (g := State.fuses) (fun u c => u.fuses_failCtx c 7 0 0) _ s1
  have h3 : s3.fuses = s2.fuses := foldl_keeps (g := State.fuses) (fun u b => u.fuses_haltBinding b) _ s2
  rw [State.fuses_reap, State.fuses_settleWaits, State.fuses_serveAll, State.fuses_endRecvs, h3, h2, h1]

theorem State.fuses_stepFault (p : Nat) (t : Task) (f : RegFault) : (s.stepFault p t f).fuses = s.fuses := s.fuses_haltTask p t _ _

end Keeps
end Sys2Proof.Machine
end

section
/-!
The close of a step and what follows the work of a hub leave the fuses alone (R165 to R174, R380).
-/
namespace Sys2Proof.Machine

section Keeps
variable (s : State)

theorem State.fuses_closeEntries (p job : Nat) (t : TableDesc) (delta : Int) (i n : Nat) :
    KeepsFuses s (s.closeEntries p job t delta i n) := by
  induction n generalizing s i with
  | zero => exact ⟨rfl⟩
  | succ n ih =>
    unfold State.closeEntries
    split
    · next u f h => exact ⟨(s.fuses_regRead _ _ _ _).of_eq h⟩
    · next u bs h =>
      have hu := (s.fuses_regRead _ _ _ _).of_eq h
      split
      · exact (ih u _).trans hu
      · split
        · next v f h => exact ⟨((u.fuses_regPut _ _ _ _).of_eq h).trans hu⟩
        · next v x h =>
          have hv := ((u.fuses_regPut _ _ _ _).of_eq h).trans hu
          split
          · next w f h => exact ⟨((v.fuses_regPut _ _ _ _).of_eq h).trans hv⟩
          · next w y h =>
            split
            next z k f hz => exact ⟨((ih w _).of_eq hz).trans (((v.fuses_regPut _ _ _ _).of_eq h).trans hv)⟩

theorem State.fuses_restoreEntries (p job : Nat) (t : TableDesc) (i n : Nat) : KeepsFuses s (s.restoreEntries p job t i n) := by
  induction n generalizing s i with
  | zero => exact ⟨rfl⟩
  | succ n ih =>
    unfold State.restoreEntries
    split
    · next u f h => exact ⟨(s.fuses_regRead _ _ _ _).of_eq h⟩
    · next u bs h =>
      have hu := (s.fuses_regRead _ _ _ _).of_eq h
      split
      · next v f h => exact ⟨((u.fuses_regPut _ _ _ _).of_eq h).trans hu⟩
      · next v x h => exact (ih v _).trans (((u.fuses_regPut _ _ _ _).of_eq h).trans hu)

theorem State.fuses_closeTables (p job : Nat) (list : Addr) (delta : Option Int) (i n : Nat) :
    KeepsFuses s (s.closeTables p job list delta i n) := by
  induction n generalizing s i with
  | zero => exact ⟨rfl⟩
  | succ n ih =>
    unfold State.closeTables
    split
    · next u f h => exact ⟨(s.fuses_regRead _ _ _ _).of_eq h⟩
    · next u bs h =>
      have hu := (s.fuses_regRead _ _ _ _).of_eq h
      extract_lets t
      split
      next v k f hv =>
      have hkept : v.fuses = s.fuses := by
        refine Eq.trans ?_ hu
        cases delta with
        | some d => exact (u.fuses_closeEntries _ _ _ _ _ _).of_eq hv
        | none =>
          obtain ⟨rfl, -⟩ := Prod.mk.inj hv
          exact (u.fuses_restoreEntries _ _ _ _ _).eq
      split
      · exact ⟨hkept⟩
      · split
        next w k' f' hw => exact ⟨((ih v _).of_eq hw).trans hkept⟩

theorem State.fuses_releaseStep (p prog : Nat) : (s.releaseStep p prog).fuses = s.fuses := by
  unfold State.releaseStep
  split
  · rfl
  · next t _ =>
    extract_lets r r'
    split
    · rfl
    · split
      · next u f h => exact (u.fuses_stepFault p t f).trans ((s.fuses_regPut _ _ _ _).of_eq h)
      · next u x h =>
        have hu : u.fuses = s.fuses := (s.fuses_regPut _ _ _ _).of_eq h
        exact hu

theorem State.fuses_closeStep (p prog : Nat) (t : Task) (x : Ctx) (o : StepOutcome) : (s.closeStep p prog t x o).fuses = s.fuses := by
  unfold State.closeStep
  extract_lets r s1 r1 delta
  split
  next u k f h =>
  have hu : u.fuses = s.fuses := (s1.fuses_closeTables _ _ _ _ _ _).of_eq h
  extract_lets r2 s2
  have hs2 : s2.fuses = s.fuses := hu
  cases f with
  | some f => exact (s2.fuses_stepFault p t f).trans hs2
  | none => exact ((State.fuses_releaseStep _ p prog).trans (s2.fuses_applyPass p prog _ _)).trans hs2

theorem State.fuses_finish (p prog : Nat) : (s.finish p prog).fuses = s.fuses := by
  unfold State.finish
  split
  · split
    · exact s.fuses_endTask p _ _
    · rfl
  · rfl

theorem State.fuses_verdictReached (p prog : Nat) : (s.verdictReached p prog).fuses = s.fuses := by
  unfold State.verdictReached
  split
  · rfl
  · split
    · split
      · exact (State.fuses_finish _ p prog).trans (s.fuses_closeStep p prog _ _ _)
      · rfl
    · rfl

theorem State.fuses_answerResync : s.answerResync.fuses = s.fuses := by
  unfold State.answerResync
  split
  · rfl
  · split
    · rfl
    · split
      · exact State.fuses_notify _ _ _
      · rfl

theorem State.fuses_verdictsReached (xs : List (Nat × Nat)) : (xs.foldl (fun t x => t.verdictReached x.1 x.2) s).fuses = s.fuses :=
  foldl_keeps (g := State.fuses) (fun t x => t.fuses_verdictReached x.1 x.2) xs s

theorem State.fuses_afterHub : s.afterHub.fuses = s.fuses := by
  rw [State.afterHub, State.fuses_answerResync, State.fuses_verdictsReached, State.fuses_settleWaits, State.fuses_serveAll]
  rfl

end Keeps
end Sys2Proof.Machine
end

section
/-!
Resets leave the fuses alone but for the boot, which reads the svns of the bundles that it takes (R450 to R452, R467 to R473, R485).
-/
namespace Sys2Proof.Machine

section Keeps
variable (s : State)

/-! ### Edges, links and dies -/

theorem State.fuses_replaceLane (e slice : Nat) (dir : Bool) : (s.replaceLane e slice dir).fuses = s.fuses := by
  unfold State.replaceLane
  extract_lets d
  split <;> rfl

theorem State.fuses_dropSlice (e slice : Nat) : (s.dropSlice e slice).fuses = s.fuses := by
  unfold State.dropSlice
  extract_lets s1 s2
  split <;> rfl

theorem State.fuses_mendSlice (e slice : Nat) : (s.mendSlice e slice).fuses = s.fuses := by
  unfold State.mendSlice
  split
  · rfl
  · extract_lets s1
    have h1 : s1.fuses = s.fuses :=
      foldl_keeps (g := State.fuses) (fun t d => (State.fuses_replaceLane _ e slice d).trans (t.fuses_replaceLane e slice d)) _ s
    split
    · exact (s1.fuses_dropSlice e slice).trans h1
    · exact h1

theorem State.fuses_trainEdge (failed : List Nat) (e : Nat) : (s.trainEdge failed e).fuses = s.fuses := by
  unfold State.trainEdge
  extract_lets s1
  exact foldl_keeps (g := State.fuses) (fun t k => t.fuses_mendSlice e k) _ s

theorem State.fuses_darkEdges (qs : List Nat) : (s.darkEdges qs).fuses = s.fuses := by
  unfold State.darkEdges
  extract_lets mine es s1
  exact foldl_keeps (g := State.fuses) (fun _ _ => by rfl) _ s

theorem State.fuses_trainMesh (p : Nat) (failed : List Nat) : (s.trainMesh p failed).fuses = s.fuses := by
  unfold State.trainMesh
  extract_lets qs s1
  exact foldl_keeps (g := State.fuses) (fun t e => t.fuses_trainEdge failed e) _ s

theorem State.fuses_trainRing (failed : List Nat) : (s.trainRing failed).fuses = s.fuses :=
  foldl_keeps (g := State.fuses) (fun t e => t.fuses_trainEdge failed e) _ s

theorem State.fuses_startLinks (failed : List Nat) : (s.startLinks failed).fuses = s.fuses := by
  unfold State.startLinks
  extract_lets used s1 s2
  exact (foldl_keeps (g := State.fuses) (fun _ _ => by rfl) _ s2).trans (State.fuses_trainRing _ failed)

theorem State.fuses_writeRecords (rs : List Rec) : (s.writeRecords rs).fuses = s.fuses := by
  unfold State.writeRecords
  split
  · rfl
  · split <;> rfl

theorem State.fuses_bringQuads (qs : List Nat) (auto : Bool) (dies edges : List Nat) : KeepsFuses s (s.bringQuads qs auto dies edges) := by
  unfold State.bringQuads
  extract_lets panel s1
  split
  · exact ⟨s1.fuses_event (2 ^ 5)⟩
  · extract_lets f rs promoted s2
    split
    · exact ⟨s1.fuses_writeRecords _⟩
    · exact ⟨s1.fuses_writeRecords _⟩

/-! ### Partition resets (R470) -/

theorem State.fuses_startPart (q cause : Nat) : (s.startPart q cause).fuses = s.fuses := by
  unfold State.startPart
  extract_lets p qs s1 r s2 s3
  split
  · rfl
  · have h3 : s3.account = s.account := by
      rw [State.account_onLast, State.account_failResync, State.account_haltPart, State.account_ite_countBeyond]
    have hkept := fuses_of_account h3
    clear_value s3
    exact hkept

theorem State.fuses_discard (p : Nat) : (s.discard p).fuses = s.fuses := by
  unfold State.discard
  extract_lets qs mine s1 s2
  have h1 : s1.fuses = s.fuses := s.fuses_darkEdges qs
  have h2 : s2.fuses = s1.fuses := foldl_keeps (g := State.fuses) (fun _ _ => by rfl) _ s1
  clear_value s1 s2
  exact h2.trans h1

theorem State.fuses_closeArchive (r : PartReset) (qs : List Nat) (pkg : Bool) (n : Nat) : (s.closeArchive r qs pkg n).fuses = s.fuses := by
  unfold State.closeArchive
  split <;> rfl

theorem State.fuses_finishPart (p : Nat) (r : PartReset) : (s.finishPart p r).fuses = s.fuses := State.fuses_payAborted _ p

theorem State.fuses_nextPhase (p n : Nat) (r : PartReset) : (s.nextPhase p r n).fuses = s.fuses := rfl
theorem State.fuses_onLast (qs : List Nat) (f : ResetLast → ResetLast) : (s.onLast qs f).fuses = s.fuses := rfl
theorem State.fuses_domains (ds : List Nat) (on : Bool) : (s.domains ds on).fuses = s.fuses := rfl
theorem State.fuses_settleDomains (qs : List Nat) : (s.settleDomains qs).fuses = s.fuses := rfl
theorem State.fuses_hardRepair (qs : List Nat) : (s.hardRepair qs).fuses = s.fuses := rfl
theorem State.fuses_sampleStraps (qs : List Nat) : (s.sampleStraps qs).fuses = s.fuses := rfl
theorem State.fuses_wipeQuads (qs : List Nat) : (s.wipeQuads qs).fuses = s.fuses := rfl

theorem State.fuses_endPartPhase (p : Nat) (r : PartReset) (o : PhaseObs) : (s.endPartPhase p r o).fuses = s.fuses := by
  unfold State.endPartPhase
  extract_lets qs u u3
  have hu : u.fuses = s.fuses := s.fuses_runTo _
  clear_value u
  split
  · rw [State.fuses_nextPhase, hu]
  · rw [State.fuses_nextPhase, State.fuses_discard, State.fuses_closeArchive, hu]
  · rw [State.fuses_nextPhase, State.fuses_sampleStraps, State.fuses_domains, hu]
  · rw [State.fuses_nextPhase, hu]
  · split
    · exact hu
    · split
      next v promoted h =>
        rw [State.fuses_nextPhase, State.fuses_onLast, State.fuses_settleDomains, (u.fuses_bringQuads _ _ _ _).of_eq h, hu]
  · rw [State.fuses_nextPhase, State.fuses_hardRepair, hu]
  · rw [State.fuses_nextPhase, State.fuses_trainMesh, hu]
  · rw [State.fuses_nextPhase, State.fuses_wipeQuads, hu]
  · rw [State.fuses_finishPart, hu]

theorem fuses_partPhaseStep (q : Nat) (o : PhaseObs) : (partPhaseStep q o s).fuses = s.fuses := by
  unfold partPhaseStep
  split
  · rfl
  · exact s.fuses_endPartPhase q _ o

/-! ### Package resets and power (R485, R487, R488) -/

theorem State.fuses_startPkg (cause : Nat) : (s.startPkg cause).fuses = s.fuses := by
  unfold State.startPkg
  split
  · rfl
  · extract_lets running early dump units r s1 s2 s3
    have h2 : s2.account = s1.account := by
      refine foldl_keeps (g := State.account) (fun t p => ?_) _ s1
      split
      · rfl
      · exact t.account_haltPart p cause
    have h3 : s3.account = s.account := by
      rw [State.account_onLast, State.account_abandonSet, h2, State.account_ite_countBeyond]
    have hkept := fuses_of_account h3
    clear_value s3
    exact hkept

theorem State.fuses_powerDown : s.powerDown.fuses = s.fuses := by
  unfold State.powerDown
  extract_lets s1
  have h1 : s1.fuses = s.fuses := foldl_keeps (g := State.fuses) (fun t p => t.fuses_discard p) _ s
  clear_value s1
  exact h1

theorem State.fuses_powerLoss : s.powerLoss.fuses = s.fuses := by
  unfold State.powerLoss
  split
  · rfl
  · exact s.fuses_powerDown

theorem State.fuses_bringAll (o : PhaseObs) : (s.bringAll o).fuses = s.fuses := by
  unfold State.bringAll
  extract_lets dies edges s1 s2 s3 s4 s5
  have h2 : s2.fuses = s1.fuses := by
    refine foldl_keeps (g := State.fuses) (fun t p => ?_) _ s1
    split
    next v promoted h =>
      have hv := (t.fuses_bringQuads _ _ _ _).of_eq h
      exact hv
  have h3 : s3.fuses = s2.fuses := (State.fuses_hardRepair _ _).trans (s2.fuses_settleDomains _)
  have h4 : s4.fuses = s3.fuses := foldl_keeps (g := State.fuses) (fun t p => t.fuses_trainMesh p edges) _ s3
  have h5 : s5.fuses = s4.fuses := s4.fuses_wipeQuads _
  have h1 : s1.fuses = s.fuses := s.fuses_sampleStraps _
  clear_value s1 s2 s3 s4 s5
  exact h5.trans (h4.trans (h3.trans (h2.trans h1)))

theorem State.fuses_onPower (f : PowerSt → PowerSt) : (s.onPower f).fuses = s.fuses := rfl

theorem State.fuses_trouble (flag : Nat) : (s.trouble flag).fuses = s.fuses := (State.fuses_startPkg _ 5).trans (s.fuses_onPower _)

theorem fuses_vinSampleStep (a b : Nat) : (vinSampleStep a b s).fuses = s.fuses := by
  unfold vinSampleStep
  extract_lets v s1 p s2
  have h2 : s2.fuses = s.fuses := rfl
  clear_value s2
  split
  · rfl
  · split
    · exact s2.fuses_powerLoss.trans h2
    · split
      · exact (s2.fuses_trouble 45).trans h2
      · split
        · exact (s2.fuses_trouble 44).trans h2
        · exact h2

theorem fuses_pkgResetPinStep : (pkgResetPinStep s).fuses = s.fuses := State.fuses_startPkg _ 0

theorem fuses_thermalSampleStep (e : EnvSample) : (thermalSampleStep e s).fuses = s.fuses := by
  unfold thermalSampleStep
  split
  · rfl
  · extract_lets s1
    split
    · exact State.fuses_startPkg _ 5
    · split <;> rfl

theorem State.fuses_resetCtl (v : W64) : (s.resetCtl v).fuses = s.fuses := by
  unfold State.resetCtl
  split
  · rfl
  · split
    · exact s.fuses_startPkg 1
    · split
      · exact s.fuses_startPart _ 1
      · rfl

end Keeps
end Sys2Proof.Machine
end

section
/-!
Writes of registers leave the fuses alone, but for STW_LIFECYCLE (R439, R440, R461).
-/
namespace Sys2Proof.Machine

section Keeps
variable (s : State)

theorem fuses_ite {c : Prop} [Decidable c] {t u : State} {x : Fuses} (ht : t.fuses = x) (hu : u.fuses = x) :
    (if c then t else u).fuses = x := by
  split
  · exact ht
  · exact hu

/-! ### The staging registers (R346) -/

theorem State.fuses_setStage (r : StageSet) (f : StageRegs → StageRegs) : (s.setStage r f).fuses = s.fuses :=
  fuses_of_account (s.account_setStage r f)

theorem State.fuses_onRoot (id : W32) (scope job commit : Nat) (set : Option StageSet) (f : RootRec → RootRec) :
    (s.onRoot id scope job commit set f).fuses = s.fuses := by
  unfold State.onRoot
  split <;> rfl

theorem State.fuses_readPlan : KeepsFuses s s.readPlan := by
  unfold State.readPlan
  extract_lets base
  split
  · exact ⟨rfl⟩
  · split
    · exact ⟨rfl⟩
    · split
      · next t bs h => exact ⟨(s.fuses_read _ _).of_eq h⟩
      · next t h => exact ⟨(s.fuses_read _ _).of_eq h⟩

theorem State.fuses_readUpdList (p : Nat) (v : W64) : KeepsFuses s (s.readUpdList p v) := by
  unfold State.readUpdList
  extract_lets base n
  split
  · exact ⟨rfl⟩
  · split
    · exact ⟨rfl⟩
    · split
      · next t h => exact ⟨(s.fuses_read _ _).of_eq h⟩
      · next t bs h => exact ⟨(s.fuses_read _ _).of_eq h⟩

theorem State.fuses_readDescr (p a : Nat) : KeepsFuses s (s.readDescr p a) := by
  unfold State.readDescr
  split
  · exact ⟨rfl⟩
  · split
    · next t h => exact ⟨(s.fuses_read _ _).of_eq h⟩
    · next t bs h => exact ⟨(s.fuses_read _ _).of_eq h⟩

theorem State.fuses_checkDescrs (p : Nat) (as : List Addr) : KeepsFuses s (s.checkDescrs p as) := by
  induction as generalizing s with
  | nil => exact ⟨rfl⟩
  | cons a t ih =>
    unfold State.checkDescrs
    split
    · next u h => exact ⟨(s.fuses_readDescr p a).of_eq h⟩
    · next u d h =>
      extract_lets mine ok
      split
      next v ok' rest hv => exact ⟨((ih u).of_eq hv).trans ((s.fuses_readDescr p a).of_eq h)⟩

theorem State.fuses_checkSet (r : StageSet) (scope job C : Nat) : KeepsFuses s (s.checkSet r scope job C) := by
  unfold State.checkSet
  extract_lets digest base
  split
  · split
    · next t h => exact ⟨s.fuses_readPlan.of_eq h⟩
    · next t pl h => exact ⟨s.fuses_readPlan.of_eq h⟩
  · extract_lets p own regs
    split
    · next t h => exact ⟨(s.fuses_readUpdList _ _).of_eq h⟩
    · next t as h =>
      split
      next u ok fields hu => exact ⟨((t.fuses_checkDescrs _ _).of_eq hu).trans ((s.fuses_readUpdList _ _).of_eq h)⟩

theorem State.fuses_stageCtl (r : StageSet) (v : W64) : (s.stageCtl r v).fuses = s.fuses := by
  unfold State.stageCtl
  extract_lets s1 C id job scope dg key
  have h1 : s1.fuses = s.fuses := s.fuses_setStage r _
  clear_value s1
  split
  · exact h1
  · split
    next root who _ =>
    extract_lets mine fail
    have hfail : ∀ (t : State) (reason : Nat), (fail t reason).fuses = t.fuses := by
      intro t reason
      unfold fail
      extract_lets u same
      have hu : u.fuses = t.fuses := t.fuses_setStage r _
      split
      · exact (u.fuses_onRoot _ _ _ _ _ _).trans hu
      · exact hu
    clear_value fail
    split
    · exact (hfail s1 2).trans h1
    · split
      · exact (hfail s1 3).trans h1
      · split
        next u x h =>
        extract_lets k w
        have hw : w.fuses = s.fuses := (u.fuses_setStage r _).trans (((s1.fuses_checkSet _ _ _ _).of_eq h).trans h1)
        clear_value w
        split
        · exact (w.fuses_onRoot _ _ _ _ _ _).trans hw
        · split
          · exact (fuses_of_account (w.account_inject rfl)).trans hw
          · exact hw

/-! ### Registers of the steward (R445 to R456) -/

theorem State.fuses_hostIfWrite (v : W64) : (s.hostIfWrite v).fuses = s.fuses := by
  unfold State.hostIfWrite State.onStw
  split
  · rfl
  · dsimp only
    split <;> rfl

theorem State.fuses_acceptWrite (i : Nat) (v : W64) : (s.acceptWrite i v).fuses = s.fuses := by
  unfold State.acceptWrite
  split
  · rfl
  · extract_lets s1
    split <;> rfl

theorem State.fuses_memcfgWrite (v : W32) : (s.memcfgWrite v).fuses = s.fuses := by
  unfold State.memcfgWrite
  split
  · exact s.fuses_hostError _ _
  · rfl

theorem State.fuses_svnCommit (v : W64) : (s.svnCommit v).fuses = s.fuses := by
  unfold State.svnCommit
  extract_lets m
  split <;> rfl

theorem State.fuses_attestCtlWrite (v : W64) : (s.attestCtlWrite v).fuses = s.fuses := by
  unfold State.attestCtlWrite
  extract_lets s1
  split
  · rfl
  · unfold State.attestStart
    split <;> rfl

/-! ### Pages and blocks -/

theorem State.fuses_tellTwin (sub j : Nat) : (s.tellTwin sub j).fuses = s.fuses := fuses_of_account (s.account_tellTwin sub j)

theorem State.fuses_resyncCtl (v : W64) : (s.resyncCtl v).fuses = s.fuses := by
  unfold State.resyncCtl
  extract_lets r s1 r2 s2 j r3 s3
  split
  · rfl
  · split
    · rfl
    · split
      · rfl
      · split
        · rfl
        · exact s3.fuses_tellTwin _ _

theorem State.fuses_archiveCtlWrite (v : W64) : (s.archiveCtlWrite v).fuses = s.fuses := rfl

theorem State.fuses_ringConfig (p : Nat) (cq : Bool) (v : W64) : (s.ringConfig p cq v).fuses = s.fuses := rfl

theorem State.fuses_powerCap (v : W64) : (s.powerCap v).fuses = s.fuses := rfl

theorem State.fuses_timeSet (v : W64) : (s.timeSet v).fuses = s.fuses := by
  unfold State.timeSet
  split <;> rfl

theorem State.fuses_putPage4 (a : Addr) (v : W32) : (s.putPage4 a v).fuses = s.fuses := by
  unfold State.putPage4
  exact fuses_ite (fuses_ite rfl (fuses_ite (s.fuses_memcfgWrite v) rfl)) (fuses_ite rfl (fuses_ite rfl (fuses_ite rfl rfl)))

theorem State.fuses_putPkg (o : Nat) (v : W64) : (s.putPkg o v).fuses = s.fuses := by
  unfold State.putPkg
  exact fuses_ite rfl (fuses_ite (s.fuses_timeSet v) (fuses_ite (s.fuses_powerCap v) (fuses_ite rfl (fuses_ite rfl
    (fuses_ite (s.fuses_attestCtlWrite v) (fuses_ite rfl (fuses_ite rfl (fuses_ite (s.fuses_svnCommit v) (fuses_ite rfl
      (fuses_ite (s.fuses_stageCtl .pkg v) (fuses_ite rfl rfl)))))))))))

theorem State.fuses_putPart (p o : Nat) (v : W64) : (s.putPart p o v).fuses = s.fuses := by
  unfold State.putPart
  exact fuses_ite rfl (fuses_ite rfl (fuses_ite rfl (fuses_ite (s.fuses_stageCtl _ v) (fuses_ite (s.fuses_setStage _ _) (fuses_ite rfl
    (fuses_ite rfl (fuses_ite rfl rfl)))))))

theorem State.fuses_putRst (o : Nat) (v : W64) : (s.putRst o v).fuses = s.fuses := by
  unfold State.putRst
  exact fuses_ite (s.fuses_resetCtl v) (fuses_ite (s.fuses_archiveCtlWrite v) (fuses_ite rfl (fuses_ite (s.fuses_resyncCtl v)
    (fuses_ite rfl (fuses_ite rfl (fuses_ite rfl (fuses_ite rfl rfl)))))))

theorem State.fuses_putTile (c o : Nat) (v : W64) : (s.putTile c o v).fuses = s.fuses := fuses_ite rfl rfl

theorem State.fuses_putHub (h o : Nat) (v : W64) : (s.putHub h o v).fuses = s.fuses := by
  unfold State.putHub
  exact fuses_ite rfl (fuses_ite rfl (fuses_ite rfl rfl))

theorem State.fuses_putTile4 (c o : Nat) (v : W32) : (s.putTile4 c o v).fuses = s.fuses := fuses_ite (s.fuses_hostClaspAdd c _ _) rfl

theorem State.fuses_putHub4 (h o : Nat) (v : W32) : (s.putHub4 h o v).fuses = s.fuses := fuses_ite rfl (fuses_ite rfl rfl)

theorem State.fuses_put4 (a : Addr) (v : W32) : (s.put4 a v).fuses = s.fuses := by
  unfold State.put4
  exact fuses_ite (s.fuses_putTile4 _ _ v) (fuses_ite (s.fuses_putHub4 _ _ v) (fuses_ite rfl (s.fuses_putPage4 a v)))

theorem State.fuses_keepLow (a : Addr) (v : Option W32) : (s.keepLow a v).fuses = s.fuses := rfl

theorem State.fuses_respond (r : HostResp) : (s.respond r).fuses = s.fuses := rfl

theorem State.fuses_holdAccess (r : HostReq) : (s.holdAccess r).fuses = s.fuses := rfl

theorem State.fuses_refuseAccess (r : HostReq) : (s.refuseAccess r).fuses = s.fuses := s.fuses_hostError 0 r.addr

theorem State.fuses_badBlock (r : HostReq) : (s.badBlock r).fuses = s.fuses := by
  unfold State.badBlock
  cases r.agent with
  | load => exact s.fuses_hostError 1 r.addr
  | fetch => exact s.fuses_hostError 1 r.addr
  | store => exact s.fuses_hostError 2 r.addr
  | pcieRead => exact s.fuses_hostError 3 r.addr
  | pcieWrite => exact s.fuses_hostError 4 r.addr

theorem State.fuses_memAccess (r : HostReq) : (s.memAccess r).fuses = s.fuses := by
  unfold State.memAccess
  split
  · exact s.fuses_refuseAccess r
  · split
    · rfl
    · extract_lets s1
      have h1 : s1.fuses = s.fuses := rfl
      clear_value s1
      split
      · split
        next u ok h =>
        have hu : u.fuses = s.fuses := ((s1.fuses_writeAck _ _ _).of_eq h).trans h1
        exact fuses_ite hu ((u.fuses_badBlock r).trans hu)
      · split
        · next u bs h =>
          have hu : u.fuses = s.fuses := ((s1.fuses_read _ _).of_eq h).trans h1
          exact hu
        · next u h =>
          have hu : u.fuses = s.fuses := ((s1.fuses_read _ _).of_eq h).trans h1
          exact (u.fuses_badBlock r).trans hu

end Keeps
end Sys2Proof.Machine
end

section
/-!
What a step may do to the fuses (R453, R459 to R461): raise a counter to the running svn, and make one transition of the table.
-/
namespace Sys2Proof.Machine

/-- The fuses of one state, then of another that a step leads to. -/
structure Fuses.Goes (a b : Fuses) : Prop where
  ctr : ∀ c, c < 3 → a.ctr.getD c 0 ≤ b.ctr.getD c 0
  bounded : (∀ c, c < 3 → a.ctr.getD c 0 ≤ 63 ∧ a.svn.getD c 0 ≤ 63) → ∀ c, c < 3 → b.ctr.getD c 0 ≤ 63 ∧ b.svn.getD c 0 ≤ 63
  transitions : a.transitions ≤ b.transitions
  edge : b.lifecycle ≠ a.lifecycle → (lifecycleEdge a.lifecycle.toNat b.lifecycle.toNat).isSome = true

/-- The same outside a boot, where a transition that has been made waits for its reset and lets no other be made (R461). -/
structure Fuses.Holds (a b : Fuses) : Prop extends Fuses.Goes a b where
  waits : a.lcBusy.isSome = true → b.lifecycle = a.lifecycle ∧ b.lcBusy.isSome = true
  made : b.lifecycle ≠ a.lifecycle → b.lcBusy.isSome = true

namespace Fuses
variable {a b c : Fuses}

theorem Holds.refl (a : Fuses) : a.Holds a where
  ctr _ _ := le_refl _
  bounded h := h
  transitions := le_refl _
  edge h := absurd rfl h
  waits h := ⟨rfl, h⟩
  made h := absurd rfl h

/-- Two steps make at most one transition: the second one finds the first one's waiting. -/
theorem Holds.trans (hab : a.Holds b) (hbc : b.Holds c) : a.Holds c := by
  have hmade : b.lifecycle ≠ a.lifecycle → c.lifecycle = b.lifecycle ∧ c.lcBusy.isSome = true := fun h => hbc.waits (hab.made h)
  refine ⟨⟨fun i hi => (hab.ctr i hi).trans (hbc.ctr i hi), fun h => hbc.bounded (hab.bounded h), hab.transitions.trans hbc.transitions, fun h => ?_⟩,
    fun h => ?_, fun h => ?_⟩
  · by_cases hsame : b.lifecycle = a.lifecycle
    · rw [← hsame] at h ⊢
      exact hbc.edge h
    · rw [(hmade hsame).1]
      exact hab.edge hsame
  · obtain ⟨hl, hb⟩ := hab.waits h
    rw [← hl]
    exact hbc.waits hb
  · by_cases hsame : b.lifecycle = a.lifecycle
    · exact hbc.made (hsame ▸ h)
    · exact (hmade hsame).2

theorem Holds.of_eq {s t : State} (h : t.fuses = s.fuses) : s.fuses.Holds t.fuses := h ▸ .refl _

end Fuses

section Steps
variable {s t : State}

/-- Work that leaves the fuses alone may follow. -/
theorem Fuses.Holds.then_eq {x : Fuses} {u : State} (h : x.Holds t.fuses) (hu : u.fuses = t.fuses) : x.Holds u.fuses := hu ▸ h

theorem holds_foldl {α : Type} {f : State → α → State} (hf : ∀ (t : State) (x : α), t.fuses.Holds (f t x).fuses) (xs : List α) (s : State) :
    s.fuses.Holds (xs.foldl f s).fuses :=
  List.foldlRecOn (motive := fun t : State => s.fuses.Holds t.fuses) xs f (.refl _) fun t ht x _ => ht.trans (hf t x)

/-! ### Commits (R454) -/

/-- A commit raises counters to the running svns, and no further (R453, R454). -/
theorem holds_svnDoneStep (s : State) : s.fuses.Holds (svnDoneStep s).fuses := by
  unfold svnDoneStep
  split
  · exact .refl _
  · next m _ =>
    split
    · exact .refl _
    · refine ⟨⟨fun c hc => ?_, fun h c hc => ?_, le_refl _, fun h => absurd rfl h⟩, fun h => ⟨rfl, h⟩, fun h => absurd rfl h⟩
      · show _ ≤ (raised m s.stw.ctr s.stw.svn).getD c 0
        rw [raised_getD m _ _ hc]
        split
        · exact le_max_left _ _
        · exact le_refl _
      · refine ⟨?_, (h c hc).2⟩
        show (raised m s.stw.ctr s.stw.svn).getD c 0 ≤ 63
        rw [raised_getD m _ _ hc]
        split
        · exact max_le (h c hc).1 (h c hc).2
        · exact (h c hc).1

/-! ### The lifecycle (R460, R461) -/

/-- An accepted request names a transition of the table, and none waits for its reset. -/
theorem of_lifecycleResult_accepted {dest a : Nat} (h : s.lifecycleResult dest a = 1) :
    s.stw.lcBusy = none ∧ (lifecycleEdge s.stw.lifecycle.toNat dest).isSome = true := by
  cases hb : s.stw.lcBusy with
  | some d =>
    rw [lifecycleResult_of_busy (by rw [hb]; rfl)] at h
    exact absurd h (by decide)
  | none =>
    rw [lifecycleResult_of_idle hb] at h
    cases hedge : lifecycleEdge s.stw.lifecycle.toNat dest with
    | none =>
      rw [hedge] at h
      exact absurd (show (3 : BitVec 3) = 1 from h) (by decide)
    | some token => exact ⟨rfl, rfl⟩

/-- Blowing the fuses of a transition of the table is one. -/
theorem holds_blow {dest : BitVec 3} (hb : s.stw.lcBusy = none) (hedge : (lifecycleEdge s.stw.lifecycle.toNat dest.toNat).isSome = true) :
    s.fuses.Holds (s.onStw (fun w => w.blow dest)).fuses where
  ctr _ _ := le_refl _
  bounded h := h
  transitions := Nat.le_succ _
  edge _ := hedge
  waits h := absurd (hb ▸ h : (none : Option (BitVec 3)).isSome = true) Bool.false_ne_true
  made _ := rfl

theorem holds_lifecycleWrite (s : State) (v : W64) : s.fuses.Holds (s.lifecycleWrite v).fuses := by
  unfold State.lifecycleWrite
  extract_lets dest s1 r s2
  split
  · exact .refl _
  · split
    · exact .of_eq rfl
    · split
      · next hr =>
        obtain ⟨hb, hedge⟩ := of_lifecycleResult_accepted hr
        exact ((Fuses.Holds.of_eq rfl).trans (holds_blow (s := s2) hb hedge)).then_eq (State.fuses_startPkg _ 4)
      · exact .of_eq rfl

/-! ### Accesses -/

theorem holds_ite {c : Prop} [Decidable c] {t u : State} {x : Fuses} (ht : x.Holds t.fuses) (hu : x.Holds u.fuses) :
    x.Holds (if c then t else u).fuses := by
  split
  · exact ht
  · exact hu

theorem holds_putNeg (s : State) (o : Nat) (v : W64) : s.fuses.Holds (s.putNeg o v).fuses := by
  unfold State.putNeg
  exact holds_ite (.of_eq (s.fuses_hostIfWrite v)) (holds_ite (.of_eq (s.fuses_acceptWrite _ v)) (holds_ite (holds_lifecycleWrite s v) (.refl _)))

theorem holds_put8 (s : State) (a : Addr) (v : W64) : s.fuses.Holds (s.put8 a v).fuses := by
  unfold State.put8
  exact holds_ite (.of_eq (s.fuses_putTile _ _ v)) (holds_ite (.of_eq (s.fuses_putHub _ _ v)) (holds_ite (.refl _)
    (holds_ite (holds_putNeg s _ v) (holds_ite (.of_eq (s.fuses_putPkg _ v)) (holds_ite (.of_eq (s.fuses_putPart _ _ v))
      (.of_eq (s.fuses_putRst _ v)))))))

theorem holds_putReg (s : State) (r : HostReq) : s.fuses.Holds (s.putReg r).fuses := by
  unfold State.putReg
  extract_lets v base lo
  exact holds_ite (holds_ite (.of_eq ((State.fuses_put4 _ _ _).trans (s.fuses_put4 _ _))) (.of_eq (s.fuses_put4 _ _)))
    (holds_ite ((Fuses.Holds.of_eq (s.fuses_keepLow _ _)).trans (holds_put8 _ _ _)) (holds_ite (.of_eq (s.fuses_keepLow _ _))
      ((Fuses.Holds.of_eq (s.fuses_keepLow _ _)).trans (holds_put8 _ _ _))))

theorem holds_serveReg (s : State) (r : HostReq) : s.fuses.Holds (s.serveReg r).fuses := by
  unfold State.serveReg
  exact holds_ite ((holds_putReg s r).then_eq (State.fuses_respond _ _)) (.of_eq (s.fuses_respond _))

theorem holds_blockAccess (s : State) (r : HostReq) (mapped : Bool) : s.fuses.Holds (s.blockAccess r mapped).fuses := by
  unfold State.blockAccess
  exact holds_ite (.of_eq (s.fuses_refuseAccess r)) (holds_ite (.of_eq (s.fuses_hostError 5 r.addr)) (holds_serveReg s r))

/-- An access to a page does what it does, or is refused, answered or held (R440). -/
theorem holds_gated {f : State → State} (hf : s.fuses.Holds (f s).fuses) (p : Option Proc) (r : HostReq) :
    s.fuses.Holds (s.gated p r f).fuses := by
  have herr : ∀ kind, s.fuses.Holds ((s.hostError kind r.addr).respond .error).fuses := fun kind => .of_eq (s.fuses_hostError kind r.addr)
  unfold State.gated
  extract_lets rom
  refine holds_ite (.refl _) (holds_ite (herr 0) (holds_ite (herr 5) (holds_ite (.of_eq (s.fuses_respond _)) ?_)))
  split
  · exact hf
  · split
    · exact herr 5
    · exact .of_eq (s.fuses_holdAccess r)
    · exact holds_ite (.of_eq (s.fuses_holdAccess r)) hf

theorem holds_writeRow {f : State → State} (hf : s.fuses.Holds (f s).fuses) (p : Option Proc) (a : Addr) (size : Nat) (v : W64) :
    s.fuses.Holds (s.writeRow p a size v f).fuses :=
  holds_gated (f := fun s => (f s).respond (.done 0)) (hf.then_eq (State.fuses_respond _ _)) p _

theorem holds_access (s : State) (r : HostReq) : s.fuses.Holds (s.access r).fuses := by
  have hrefuse : s.fuses.Holds (s.refuseAccess r).fuses := .of_eq (s.fuses_refuseAccess r)
  have hanswer : ∀ x, s.fuses.Holds (s.respond x).fuses := fun x => .of_eq (s.fuses_respond x)
  unfold State.access
  extract_lets a other
  exact holds_ite (.refl _) (holds_ite (hanswer _) (holds_ite (holds_ite (hanswer _) hrefuse)
    (holds_ite (.of_eq (s.fuses_memAccess r)) (holds_ite (holds_blockAccess s r _) (holds_ite (holds_blockAccess s r _)
      (holds_ite (holds_blockAccess s r _) (holds_ite (holds_gated (holds_serveReg s r) _ r) hrefuse)))))))

theorem holds_serveHeld (s : State) : s.fuses.Holds s.serveHeld.fuses :=
  holds_foldl holds_access s.host.held { s with host := { s.host with held := [] } }

end Steps
end Sys2Proof.Machine
end

section
/-!
No step lowers a counter or leaves the table of lifecycle transitions (R453, R460).
-/
namespace Sys2Proof.Machine

/-! ### Processors (R434 to R437) -/

section Firmware
variable (s : State)

theorem State.fuses_onProc (p : Proc) (f : FwProc → FwProc) : (s.onProc p f).fuses = s.fuses := by
  cases p <;> rfl

theorem State.fuses_countBeyond : s.countBeyond.fuses = s.fuses := rfl

theorem State.fuses_curatorFailed (c : Nat) : (s.curatorFailed c).fuses = s.fuses := State.fuses_markFailed _ _ _

theorem holds_failProc (p : Proc) : s.fuses.Holds (s.failProc p).fuses := by
  unfold State.failProc
  extract_lets s1 s2
  have h1 : s1.fuses = s.fuses := (State.fuses_event _ _).trans ((State.fuses_countBeyond _).trans (s.fuses_onProc p _))
  have h2 : s2.fuses = s1.fuses := by
    unfold s2
    clear_value s1
    cases p with
    | curator c => exact s1.fuses_curatorFailed c
    | bursar => exact s1.fuses_onPower _
    | registrar => exact s1.fuses_startPkg 2
    | custodian => exact s1.fuses_startPkg 3
  exact (Fuses.Holds.of_eq (h2.trans h1)).trans (holds_serveHeld s2)

theorem holds_watchdogStep (p : Proc) : s.fuses.Holds (watchdogStep p s).fuses := by
  unfold watchdogStep
  extract_lets last s1 now recent s2 fw s3 s4 s5
  have h2 : s2.fuses = s.fuses := (s1.fuses_onProc p _).trans (s.fuses_runTo _)
  have h3 : s3.fuses = s2.fuses := rfl
  have h4 : s4.fuses = s3.fuses := State.fuses_event _ _
  have h5 : s5.fuses = s4.fuses := fuses_ite rfl rfl
  have hkept : s.fuses.Holds s5.fuses := .of_eq (h5.trans (h4.trans (h3.trans h2)))
  clear_value s5
  exact holds_ite (.refl _) (holds_ite (hkept.trans (holds_failProc s5 p)) hkept)

theorem State.fuses_registrarBack (from_ : Nat) : (s.registrarBack from_).fuses = s.fuses := by
  unfold State.registrarBack
  extract_lets t0 b covered s1
  rw [State.fuses_afterHub]
  refine foldl_keeps (g := State.fuses) (fun t p => ?_) _ s1
  exact State.fuses_payAborted _ p

theorem State.fuses_lateHalt (c : Nat) : (s.lateHalt c).fuses = s.fuses := by
  unfold State.lateHalt
  split
  · split
    · exact fuses_ite rfl (State.fuses_reap _ _)
    · rfl
  · rfl

theorem State.fuses_custodianBack : s.custodianBack.fuses = s.fuses := by
  unfold State.custodianBack
  refine foldl_keeps (g := State.fuses) (fun t m => ?_) _ _
  exact t.fuses_dieFailed m.1 m.2

theorem holds_restartStep (p : Proc) : s.fuses.Holds (restartStep p s).fuses := by
  unfold restartStep
  extract_lets k s1 s2
  have h1 : s1.fuses = s.fuses := s.fuses_onProc p _
  have h2 : s2.fuses = s1.fuses := by
    unfold s2
    clear_value s1
    cases p with
    | registrar => exact s1.fuses_registrarBack _
    | curator c => exact s1.fuses_lateHalt c
    | custodian => exact s1.fuses_custodianBack
    | bursar => rfl
  exact holds_ite (.refl _) (holds_ite (holds_failProc s p) ((Fuses.Holds.of_eq (h2.trans h1)).trans (holds_serveHeld s2)))

theorem holds_restartExceedsStep (p : Proc) : s.fuses.Holds (restartExceedsStep p s).fuses := by
  unfold restartExceedsStep
  extract_lets k
  exact holds_ite (.refl _) ((Fuses.Holds.of_eq (s.fuses_runTo _)).trans (holds_failProc _ p))

end Firmware

/-! ### The boot (R450 to R452) -/

section Boot
variable (s : State)

/-- A boot reads the svns of the bundles that it takes, each of 6 bits, and no transition waits any more. -/
theorem goes_boot : s.fuses.Goes s.boot.fuses where
  ctr _ _ := le_refl _
  bounded h c hc := by
    refine ⟨(h c hc).1, ?_⟩
    have hsvn : ∀ x : Option Bundle, x.elim 0 (fun y => y.svn.toNat) ≤ 63 := fun x => by
      cases x with
      | none => exact Nat.zero_le _
      | some y => exact Nat.le_of_lt_succ y.svn.isLt
    match c, hc with
    | 0, _ => exact hsvn _
    | 1, _ => exact hsvn _
    | 2, _ => exact hsvn _
  transitions := le_refl _
  edge h := absurd rfl h

theorem State.fuses_nextPkgPhase (n : Nat) : (s.nextPkgPhase n).fuses = s.fuses := rfl

theorem goes_endPkgPhase (r : PartReset) (o : PhaseObs) : s.fuses.Goes (s.endPkgPhase r o).fuses := by
  unfold State.endPkgPhase
  extract_lets u u7
  have hu : u.fuses = s.fuses := s.fuses_runTo _
  have hgoes : ∀ {t : State}, t.fuses = u.fuses → s.fuses.Goes t.fuses := fun h => (Fuses.Holds.of_eq (h.trans hu)).toGoes
  clear_value u
  split
  · exact hgoes rfl
  · split
    · exact hgoes rfl
    · exact hgoes ((State.fuses_nextPkgPhase _ 3).trans ((State.fuses_powerDown _).trans (u.fuses_closeArchive _ _ _ _)))
    · rw [← hu, State.fuses_nextPkgPhase]
      exact goes_boot u
    · split
      · exact hgoes rfl
      · exact hgoes ((State.fuses_nextPkgPhase _ 5).trans (u.fuses_startLinks _))
    · exact hgoes ((State.fuses_nextPkgPhase _ 6).trans (u.fuses_domains _ true))
    · exact hgoes ((State.fuses_nextPkgPhase _ 7).trans (u.fuses_bringAll o))
    · exact hgoes rfl

theorem goes_pkgPhaseStep (o : PhaseObs) : s.fuses.Goes (pkgPhaseStep o s).fuses := by
  unfold pkgPhaseStep
  split
  · exact (Fuses.Holds.refl _).toGoes
  · exact goes_endPkgPhase s _ o

/-- POWER_ON boots a package whose fuses stand, and whose svns read 0. -/
theorem goes_powerOnStep : s.fuses.Goes (powerOnStep s).fuses := by
  cases hpow : s.power.on || !s.power.mayStart with
  | true => rw [powerOnStep, if_pos hpow]; exact (Fuses.Holds.refl _).toGoes
  | false =>
    rw [Bool.or_eq_false_iff, Bool.not_eq_false'] at hpow
    rw [powerOnStep_of_start hpow.1 hpow.2]
    have hboot := goes_boot (s.powerUp.onLast [0, 1, 2, 3] (fun l => l.begun 4 0 true))
    have hsvn : ∀ c, c < 3 → ({} : StewardSt).svn.getD c 0 ≤ 63 := by decide
    exact ⟨hboot.ctr, fun h => hboot.bounded fun c hc => ⟨(h c hc).1, hsvn c hc⟩, hboot.transitions, hboot.edge⟩

end Boot

/-! ### Rows -/

section Rows
variable {s t : State}

/-- An outcome that is a next state has fuses that `s` may lead to. -/
def GoesOn (s : State) (o : Host.Outcome State Fault Refusal) : Prop := ∀ t, o = .next t → s.fuses.Goes t.fuses

theorem goesOn_next (h : s.fuses.Goes t.fuses) : GoesOn s (.next t) := by
  rintro _ ⟨⟩
  exact h

theorem goesOn_eq (h : t.fuses = s.fuses) : GoesOn s (.next t) := goesOn_next (Fuses.Holds.of_eq h).toGoes

theorem goesOn_formed {ok : Bool} (h : t.fuses = s.fuses) : GoesOn s (formed ok s t) := by
  cases ok with
  | false => exact goesOn_eq rfl
  | true => exact goesOn_eq h

/-- A row of a reset writes all of its step. -/
theorem goesOn_reset (h : s.fuses.Goes t.fuses) : GoesOn s (.next (s.resetFrame t)) := goesOn_next h

theorem goesOn_reset_settle (h : s.fuses.Goes t.fuses) : GoesOn s (.next (s.resetFrame t.settle)) :=
  goesOn_reset (t.fuses_settle ▸ h)

/-- So does a row of the steward, of its own registers. -/
theorem goesOn_steward (h : s.fuses.Goes t.fuses) : GoesOn s (.next (s.stewardFrame t)) := goesOn_next h

end Rows

end Sys2Proof.Machine
end

section
/-!
The rows of the commands: all but those of resets, processors, registers and the steward leave the fuses alone by their frames.
-/
namespace Sys2Proof.Machine

/-! ### Rows that write all of the state (R454 to R461, R475) -/

section Steps
variable {s : State} {f : State → State}

theorem State.fuses_drop (s : State) (h : Nat) (d : Drop) : (s.drop h d).fuses = s.fuses := rfl

theorem State.fuses_deliver (hf : ∀ t : State, (f t).fuses = t.fuses) (s : State) (l : Nat) (p : Packet) : (s.deliver l p f).fuses = s.fuses := by
  unfold State.deliver
  extract_lets h
  split
  · exact s.fuses_drop h _
  · split
    · exact s.fuses_drop h _
    · exact fuses_ite (s.linkWork_sendOn _ _ _ _).fuses_eq (s.fuses_drop h _)
    · exact fuses_ite (hf s) (fuses_ite (hf s) (s.fuses_drop h _))

theorem State.fuses_portGranted (s : State) (l : Nat) (p : Packet) : (s.portGranted l p).fuses = s.fuses := fuses_ite rfl rfl

theorem State.fuses_arrive (hf : ∀ t : State, (f t).fuses = t.fuses) (s : State) (a : Arrival) : (s.arrive a f).fuses = s.fuses := by
  unfold State.arrive
  extract_lets l s1 s2 s3 sent s4
  have h2 : s2.fuses = s.fuses := (s1.linkWork_ackLink _ _).fuses_eq
  have h3 : s3.fuses = s.fuses := (State.fuses_portGranted _ _ _).trans h2
  have h4 : s4.fuses = s.fuses := (hf s3).trans h3
  exact fuses_ite rfl (fuses_ite rfl (fuses_ite h2 (fuses_ite h3 (fuses_ite h4 h4))))

theorem State.fuses_receive (hf : ∀ t : State, (f t).fuses = t.fuses) (s : State) (a : Arrival) : (s.receive a f).fuses = s.fuses :=
  fuses_ite rfl (State.fuses_arrive (fun t => t.fuses_deliver hf _ _) s a)

theorem State.fuses_takeNotice (s : State) (j m : Nat) : (s.takeNotice j m).fuses = s.fuses := by
  unfold State.takeNotice
  extract_lets single fab res s1 s2
  have h2 : s2.fuses = s.fuses := fuses_ite rfl rfl
  clear_value s2
  exact fuses_ite rfl ((State.fuses_afterHub _).trans ((s2.fuses_failNoticed j).trans h2))

theorem fuses_memberDownProxyStep (a : Arrival) (s : State) : (memberDownProxyStep a s).fuses = s.fuses := by
  unfold memberDownProxyStep
  extract_lets j n
  refine State.fuses_receive (fun t => fuses_ite ?_ (t.fuses_takeNotice j n)) s a
  cases t.jobPart j with
  | none => rfl
  | some p => exact fuses_ite (t.fuses_startPart p 6) rfl

theorem State.fuses_attestOut (s : State) (buf : Nat) (bs : List Byte) : KeepsFuses s (s.attestOut buf bs) := by
  unfold State.attestOut
  split
  · exact s.fuses_writeAck _ _ _
  · exact ⟨rfl⟩

theorem State.fuses_attestRun (s : State) (op : BitVec 2) (nonce : BitVec 384) (buf time : Nat) : KeepsFuses s (s.attestRun op nonce buf time) := by
  unfold State.attestRun
  split
  · exact ⟨rfl⟩
  · split
    · split
      · exact s.fuses_attestOut _ _
      · exact ⟨rfl⟩
    · split
      · exact ⟨rfl⟩
      · split
        · exact s.fuses_attestOut _ _
        · exact ⟨rfl⟩

theorem fuses_attestDoneStep (s : State) : (attestDoneStep s).fuses = s.fuses := by
  unfold attestDoneStep
  split
  · rfl
  · split
    · rfl
    · split
      next u ok h =>
      have hu : u.fuses = s.fuses := (s.fuses_attestRun _ _ _ _).of_eq h
      exact hu

theorem fuses_ucieDownStep (m : Nat) (s : State) : (ucieDownStep m s).fuses = s.fuses := by
  unfold ucieDownStep
  exact fuses_ite rfl ((State.fuses_event _ _).trans (State.fuses_countBeyond _))

end Steps

/-! ### All commands -/

theorem goes_writeRow {s : State} {f : State → State} {p : Option Proc} {a : Addr} {size : Nat} {v : W64} (hf : s.fuses.Holds (f s).fuses) :
    s.fuses.Goes (s.writeRow p a size v f).fuses := (holds_writeRow hf p a size v).toGoes

theorem goes_of_eq {s t : State} (h : t.fuses = s.fuses) : s.fuses.Goes t.fuses := (Fuses.Holds.of_eq h).toGoes

section Frames
variable (s t : State)

theorem State.coreFrame_fuses : (s.coreFrame t).fuses = s.fuses := rfl
theorem State.taskFrame_fuses : (s.taskFrame t).fuses = s.fuses := rfl
theorem State.curFrame_fuses : (s.curFrame t).fuses = s.fuses := rfl
theorem State.doneFrame_fuses : (s.doneFrame t).fuses = s.fuses := rfl
theorem State.pageFrame_fuses : (s.pageFrame t).fuses = s.fuses := rfl
theorem State.admitFrame_fuses : (s.admitFrame t).fuses = s.fuses := rfl
theorem State.capFrame_fuses : (s.capFrame t).fuses = s.fuses := rfl
theorem State.meshFrame_fuses : (s.meshFrame t).fuses = s.fuses := rfl
theorem State.linkFrame_fuses : (s.linkFrame t).fuses = s.fuses := rfl
theorem State.stageFrame_fuses : (s.stageFrame t).fuses = s.fuses := rfl
theorem State.timeFrame_fuses : (s.timeFrame t).fuses = s.fuses := rfl
theorem State.archiveFrame_fuses : (s.archiveFrame t).fuses = s.fuses := rfl
theorem State.packetFrame_fuses : (s.packetFrame t).fuses = s.fuses := rfl
theorem State.recoverFrame_fuses : (s.recoverFrame t).fuses = s.fuses := rfl

end Frames

/-- The commands by the frame that their meanings write through, and those that write the steward's state by what their steps do. -/
theorem exec_goesOn (s : State) : ∀ i : Instr, GoesOn s (exec i s)
  | .mma _ | .mmaComputeEnd _ | .mmaEpilogueEnd _ | .vop _ | .vfunc _ | .funcLoadResident _ | .vrowstat _ | .vnormFwd _ | .vnormBwd _
  | .vsoftmaxFwd _ | .vsoftmaxBwd _ | .vconv _ | .copy _ | .copy2d _ | .copyt _ | .reblock _ | .gather _ | .scatter _ | .clusterPark _
  | .clusterWake _ | .hbmScrubBlock _ => goesOn_eq (State.coreFrame_fuses s _)
  | .folioFetch _ | .curatorDispatch _ | .wait _ | .signal _ | .fence _ | .fenceSatisfied _ | .call _ | .timeat _ | .timeatResume _
  | .end_ _ => goesOn_eq (State.curFrame_fuses s _)
  | .clusterPartEnd _ | .commandComplete _ _ | .haltReport _ | .redOpen _ | .redContrib _ | .redContribTopk _ | .redWait _ | .ringPass _
  | .send _ | .recv _ | .updApply _ | .waitingBindingCheck _ | .updInstall _ | .stepCloseBegin _ _ | .bindingClose _
  | .loggedUnitRetake _ | .preopenExpire _ | .contextDeadline _ => goesOn_eq (State.taskFrame_fuses s _)
  | .claspAdd _ _ _ | .tileClaspAdd _ _ _ | .signalRelease _ => goesOn_eq (State.doneFrame_fuses s _)
  | .ringConfigWrite _ _ _ => goesOn_eq (State.pageFrame_fuses s _)
  | .submissionRingRead _ | .admissionDecision _ | .deadlineMiss _ | .programSwitch _ | .switchComplete _ | .taskStart _ =>
    goesOn_eq (State.admitFrame_fuses s _)
  | .powerCapWrite _ | .bursarPowerMeasure _ => goesOn_eq (State.capFrame_fuses s _)
  | .reweightDrainEnd _ | .laneRepairRecord => goesOn_eq (State.meshFrame_fuses s _)
  | .beaconSend _ | .beacon _ _ _ | .trainingTimeout _ | .absentRetrain _ | .linkRejoinDrainEnd _ | .epochGraceEnd _ =>
    goesOn_eq (State.linkFrame_fuses s _)
  | .stageCheck _ _ | .stageDecision _ | .stageApply _ => goesOn_eq (State.stageFrame_fuses s _)
  | .timeSyncSend | .ppsEdge _ | .ptpMeasurement _ | .timeSet _ | .syncLossHoldover | .holdoverExpire | .refLossTimeout
  | .referenceLost => goesOn_eq (State.timeFrame_fuses s _)
  | .archiveRead _ | .archiveCopyDone | .archiveUnitTimeout _ _ _ _ => goesOn_eq (State.archiveFrame_fuses s _)
  | .pkgResetNRelease => goesOn_eq rfl
  | .linkDown _ _ | .rejoinRelease _ | .resyncArm _ | .resyncCopyDone => goesOn_eq (State.recoverFrame_fuses s _)
  | .flitReceive _ _ _ _ | .laneFailure _ _ _ _ | .laneReplaced _ _ _ | .sliceRetire _ _ => goesOn_formed (State.meshFrame_fuses s _)
  | .mergeCommit _ | .requestAgeBlock _ _ _ | .carrelScrubRow _ _ => goesOn_formed (State.coreFrame_fuses s _)
  | .write _ | .readReq _ | .readRsp _ | .remoteSignal _ | .contrib _ | .contribTopk _ | .fragment _ | .result _ | .twin _
  | .credit _ => goesOn_formed (State.packetFrame_fuses s _)
  | .stageReport _ | .stageGo _ | .stageAbandon _ => goesOn_formed (State.stageFrame_fuses s _)
  | .timeSync _ => goesOn_formed (State.timeFrame_fuses s _)
  | .memberDown _ | .memberUp _ | .resyncReq _ | .resyncReady _ | .resyncDone _ => goesOn_formed (State.recoverFrame_fuses s _)
  | .memberDownProxy a => goesOn_formed ((State.fuses_settle _).trans (fuses_memberDownProxyStep a s))
  | .powerOn => goesOn_reset (goes_powerOnStep s)
  | .vinSample a b => goesOn_reset (goes_of_eq (fuses_vinSampleStep s a b))
  | .pkgResetPin => goesOn_reset (goes_of_eq (fuses_pkgResetPinStep s))
  | .thermalSample _ => goesOn_reset (goes_of_eq (fuses_thermalSampleStep s _))
  | .partitionResetRequest v | .packageResetRequest v => goesOn_reset (goes_writeRow (.of_eq (s.fuses_resetCtl v)))
  | .partitionResetPhaseEnd q o => goesOn_reset_settle (goes_of_eq (fuses_partPhaseStep s q o))
  | .packageResetPhaseEnd o => goesOn_reset_settle (goes_pkgPhaseStep s o)
  | .lifecycleRequest v => goesOn_reset (goes_writeRow (holds_lifecycleWrite s v))
  | .registerWrite _ | .hostAccess _ => goesOn_reset_settle (holds_access s _).toGoes
  | .watchdogExpire p => goesOn_reset_settle (holds_watchdogStep s p).toGoes
  | .restartComplete p => goesOn_reset_settle (holds_restartStep s p).toGoes
  | .restartExceedsBound p => goesOn_reset_settle (holds_restartExceedsStep s p).toGoes
  | .featAcceptWrite v => goesOn_steward (goes_writeRow (.of_eq (s.fuses_acceptWrite 3 v)))
  | .memcfgWrite v => goesOn_steward (goes_writeRow (.of_eq (s.fuses_memcfgWrite v)))
  | .svnCommit v => goesOn_steward (goes_writeRow (.of_eq (s.fuses_svnCommit v)))
  | .svnCommitDone => goesOn_steward (holds_svnDoneStep s).toGoes
  | .report | .extend | .certs => goesOn_steward (goes_writeRow (.of_eq (s.fuses_attestCtlWrite _)))
  | .attestOpDone => goesOn_steward (goes_of_eq ((State.fuses_settle _).trans (fuses_attestDoneStep s)))
  | .ucieModuleDown m => goesOn_steward (goes_of_eq (fuses_ucieDownStep m s))

theorem step_goesOn (s : State) : GoesOn s (step s) := by
  cases hq : s.pending with
  | nil =>
    rw [step_of_empty hq]
    exact goesOn_eq (s.fuses_runTo _)
  | cons i rest =>
    rw [step_of_cons hq]
    exact exec_goesOn { s with pending := rest } i

/-- The transitions of the table of R460. -/
theorem mem_edges_of_lifecycleEdge {a b : BitVec 3} (h : (lifecycleEdge a.toNat b.toNat).isSome = true) :
    (a.toNat, b.toNat) ∈ [(1, 2), (2, 3), (3, 1), (1, 4), (2, 4), (3, 4)] := by
  revert a b
  decide

/-- Settles O8: every step goes from fuses to fuses as `Fuses.Goes` says, and no transition of the table leads out of DECOMMISSIONED. -/
theorem fusesNeverGoBack : Obligations.FusesNeverGoBack := by
  unfold Obligations.FusesNeverGoBack
  intro s t h
  obtain ⟨hctr, hbounded, htransitions, hedge⟩ := step_goesOn s t h
  refine ⟨hctr, hbounded, fun h4 => ?_, htransitions, fun hne => mem_edges_of_lifecycleEdge (hedge hne)⟩
  by_contra hne
  have hsome := hedge (by rw [show s.fuses.lifecycle = 4 from h4]; exact hne)
  rw [show s.fuses.lifecycle = 4 from h4] at hsome
  exact absurd (hsome.symm.trans (congrArg Option.isSome (lifecycleEdge_four _))) (by decide)

end Sys2Proof.Machine
end

section
/-!
The HBM interleave of R62: each row of granules is a rotation of the partition's stacks, so the model's inverse undoes it.
-/
namespace Sys2Proof.Machine

/-- By how many stacks the interleave rotates granule row `m` (R62). -/
def rowShift (m : Nat) : Nat := nfld m 0 5 + nfld m 5 5 + nfld m 10 5 + nfld m 15 5 + nfld m 20 5 + nfld m 25 3

theorem interleave_eq (b q0 n a : Nat) :
    interleave b q0 n a = (6 * q0 + ((a - b) / 512 % (6 * n) + rowShift ((a - b) / 512 / (6 * n))) % (6 * n),
      (a - b) / 512 / (6 * n) * 512 + a % 512) := by
  simp only [interleave, rowShift, Nat.shiftRight_eq_div_pow, Nat.reducePow]

theorem unInterleave_eq (b q0 n stack off : Nat) :
    unInterleave b q0 n stack off =
      b + (off / 512 * (6 * n) + ((stack - 6 * q0) + 6 * n * 8 - rowShift (off / 512) % (6 * n)) % (6 * n)) * 512 + off % 512 := rfl

/-- Rotating a place among `k` forward and back gives the place. -/
theorem rotate_back {k r : Nat} (f : Nat) (hr : r < k) : ((r + f) % k + k * 8 - f % k) % k = r := by
  have hf : f % k < k := Nat.mod_lt f (by omega)
  rw [Nat.add_mod r f k, Nat.mod_eq_of_lt hr]
  generalize f % k = g at hf ⊢
  rcases Nat.lt_or_ge (r + g) k with h | h
  · rw [Nat.mod_eq_of_lt h, show r + g + k * 8 - g = r + k * 8 by omega, Nat.add_mul_mod_self_left, Nat.mod_eq_of_lt hr]
  · rw [Nat.mod_eq_sub_mod h, Nat.mod_eq_of_lt (show r + g - k < k by omega), show r + g - k + k * 8 - g = r + k * 7 by omega, Nat.add_mul_mod_self_left,
      Nat.mod_eq_of_lt hr]

/-- Undoing the interleave of any address of an aligned partition gives the address back (R62). -/
theorem unInterleave_interleave {b q0 n a : Nat} (hn : 0 < n) (hb : b % 512 = 0) (ha : b ≤ a) :
    unInterleave b q0 n (interleave b q0 n a).1 (interleave b q0 n a).2 = a := by
  rw [unInterleave_eq, interleave_eq]
  dsimp only
  generalize hg : (a - b) / 512 = g
  have hrow : (g / (6 * n) * 512 + a % 512) / 512 = g / (6 * n) := by omega
  have hoff : (g / (6 * n) * 512 + a % 512) % 512 = a % 512 := by omega
  rw [hrow, hoff, Nat.add_sub_cancel_left, rotate_back _ (Nat.mod_lt g (by omega)), Nat.mul_comm _ (6 * n), Nat.div_add_mod]
  omega

theorem interleave_stack {b q0 n a : Nat} (hn : 0 < n) :
    6 * q0 ≤ (interleave b q0 n a).1 ∧ (interleave b q0 n a).1 < 6 * q0 + 6 * n := by
  rw [interleave_eq]
  exact ⟨Nat.le_add_right _ _, Nat.add_lt_add_left (Nat.mod_lt _ (by omega)) _⟩

/-- A partition's rows of granules fill each stack of it exactly (R60). -/
theorem interleave_offset_lt {b q0 n a : Nat} (ha : a < b + n * quadBytes) (hb : b ≤ a) : (interleave b q0 n a).2 < quadBytes / 6 := by
  have hrows : (a - b) / 512 / (6 * n) < quadBytes / 3072 := by
    rw [Nat.div_div_eq_div_mul]
    refine Nat.div_lt_of_lt_mul ?_
    have : 512 * (6 * n) * (quadBytes / 3072) = n * quadBytes := by
      rw [quadBytes]
      omega
    omega
  rw [interleave_eq]
  dsimp only
  rw [quadBytes] at hrows ⊢
  omega

/-- Settles O11: the stack and the offset are bounded by the remainder and the quotient, and the rotation of R62 is undone. -/
theorem interleaveIsOneToOne : Obligations.InterleaveIsOneToOne := by
  unfold Obligations.InterleaveIsOneToOne
  intro b q0 n a hn hba hb ha
  have hpos : 0 < n := by omega
  obtain ⟨hlow, hhigh⟩ := interleave_stack (b := b) (q0 := q0) (a := a) hpos
  exact ⟨hlow, hhigh, interleave_offset_lt ha hba, unInterleave_interleave hpos hb hba⟩

end Sys2Proof.Machine
end

section
/-!
What the stores do by themselves (R69, R279, R281, R282): each row is the outcome of its step where nothing is poisoned.
-/
namespace Sys2Proof.Machine

section Clock
variable {s u : State} {t : Nat} (hu : u = s.runTo t)
include hu

/-- A unit's work on the memories that poisons nothing, after the clock has run, is the outcome as it stands. -/
theorem coreFrame_settle_onMem {f : MemSt → MemSt} (h : (f u.mem).newPoison = []) : s.coreFrame (u.onMem f).settle = u.onMem f := by
  obtain ⟨x, c, hx⟩ := s.runTo_shape t
  refine coreFrame_settle ?_ h
  rw [hu, hx]
  rfl

/-- Such work followed by a note in a register of the unit. -/
theorem coreFrame_settle_onMem_note {f g : MemSt → MemSt} (hg : ∀ m, (g m).newPoison = m.newPoison) (h : (f u.mem).newPoison = []) :
    s.coreFrame ((u.onMem f).onMem g).settle = u.onMem (fun m => g (f m)) :=
  coreFrame_settle_onMem hu (f := fun m => g (f m)) ((hg _).trans h)

end Clock

/-! ### Merge entries (R279) -/

theorem mergeCommitStep_of_entry {s u : State} {e : MergeEntry} {block : Nat} (h : s.mem.merge.find? (fun e => e.block == block) = some e)
    (hu : u = s.runTo (e.since + 128 * nsT)) : mergeCommitStep block s = u.onMem (fun m => m.commitOut u.mx e) := by
  rw [mergeCommitStep, h, hu]
  rfl

/-! ### Row scrubbing (R281) -/

/-- A row that is not the last of its bank: it is read, and the next row is next. -/
theorem carrelScrubRowStep_of_row {st : SramStore} {bank row from_ : Nat} {s u : State} (hon : s.sramOn st = true)
    (hrow : row = sget 0 s.mem.scrubRow (sramBankNo st bank)) (hlast : row + 1 < bankRows)
    (hfrom : from_ = max (sget 0 s.mem.scrubFrom (sramBankNo st bank)) (sget 0 s.mem.scrubBase (sramQuad st)))
    (hu : u = s.runTo (from_ + ceilDiv (row * passT) bankRows)) :
    carrelScrubRowStep st bank s = (u.onMem (fun m => m.scrub u.mx (sramRowAt st bank row / 64))).onMem (fun m =>
      { m with scrubRow := sset 0 m.scrubRow (sramBankNo st bank) (row + 1) }) := by
  unfold carrelScrubRowStep
  rw [if_neg (by rw [hon]; decide)]
  dsimp only
  rw [← hfrom, ← hrow, ← hu, if_pos hlast]

/-! ### Block scrubbing (R282) -/

theorem MemSt.reveal_of_listed {m : MemSt} {b : Nat} (h : ∀ r ∈ m.vague, ¬ (r.1 ≤ b ∧ b < r.1 + r.2.1)) : m.reveal b = m := by
  rw [MemSt.reveal, List.find?_eq_none.mpr (fun r hr => by rw [decide_eq_true_eq]; exact h r hr)]

/-- A read of a block whose bytes are specified and without error changes nothing. -/
theorem MemSt.readBlock_of_ok {m : MemSt} {b : Nat} (x : MemX) (src : ErrSource) (hv : ∀ r ∈ m.vague, ¬ (r.1 ≤ b ∧ b < r.1 + r.2.1))
    (hok : decodeBlock (m.blockNat b) (m.code b) = .ok) : m.readBlock x src b = m := by
  unfold MemSt.readBlock
  dsimp only
  rw [MemSt.reveal_of_listed hv, hok]

/-- A block without error that is not the last of its stack: the next block is next. -/
theorem hbmScrubBlockStep_of_ok {stack k b : Nat} {s u : State} {m : MemSt} (hreset : s.inReset (stack / 6) = false)
    (hpd : bit s.reset_.pd (36 + stack) = true) (hcfg : bit (sget scrubCfgReset s.mem.hbmCfg stack) 8 = true)
    (hk : k = sget 0 s.mem.hbmNext stack) (hlast : k + 1 < stackBlocks)
    (hu : u = s.runTo (sget 0 s.mem.hbmFrom stack + ceilDiv (k * scrubPeriod (sget scrubCfgReset s.mem.hbmCfg stack)) stackBlocks))
    (hb : b = u.stackAt stack (64 * k) / 64) (hm : m = (u.mem.commitBlock u.mx b).reveal b)
    (hok : decodeBlock (m.blockNat b) (m.code b) = .ok) (hv : ∀ r ∈ m.vague, ¬ (r.1 ≤ b ∧ b < r.1 + r.2.1)) :
    hbmScrubBlockStep stack s = (u.onMem (fun _ => m)).onMem (fun m => { m with hbmNext := sset 0 m.hbmNext stack (k + 1) }) := by
  have hon : ¬ (s.selfRefresh stack || !bit s.reset_.pd (36 + stack)) = true := by
    rw [State.selfRefresh, hreset, hpd]
    decide
  have hread := MemSt.readBlock_of_ok u.mx 2 hv hok
  unfold hbmScrubBlockStep
  rw [if_neg hon]
  dsimp only
  rw [if_neg (by rw [hcfg]; decide), ← hk, ← hu, ← hb, ← hm, hok, hread, if_pos hlast]
  rfl

/-! ### Aged requests (R69) -/

/-- What a request that ages makes of the aged requests: it joins them, or stands for one of its pseudo-channel that it goes before. -/
theorem exec_requestAgeBlock {r : MemReq} {s : State} {k : Nat} (hr : reqOk r.addr = true) (hk : k = pseudoNo s.layout r.addr) :
    ∃ aged, exec (.requestAgeBlock r.addr r.stamp r.source) s = .next { s with mem := { s.mem with aged := aged } } ∧
      ((∀ x ∈ s.mem.aged, x.1 ≠ k) → aged = s.mem.aged ++ [(k, r)]) ∧
      (∀ x, s.mem.aged = [(k, x)] → aged = [(k, if memReqBefore r x then r else x)]) := by
  have hexec : exec (.requestAgeBlock r.addr r.stamp r.source) s = .next (s.coreFrame (requestAgeBlockStep r s)) :=
    congrArg (fun ok => formed ok s (s.coreFrame (requestAgeBlockStep r s))) hr
  rw [hexec, requestAgeBlockStep, ← hk]
  unfold State.onMem
  dsimp only
  split
  · next hnone =>
    refine ⟨_, rfl, fun _ => rfl, fun x hx => ?_⟩
    rw [hx] at hnone
    simp at hnone
  · next y hsome =>
    have hmem := List.mem_of_find?_eq_some hsome
    have hy : y.1 = k := by simpa using List.find?_some hsome
    split
    · next hbefore =>
      refine ⟨_, rfl, fun hne => absurd hy (hne y hmem), fun x hx => ?_⟩
      rw [hx, List.mem_singleton] at hmem
      subst hmem
      simp [hx, hbefore]
    · next hbefore =>
      refine ⟨s.mem.aged, rfl, fun hne => absurd hy (hne y hmem), fun x hx => ?_⟩
      rw [hx, List.mem_singleton] at hmem
      subst hmem
      rw [hx, if_neg hbefore]

/-- Settles O30: the rows by their steps, whose work poisons nothing. -/
theorem memoryUnitsCommitScrubAndAge : Obligations.MemoryUnitsCommitScrubAndAge := by
  unfold Obligations.MemoryUnitsCommitScrubAndAge
  refine ⟨⟨fun s u e block hblock hfind hu hp => ⟨?_, ?_⟩, fun st bank s u n row from_ hbank hon hn hrow hlast hfrom hu hp => ?_,
    fun stack s u m k b hreset hpd hcfg hk hlast hu hb hm hok hp hv => ?_⟩, fun r s k hr hk => ?_⟩
  · have hexec : exec (.mergeCommit block) s = .next (s.coreFrame (mergeCommitStep block s).settle) :=
      congrArg (fun ok => formed ok s (s.coreFrame (mergeCommitStep block s).settle)) (beq_iff_eq.mpr hblock)
    rw [hexec, mergeCommitStep_of_entry hfind hu]
    exact congrArg Host.Outcome.next (coreFrame_settle_onMem hu hp)
  · rw [hu, State.runTo_ticks]
  · subst hn
    have hexec : exec (.carrelScrubRow st bank) s = .next (s.coreFrame (carrelScrubRowStep st bank s).settle) :=
      congrArg (fun ok => formed ok s (s.coreFrame (carrelScrubRowStep st bank s).settle)) hbank
    rw [hexec, carrelScrubRowStep_of_row hon hrow hlast hfrom hu]
    exact congrArg Host.Outcome.next (coreFrame_settle_onMem_note hu (fun _ => rfl) hp)
  · have hexec : exec (.hbmScrubBlock stack) s = .next (s.coreFrame (hbmScrubBlockStep stack s).settle) := rfl
    rw [hexec, hbmScrubBlockStep_of_ok hreset hpd hcfg hk hlast hu hb hm hok hv]
    exact congrArg Host.Outcome.next (coreFrame_settle_onMem_note hu (fun _ => rfl) hp)
  · obtain ⟨aged, hexec, hjoins, hstands⟩ := exec_requestAgeBlock hr hk
    exact ⟨_, hexec, rfl, hjoins, hstands⟩

end Sys2Proof.Machine
end

section
/-!
The Izaux mesh at work (R45, R46, R47, R50, R56): what one direction of an edge makes of a flit, and what a repair makes of an edge.
-/
namespace Sys2Proof.Machine

/-! ### Flits (R45) -/

section Flits
variable {d : FlitDir} {slice : Nat} {f : Flit}

/-- A flit whose number is not in the replay buffer finds no content kept for it. -/
theorem FlitDir.find_of_fresh (hfresh : ∀ g ∈ d.unacked, g.seq ≠ f.seq) : d.unacked.find? (fun (g : SentFlit) => g.seq == f.seq) = none :=
  List.find?_eq_none.mpr (fun g hg => by simpa using hfresh g hg)

/-- A flit whose number is not in the replay buffer may come on any slice. -/
theorem FlitDir.comesOn_of_fresh (hfresh : ∀ g ∈ d.unacked, g.seq ≠ f.seq) : d.comesOn slice f = true :=
  List.all_eq_true.mpr (fun g hg => by simp [hfresh g hg])

/-- A fresh flit whose CRC holds is taken, and the replay buffer keeps what it has. -/
theorem FlitDir.receive_of_fresh (hfresh : ∀ g ∈ d.unacked, g.seq ≠ f.seq) (hcrc : f.crcOk = true) : d.receive slice f = d.take f := by
  have hunacked : d.unacked.filter (fun g => g.seq != f.seq) = d.unacked :=
    List.filter_eq_self.mpr (fun g hg => by simpa using hfresh g hg)
  unfold FlitDir.receive
  dsimp only
  rw [FlitDir.find_of_fresh hfresh, hunacked, if_pos hcrc]
  rfl

/-- A flit that comes again with the content that the replay buffer holds for it is taken with that content, and is acknowledged. -/
theorem FlitDir.receive_of_kept {g : SentFlit} (hkept : d.unacked = [g]) (hseq : g.seq = f.seq) (hcrc : f.crcOk = true) :
    d.receive slice f = { d with unacked := [] }.take { f with data := g.data } := by
  unfold FlitDir.receive
  simp [hkept, hseq, hcrc]

/-- A flit whose CRC fails is kept by its sender and replayed. -/
theorem FlitDir.receive_of_bad (hfresh : ∀ g ∈ d.unacked, g.seq ≠ f.seq) (hcrc : f.crcOk = false) :
    d.receive slice f = { d.keep slice f with replays := d.replays + 1 } := by
  unfold FlitDir.receive
  dsimp only
  rw [FlitDir.find_of_fresh hfresh, if_neg (by rw [hcrc]; decide)]
  rfl

theorem FlitDir.take_of_delivered (h : f.seq < d.expect) : d.take f = d := if_pos (.inl h)

variable (hearly : d.early = [])
include hearly

theorem FlitDir.take_of_next (h : f.seq = d.expect) :
    d.take f = { d with expect := d.expect + 1, delivered := f.data :: d.delivered } := by
  have hnew : ¬ (f.seq < d.expect ∨ d.early.any (fun g => g.1 == f.seq) = true) := by simp [hearly, h]
  unfold FlitDir.take
  rw [if_neg hnew]
  simp [hearly, h, FlitDir.drain]

theorem FlitDir.take_of_ahead (h : d.expect < f.seq) : d.take f = { d with early := [(f.seq, f.data)] } := by
  have hnew : ¬ (f.seq < d.expect ∨ d.early.any (fun g => g.1 == f.seq) = true) := by simp [hearly, Nat.not_lt.mpr (Nat.le_of_lt h)]
  unfold FlitDir.take
  rw [if_neg hnew]
  simp [hearly, Nat.ne_of_gt h, FlitDir.drain]

theorem FlitDir.keep_of_fresh (hfresh : ∀ g ∈ d.unacked, g.seq ≠ f.seq) (h : d.expect ≤ f.seq) :
    d.keep slice f = { d with unacked := d.unacked ++ [{ seq := f.seq, data := f.data, slice := slice }] } := by
  refine if_neg ?_
  rintro (hlt | hany | hany)
  · omega
  · simp [hearly] at hany
  · obtain ⟨g, hg, hseq⟩ := List.any_eq_true.mp hany
    exact hfresh g hg (beq_iff_eq.mp hseq)

end Flits

theorem FlitDir.keep_of_delivered {d : FlitDir} {slice : Nat} {f : Flit} (h : f.seq < d.expect) : d.keep slice f = d := if_pos (.inl h)

/-! ### An edge at work -/

section Edges
variable {e : EdgeId} {sl : Fin 16} {dir : Bool} {s : State}

/-- A change of an edge depends only on the edge as it is. -/
theorem State.onEdge_congr {f g : Edge → Edge} {e : Nat} (h : f (s.edge e) = g (s.edge e)) : s.onEdge e f = s.onEdge e g := by
  unfold State.onEdge
  rw [h]

theorem State.meshFrame_onEdge (s : State) (e : Nat) (f : Edge → Edge) : s.meshFrame (s.onEdge e f) = s.onEdge e f := rfl

theorem exec_flitReceive {f : Flit} (hok : sliceOk e sl = true) (hup : (s.edge e).up = true) (hslice : bit (s.edge e).sliceUp sl = true)
    (hcomes : ((s.edge e).flits dir).comesOn sl f = true) :
    exec (.flitReceive e sl dir f) s = .next (s.onEdge e (fun k => k.receive sl dir s.time.ticks f)) := by
  have hexec : exec (.flitReceive e sl dir f) s = .next (s.meshFrame (flitStep e sl dir f s)) :=
    congrArg (fun ok => formed ok s (s.meshFrame (flitStep e sl dir f s))) hok
  have hstep : flitStep e sl dir f s = s.onEdge e (fun k => k.receive sl dir s.time.ticks f) :=
    if_pos (by rw [hup, hslice, hcomes]; rfl)
  rw [hexec, hstep, State.meshFrame_onEdge]

/-- What a flit of the forward direction whose CRC holds makes of the edge. -/
theorem exec_flitReceive_fwd {f : Flit} {d : FlitDir} (hok : sliceOk e sl = true) (hup : (s.edge e).up = true)
    (hslice : bit (s.edge e).sliceUp sl = true) (hcomes : (s.edge e).fwd.comesOn sl f = true) (hcrc : f.crcOk = true)
    (hd : (s.edge e).fwd.receive sl f = d) : exec (.flitReceive e sl false f) s = .next (s.onEdge e (fun k => { k with fwd := d })) := by
  rw [exec_flitReceive (dir := false) hok hup hslice hcomes]
  refine congrArg _ (State.onEdge_congr ?_)
  rw [← hd]
  exact if_pos hcrc

/-- What a flit of the backward direction whose CRC fails in no single lane makes of the edge. -/
theorem exec_flitReceive_back {f : Flit} {d : FlitDir} (hok : sliceOk e sl = true) (hup : (s.edge e).up = true)
    (hslice : bit (s.edge e).sliceUp sl = true) (hcomes : (s.edge e).back.comesOn sl f = true) (hlanes : f.laneError = [])
    (hd : (s.edge e).back.receive sl f = d) : exec (.flitReceive e sl true f) s = .next (s.onEdge e (fun k => { k with back := d })) := by
  rw [exec_flitReceive (dir := true) hok hup hslice hcomes]
  refine congrArg _ (State.onEdge_congr ?_)
  unfold Edge.receive
  rw [hlanes, ← hd]
  exact ite_self _

theorem exec_laneFailure {lane : Fin 66} (hok : sliceOk e sl = true) (hlive : (s.edge e).live sl = true)
    (hnew : ((s.edge e).dir sl dir).failed.contains lane.val = false) :
    exec (.laneFailure e sl dir lane) s = .next (s.onEdge e (fun k =>
      ({ k.onDir sl dir (fun d => { d with failed := d.failed ++ [lane.val], errors := d.errors.filter (fun x => x.1 != lane.val) }) with
        laneEvents := satAdd k.laneEvents 1 } : Edge).refresh sl)) := by
  have hexec : exec (.laneFailure e sl dir lane) s = .next (s.meshFrame (laneFailureStep e sl dir lane s)) :=
    congrArg (fun ok => formed ok s (s.meshFrame (laneFailureStep e sl dir lane s))) hok
  have hstep : laneFailureStep e sl dir lane s = s.onEdge e (fun k => k.failLane sl dir lane) := if_pos hlive
  rw [hexec, hstep, State.meshFrame_onEdge]
  exact congrArg _ (State.onEdge_congr (if_neg (by rw [hnew]; decide)))

theorem exec_laneReplaced {l i : Nat} {u : State} (hok : sliceOk e sl = true) (hlive : (s.edge e).live sl = true)
    (hpending : ((s.edge e).dir sl dir).pending = some l) (hspare : ((s.edge e).dir sl dir).freeSpare = some i)
    (hu : u = s.onEdge e (fun k => (k.onDir sl dir (fun d => { d with replaced := d.replaced.filter (fun r => r.1 != l) ++ [(l, i)] })).refresh sl)) :
    exec (.laneReplaced e sl dir) s = .next (u.owe e sl (((s.edge e).dir sl dir).carrier l) 0 i dir).countLane := by
  have hexec : exec (.laneReplaced e sl dir) s = .next (s.meshFrame (laneReplacedStep e sl dir s)) :=
    congrArg (fun ok => formed ok s (s.meshFrame (laneReplacedStep e sl dir s))) hok
  have hstep : laneReplacedStep e sl dir s = s.replaceLane e sl dir := if_pos hlive
  rw [hexec, hstep, State.replaceLane]
  dsimp only
  rw [hpending, hspare, hu]
  rfl

/-- A slice of a ring edge that has others left (R47, R50): no routes cross the edge. -/
theorem exec_sliceRetire_ring {u : State} (hok : sliceOk e sl = true) (hlive : (s.edge e).live sl = true)
    (hbeyond : (s.edge e).beyondRepair sl = true)
    (hu : u = s.onEdge e (fun k => ({ k with retired := setBit k.retired sl } : Edge).stopSlice sl)) (hring : 72 ≤ e.val)
    (hleft : u.edgeBw e ≠ 0) : exec (.sliceRetire e sl) s = .next (u.owe e sl 0x7F 1 0 false).countSlice := by
  have hexec : exec (.sliceRetire e sl) s = .next (s.meshFrame (sliceRetireStep e sl s)) :=
    congrArg (fun ok => formed ok s (s.meshFrame (sliceRetireStep e sl s))) hok
  have hstep : sliceRetireStep e sl s = s.retireSlice e sl := if_pos (by rw [hlive, hbeyond]; rfl)
  have hdrop : s.dropSlice e sl = (u.owe e sl 0x7F 1 0 false).countSlice := by
    subst hu
    exact if_neg hleft
  have hpart : (s.dropSlice e sl).edgePart e = none := if_neg (Nat.not_lt.mpr hring)
  rw [hexec, hstep, State.retireSlice, hpart, hdrop, hu]
  rfl

end Edges

/-! ### Routes and records (R50, R56) -/

theorem exec_reweightDrainEnd (d : DieId) (s : State) :
    exec (.reweightDrainEnd d) s = .next { s.runTo (s.drainedAt d) with mesh := s.mesh.apply d } := by
  obtain ⟨x, c, h⟩ := s.runTo_shape (s.drainedAt d)
  have hexec : exec (.reweightDrainEnd d) s = .next (s.meshFrame { s.runTo (s.drainedAt d) with mesh := (s.runTo (s.drainedAt d)).mesh.apply d }) :=
    rfl
  rw [hexec, h]
  rfl

theorem exec_laneRepairRecord (s : State) : exec .laneRepairRecord s = .next (s.meshFrame (repairRecordStep s)) := rfl

theorem repairRecordStep_of_none {s : State} (h : s.mesh.unrecorded = []) : repairRecordStep s = s := by
  rw [repairRecordStep, h]

theorem repairRecordStep_of_owed {s : State} {r : Repair} {rest : List Repair} (h : s.mesh.unrecorded = r :: rest)
    (hrun : s.stw.custodian.st = .running) (hdark : s.dark = false) (hcat : s.panel.catalogue.isSome = true) :
    repairRecordStep s = { s.writeRecords [.lane r] with mesh := { s.mesh with unrecorded := rest } } := by
  rw [repairRecordStep, h]
  exact if_pos (by rw [hrun, hdark, hcat]; rfl)

/-- Settles O48: the flit by what its direction makes of it, the repairs by what they make of their edge. -/
theorem meshCarriesFlitsAndRepairsItself : Obligations.MeshCarriesFlitsAndRepairsItself := by
  unfold Obligations.MeshCarriesFlitsAndRepairsItself
  refine ⟨fun e sl f s hok hup hslice hearly => ⟨fun hfresh hcrc => ⟨fun h => ?_, fun h => ?_, fun h => ?_⟩,
      fun g hkept hseq hsl hcrc h => ?_⟩,
    fun e sl f s hok hup hslice hcrc hlanes hearly hfresh => ⟨fun h => ?_, fun h => ?_⟩,
    fun e sl dir lane s => exec_laneFailure,
    fun e sl dir l i s u hok hlive hpending hspare hu => ?_,
    fun e sl s u hok hlive hbeyond hu hring hleft => ?_,
    fun d s => exec_reweightDrainEnd d s,
    fun s => ⟨fun h => ?_, fun r rest h hrun hdark hcat => ?_⟩⟩
  · exact exec_flitReceive_fwd hok hup hslice (FlitDir.comesOn_of_fresh hfresh) hcrc
      ((FlitDir.receive_of_fresh hfresh hcrc).trans (FlitDir.take_of_delivered h))
  · exact exec_flitReceive_fwd hok hup hslice (FlitDir.comesOn_of_fresh hfresh) hcrc
      ((FlitDir.receive_of_fresh hfresh hcrc).trans (FlitDir.take_of_next hearly h))
  · exact exec_flitReceive_fwd hok hup hslice (FlitDir.comesOn_of_fresh hfresh) hcrc
      ((FlitDir.receive_of_fresh hfresh hcrc).trans (FlitDir.take_of_ahead hearly h))
  · have hcomes : (s.edge e).fwd.comesOn sl f = true := by simp [FlitDir.comesOn, hkept, hsl]
    exact exec_flitReceive_fwd hok hup hslice hcomes hcrc
      ((FlitDir.receive_of_kept hkept hseq hcrc).trans (FlitDir.take_of_next hearly h))
  · rw [exec_flitReceive_back hok hup hslice (FlitDir.comesOn_of_fresh hfresh) hlanes (FlitDir.receive_of_bad hfresh hcrc),
      FlitDir.keep_of_delivered h]
    rfl
  · rw [exec_flitReceive_back hok hup hslice (FlitDir.comesOn_of_fresh hfresh) hlanes (FlitDir.receive_of_bad hfresh hcrc),
      FlitDir.keep_of_fresh hearly hfresh h]
    rfl
  · have hnow : u.now = s.now := (congrArg State.now hu).trans rfl
    rw [exec_laneReplaced hok hlive hpending hspare hu, State.owe, hnow]
    rfl
  · have hnow : u.now = s.now := (congrArg State.now hu).trans rfl
    rw [exec_sliceRetire_ring hok hlive hbeyond hu hring hleft, State.owe, hnow]
    rfl
  · rw [exec_laneRepairRecord, repairRecordStep_of_none h]
    rfl
  · rw [exec_laneRepairRecord, repairRecordStep_of_owed h hrun hdark hcat]

end Sys2Proof.Machine
end

section
/-!
Negotiation, the partition layout and the UCIe modules (R59, R430, R446, R447).
-/
namespace Sys2Proof.Machine

/-! ### STW_FEAT_ACCEPT (R446, R447) -/

section Accept
variable {v : W64} {s u : State}

theorem exec_featAcceptWrite (h : PageServes s .custodian (negPage + 0x58)) :
    exec (.featAcceptWrite v) s = .next (s.stewardFrame ((s.acceptWrite 3 v).respond (.done 0))) :=
  congrArg (fun t => Host.Outcome.next (s.stewardFrame t)) (writeRow_serves _ h (pageAccessOk_write8 v (by decide)))

/-- A write that would repeat the evaluation is ignored while a submission ring is enabled. -/
theorem acceptWrite_of_ringsOn {i : Nat} (h : s.ringsOn = true) : s.acceptWrite i v = s :=
  if_pos (by rw [h, Bool.or_true])

theorem acceptWrite_last (hrom : s.stw.romOnly = false) (hrings : s.ringsOn = false)
    (hu : u = { s with stw := { s.stw with accept := BitVec.ofNat 256 (setFld s.stw.accept.toNat 192 64 v.toNat % 2 ^ 71) } }) :
    s.acceptWrite 3 v = { u with stw := { u.stw with
      agreed := u.offer &&& u.stw.accept, neg := if fld s.stw.hostIf 8 8 = fld s.stw.ifVersion 8 8 then 1 else 2 } } := by
  subst hu
  exact (if_neg (by rw [hrom, hrings]; exact Bool.false_ne_true)).trans (if_pos rfl)

end Accept

/-! ### STW_MEMCFG (R59) -/

section Memcfg
variable {v : W32} {s : State}

theorem exec_memcfgWrite (h : PageServes s .custodian (pkgPage + 0x50)) :
    exec (.memcfgWrite v) s = .next (s.stewardFrame ((s.memcfgWrite v).respond (.done 0))) :=
  congrArg (fun t => Host.Outcome.next (s.stewardFrame t)) (writeRow_serves _ h (pageAccessOk_write4 _ (by decide)))

theorem memcfgWrite_of_reserved (h : 4 < fld v 0 3) : s.memcfgWrite v = s.hostError 5 (pkgPage + 0x50) := if_pos h

theorem memcfgWrite_of_layout (h : fld v 0 3 ≤ 4) :
    s.memcfgWrite v = { s with stw := { s.stw with memcfg := BitVec.ofNat 32 (fld v 0 10) } } := if_neg (Nat.not_lt.mpr h)

theorem stewardFrame_hostError (s : State) (kind : Nat) (a : Addr) (r : HostResp) :
    s.stewardFrame ((s.hostError kind a).respond r) = (s.hostError kind a).respond r := by
  obtain ⟨ev, log, x, h⟩ := s.hostError_shape kind a
  rw [h]
  rfl

end Memcfg

/-! ### UCIe modules (R430) -/

section Ucie
variable {s : State} {m : Nat}

theorem ucieDownStep_of_down (h : bit s.stw.ucie m = false) : ucieDownStep m s = s := if_pos (by rw [h]; rfl)

theorem ucieDownStep_of_up (h : bit s.stw.ucie m = true) :
    ucieDownStep m s = State.event { s with
      stw := { s.stw with ucie := clearBit s.stw.ucie m }, reset_ := { s.reset_ with fcBeyond := satAdd s.reset_.fcBeyond 1 } } (2 ^ 6) :=
  if_neg (by rw [h]; exact Bool.false_ne_true)

/-- What an event adds to a steward's change stays inside the steward's frame. -/
theorem stewardFrame_event {s t : State} (mask : Nat) (h : s.stewardFrame t = t) : s.stewardFrame (t.event mask) = t.event mask := by
  obtain ⟨x, hx⟩ := t.event_shape mask
  rw [hx, ← h]
  rfl

end Ucie

/-- Settles O55: each write is met as a page that serves meets it, and does what its own lemma says. -/
theorem negotiationLayoutAndUcie : Obligations.NegotiationLayoutAndUcie := by
  unfold Obligations.NegotiationLayoutAndUcie
  refine ⟨fun v s u hserves hrom => ⟨fun hrings => ?_, fun hrings hu => ?_⟩, fun v s hserves => ⟨fun h => ?_, fun h => ?_⟩,
    fun m s => ⟨fun h => ?_, fun h => ?_⟩⟩
  · rw [exec_featAcceptWrite hserves, acceptWrite_of_ringsOn hrings]
    rfl
  · rw [exec_featAcceptWrite hserves, acceptWrite_last hrom hrings hu, hu]
    rfl
  · rw [exec_memcfgWrite hserves, memcfgWrite_of_reserved h, stewardFrame_hostError]
  · rw [exec_memcfgWrite hserves, memcfgWrite_of_layout h]
    rfl
  · exact congrArg (fun t => Host.Outcome.next (s.stewardFrame t)) (ucieDownStep_of_down h)
  · refine (congrArg (fun t => Host.Outcome.next (s.stewardFrame t)) (ucieDownStep_of_up h)).trans ?_
    rw [stewardFrame_event _ rfl]

end Sys2Proof.Machine
end

section
/-!
The memories stay in canonical form (R57, R270, R273): the accesses of the units, and what the hubs do with them. What leaves the memories
alone keeps the form; so an operation that calls others keeps it when they do.
-/
namespace Sys2Proof.Machine

/-- The memories of a state are in canonical form. -/
def State.Canonical (s : State) : Prop := s.mem.wf = true

/-- An operation that answers beside its state leaves the memories in canonical form. -/
structure LeavesCanonical {α : Type} (x : State × α) : Prop where
  canonical : x.1.Canonical

section Basics
variable {α β : Type} {s t : State}

theorem canonical_of_mem (ht : t.mem = s.mem) (h : s.Canonical) : t.Canonical := by
  rw [State.Canonical, ht]
  exact h

theorem State.LinkWork.canonical (ht : s.LinkWork t) (h : s.Canonical) : t.Canonical := canonical_of_mem ht.mem_eq h

theorem LeavesCanonical.of_eq {x : State × α} {r : α} (hx : LeavesCanonical x) (h : x = (t, r)) : t.Canonical := by
  have hcan := hx.canonical
  rw [h] at hcan
  exact hcan

theorem canonical_ite {c : Prop} [Decidable c] (hs : s.Canonical) (ht : t.Canonical) : (if c then s else t).Canonical := by
  split
  · exact hs
  · exact ht

theorem leaves_ite {c : Prop} [Decidable c] {x y : State × α} (hx : LeavesCanonical x) (hy : LeavesCanonical y) :
    LeavesCanonical (if c then x else y) := by
  split
  · exact hx
  · exact hy

theorem canonical_foldl {f : State → α → State} (hf : ∀ u a, u.Canonical → (f u a).Canonical) (xs : List α) (h : s.Canonical) :
    (xs.foldl f s).Canonical :=
  List.foldlRecOn (motive := State.Canonical) xs f h fun u hu a _ => hf u a hu

theorem leaves_foldl {f : State × β → α → State × β} (hf : ∀ x a, x.1.Canonical → LeavesCanonical (f x a)) (xs : List α) {x : State × β}
    (h : x.1.Canonical) : LeavesCanonical (xs.foldl f x) :=
  List.foldlRecOn (motive := LeavesCanonical) xs f ⟨h⟩ fun x hx a _ => hf x a hx.canonical

end Basics

/-! ### Reads and writes (R277, R280, R335) -/

section Access
variable {s : State} (h : s.Canonical)
include h

theorem State.canonical_onMem {f : MemSt → MemSt} (hf : ∀ m : MemSt, m.wf = true → (f m).wf = true) : (s.onMem f).Canonical := hf s.mem h

theorem State.canonical_runTo (t : Nat) : (s.runTo t).Canonical := (s.linkWork_runTo t).canonical h

theorem State.canonical_read (a n : Nat) : LeavesCanonical (s.read a n) := ⟨MemSt.wf_readRange s.mx a n h⟩

theorem State.canonical_settleOwner (o : Nat) : LeavesCanonical (s.settleOwner o) :=
  ⟨MemSt.wf_settleOwner (s.runTo (s.mem.ackDue o)).mx o (State.canonical_runTo h _)⟩

theorem State.canonical_writeAck (o : Nat) (a : Addr) (bs : List Byte) : LeavesCanonical (s.writeAck o a bs) :=
  State.canonical_settleOwner (s := { s with mem := s.mem.write s.mx o a bs }) (MemSt.wf_write s.mx o a bs h) o

theorem State.canonical_readPrefix (a n : Nat) : LeavesCanonical (s.readPrefix a n) := by
  have hm := MemSt.wf_touchAll s.mx (blocksOf a n) h
  unfold State.readPrefix
  dsimp only
  split
  · exact ⟨hm⟩
  · exact ⟨hm⟩

theorem State.canonical_hubPrefix (job a n : Nat) : LeavesCanonical (s.hubPrefix job a n) := by
  unfold State.hubPrefix
  refine leaves_ite (State.canonical_readPrefix h a n) (leaves_foldl (fun x c hx => ?_) _ h)
  dsimp only
  split
  · exact ⟨hx⟩
  · split
    · exact ⟨(State.canonical_readPrefix hx _ _).canonical⟩
    · exact ⟨hx⟩

theorem State.canonical_hubRead (job a n : Nat) : LeavesCanonical (s.hubRead job a n) :=
  leaves_ite (State.canonical_read h a n) ⟨(State.canonical_hubPrefix h job a n).canonical⟩

theorem State.canonical_hubWrite (job o a : Nat) (bs : List Byte) : LeavesCanonical (s.hubWrite job o a bs) := by
  unfold State.hubWrite
  refine leaves_ite (State.canonical_writeAck h o a bs) (leaves_foldl (fun x c hx => ?_) _ h)
  dsimp only
  split
  · exact ⟨(State.canonical_writeAck hx _ _ _).canonical⟩
  · exact ⟨hx⟩

end Access

/-! ### Events, clasps and dies -/

section Marks
variable {s : State} (h : s.Canonical)
include h

theorem State.canonical_event (mask : Nat) : (s.event mask).Canonical := by
  obtain ⟨x, hx⟩ := s.event_shape mask
  exact canonical_of_mem (by rw [hx]) h

theorem State.canonical_hostError (kind : Nat) (a : Addr) : (s.hostError kind a).Canonical := by
  obtain ⟨ev, log, x, hx⟩ := s.hostError_shape kind a
  exact canonical_of_mem (by rw [hx]) h

theorem State.canonical_noteRaise (c i old new : Nat) : (s.noteRaise c i old new).Canonical :=
  canonical_of_mem (noteRaise_eqs s c i old new).2.1 h

theorem State.canonical_claspAdd (c i n : Nat) : (s.claspAdd c i n).Canonical :=
  canonical_ite (canonical_ite (State.canonical_noteRaise h c i _ _) (State.canonical_noteRaise h c i _ _)) h

theorem State.canonical_hostClaspAdd (c i n : Nat) : (s.hostClaspAdd c i n).Canonical :=
  canonical_ite h (canonical_ite (State.canonical_claspAdd h c i n) (State.canonical_event h 1))

theorem State.canonical_dieFailed (slot : Nat) (code : BitVec 16) : (s.dieFailed slot code).Canonical := canonical_ite h (canonical_ite h h)

theorem State.canonical_markFailed (slot : Nat) (code : BitVec 16) : (s.markFailed slot code).Canonical :=
  canonical_ite h (State.canonical_dieFailed h slot code)

theorem State.canonical_onPoison (a : Addr) : (s.onPoison a).Canonical := by
  refine canonical_ite (canonical_ite (State.canonical_markFailed ?_ _ _) h) h
  exact h

theorem State.canonical_settle : s.settle.Canonical :=
  canonical_foldl (fun _ a hu => State.canonical_onPoison hu a) _ (s := { s with mem := { s.mem with newPoison := [] } }) h

end Marks

/-! ### Packets (R291, R310, R318) -/

section Packets
variable {s : State} (h : s.Canonical)
include h

theorem State.canonical_sendOn (port k : Nat) (p : Packet) (cmd : Option (Nat × Addr × BitVec 32)) : (s.sendOn port k p cmd).Canonical :=
  (s.linkWork_sendOn port k p cmd).canonical h

theorem State.canonical_landed (p : Packet) : (s.landed p).Canonical := canonical_ite h h

theorem State.canonical_landWrite (k : Nat) (p : Packet) : (s.landWrite k p).Canonical := by
  refine canonical_ite h ?_
  split
  next u ok hw =>
  have hu := (State.canonical_hubWrite h _ _ _ _).of_eq hw
  exact canonical_ite (State.canonical_landed hu p) hu

theorem State.canonical_landOwn (k : Nat) (p : Packet) : (s.landOwn k p).Canonical :=
  canonical_ite h (canonical_ite h (canonical_ite (State.canonical_landWrite h k p) (canonical_ite h h)))

theorem State.canonical_inject (p : Packet) (cmd : Option (Nat × Addr × BitVec 32)) : (s.inject p cmd).Canonical := by
  refine canonical_ite (canonical_ite h (State.canonical_sendOn h _ _ _ _)) ?_
  split
  · exact State.canonical_landOwn h _ p
  · exact h
  · exact canonical_ite (State.canonical_sendOn h _ _ _ _) h

theorem State.canonical_injectAll (ps : List Packet) (cmd : Option (Nat × Addr × BitVec 32)) : (s.injectAll ps cmd).Canonical :=
  canonical_foldl (fun _ p hu => State.canonical_inject hu p cmd) ps h

theorem State.canonical_sendData (k : HubCmd) (c : Nat) (st : Stream) (ps : List Packet) : (s.sendData k c st ps).Canonical :=
  State.canonical_injectAll (s := s.onHub _ _) h ps _

theorem State.canonical_sendSignal (prog c : Nat) (q : Block) : (s.sendSignal prog c q).Canonical :=
  canonical_ite (State.canonical_inject h _ _) h

end Packets

end Sys2Proof.Machine
end

section
/-!
The collective engine keeps the memories in canonical form (R353 to R370, R382): arrival logs, chunk slots, results and twin copies.
-/
namespace Sys2Proof.Machine

/-! ### Contexts, logs and slots -/

section Contexts
variable {s : State} (h : s.Canonical)
include h

theorem State.canonical_failCtx (c : Ctx) (reason chunk src : Nat) : (s.failCtx c reason chunk src).Canonical :=
  canonical_ite h (canonical_foldl (fun _ _ hu => by exact hu) _ (by exact h))

theorem State.canonical_failNoticed (job : Nat) : (s.failNoticed job).Canonical :=
  canonical_ite h (canonical_foldl (fun _ c hu => State.canonical_failCtx hu c 2 0 0) _ h)

theorem State.canonical_logUnit (c : Ctx) (p : Packet) (at_ rh k : Nat) : LeavesCanonical (s.logUnit c p at_ rh k) := by
  refine leaves_ite ⟨?_⟩ ⟨State.canonical_failCtx h c 4 0 0⟩
  exact List.foldlRecOn (motive := fun x : MemSt × List Byte => x.1.wf = true) _ _ h fun x hx w _ => MemSt.wf_write _ _ _ _ hx

theorem State.canonical_newSlot (k stage chunk : Nat) : LeavesCanonical (s.newSlot k stage chunk) :=
  ⟨State.canonical_onMem h fun _ hm => MemSt.wf_zeroBlocks s.mx _ 160 hm⟩

theorem State.canonical_readSlot (x : Slot) : LeavesCanonical (s.readSlot x) := ⟨MemSt.wf_touchAll s.mx _ h⟩

theorem State.canonical_compareTwins (job reg ctx chunk pair k : Nat) : (s.compareTwins job reg ctx chunk pair k).Canonical := by
  unfold State.compareTwins
  split
  · exact h
  · split
    · exact h
    · refine canonical_ite (canonical_ite h (State.canonical_failCtx ?_ _ _ _ _)) h
      exact h

end Contexts

/-! ### Completion of a chunk (R369) -/

section Chunks
variable {s : State} (h : s.Canonical)
include h

theorem State.canonical_writeResults (c : Ctx) (k chunk first : Nat) (vals : List W32) :
    LeavesCanonical (s.writeResults c k chunk first vals) := by
  unfold State.writeResults
  extract_lets held c1
  refine leaves_ite ⟨h⟩ ?_
  extract_lets
  split
  next u ok hw =>
  exact ⟨(State.canonical_hubWrite h _ _ _ _).of_eq hw⟩

theorem State.canonical_finalChunk (c : Ctx) (chunk : Nat) (sums : Sparse Ledger) : (s.finalChunk c chunk sums).Canonical := by
  unfold State.finalChunk
  split
  next vals fl _ =>
  extract_lets k c1
  split
  next u c2 _ hw =>
  have hu := (State.canonical_writeResults h c1 k chunk 0 vals).of_eq hw
  extract_lets c3 s1
  have h1 : s1.Canonical := State.canonical_compareTwins (s := u.setCtx c3) hu _ _ _ _ _ _
  exact canonical_ite (canonical_foldl (fun _ _ hv => State.canonical_injectAll hv _ _) _ h1) h1

theorem State.canonical_finishChunk {again : State → Packet → State} (hagain : ∀ u p, u.Canonical → (again u p).Canonical) (c : Ctx)
    (stage chunk : Nat) (sums : Sparse Ledger) : (s.finishChunk again c stage chunk sums).Canonical := by
  unfold State.finishChunk
  extract_lets c1 s1 dst
  have h1 : s1.Canonical := h
  exact canonical_ite (canonical_foldl (fun _ _ hu => canonical_ite (hagain _ _ hu) (State.canonical_inject hu _ _)) _ h1)
    (State.canonical_finalChunk h1 _ _ _)

theorem State.canonical_endSlot {again : State → Packet → State} (hagain : ∀ u p, u.Canonical → (again u p).Canonical) (c : Ctx)
    (x : Slot) : (s.endSlot again c x).Canonical := by
  unfold State.endSlot
  split
  next u ok hr =>
  have hu := (State.canonical_readSlot h x).of_eq hr
  exact canonical_ite (State.canonical_finishChunk hu hagain _ _ _ _) hu

end Chunks

/-! ### Units and results (R353, R364 to R369, R382) -/

/-- A slot taken from the context or new. -/
theorem State.canonical_slot {s : State} (h : s.Canonical) (old : Option Slot) (k stage chunk : Nat) :
    LeavesCanonical (old.elim (s.newSlot k stage chunk) (fun x => (s, x))) := by
  cases old with
  | none => exact State.canonical_newSlot h k stage chunk
  | some x => exact ⟨h⟩

theorem canonical_takeUnit (fuel : Nat) (retake : Bool) (rh : Nat) {s : State} (h : s.Canonical) (p : Packet) (at_ : Nat) :
    LeavesCanonical (State.takeUnit fuel retake rh s p at_) := by
  induction fuel generalizing retake rh s p at_ with
  | zero => exact ⟨h⟩
  | succ fuel ih =>
    unfold State.takeUnit
    split
    · exact ⟨h⟩
    next c _ =>
    extract_lets stage chunk k old behind again src vs
    refine leaves_ite ⟨h⟩ (leaves_ite ⟨h⟩ (leaves_ite ⟨h⟩ (leaves_ite ⟨State.canonical_failCtx h c 6 0 0⟩
      (leaves_ite (State.canonical_logUnit h c p at_ rh k) (leaves_ite ⟨h⟩ ?_)))))
    split
    next u slot hslot =>
    have hu := (State.canonical_slot h old k stage chunk).of_eq hslot
    extract_lets slot1 c1 s1
    have hagain : ∀ v q, v.Canonical → (again v q).Canonical := fun v q hv => (ih false k hv q at_).canonical
    refine leaves_ite ?_ (leaves_ite ⟨State.canonical_failCtx hu c 6 0 0⟩ ⟨canonical_ite (State.canonical_endSlot (s := s1) hu hagain _ _) hu⟩)
    split
    · exact ⟨State.canonical_failCtx (s := u.malDrop k) hu c 5 0 0⟩
    next r _ =>
    extract_lets slot2 c2 s2
    exact leaves_ite ⟨State.canonical_failCtx (s := u.malDrop k) hu c 5 0 0⟩ (leaves_ite ⟨State.canonical_failCtx hu c 6 0 0⟩
      ⟨canonical_ite (State.canonical_endSlot (s := s2) hu hagain _ _) hu⟩)

section Units
variable {s : State} (h : s.Canonical)
include h

theorem State.canonical_twinUnit (rh : Nat) (c : Ctx) (p : Packet) (at_ : Nat) : LeavesCanonical (s.twinUnit rh c p at_) := by
  unfold State.twinUnit
  extract_lets job relayed chunk src pair n expect partner s1 t taken lostSrc mine theirs above t1 s2
  have h2 : s2.Canonical := canonical_ite h (State.canonical_inject h _ _)
  refine leaves_ite ⟨h⟩ (leaves_ite ⟨h⟩ (leaves_ite ⟨h⟩ ?_))
  split
  next u ok htake =>
  exact ⟨State.canonical_compareTwins ((leaves_ite (canonical_takeUnit 4 false rh h2 p at_) ⟨h2⟩).of_eq htake) _ _ _ _ _ _⟩

theorem State.canonical_takeResult (rh : Nat) (c : Ctx) (p : Packet) (at_ : Nat) : (s.takeResult rh c p at_).Canonical := by
  unfold State.takeResult
  extract_lets chunk first n src job ok vals
  refine canonical_ite h (canonical_ite h ?_)
  split
  next c1 taken _ =>
  refine canonical_ite (State.canonical_compareTwins (s := s.setCtx c1) h _ _ _ _ _ _) ?_
  extract_lets count c2
  split
  next u c3 written hw =>
  have hu : u.Canonical := (State.canonical_writeResults (s := s.draw) h c2 rh chunk first vals).of_eq hw
  extract_lets s1 s2
  have h1 : s1.Canonical := canonical_ite hu hu
  have h2 : s2.Canonical := canonical_ite h1 (canonical_foldl (fun _ _ hv => State.canonical_inject hv _ _) _ h1)
  exact State.canonical_compareTwins h2 _ _ _ _ _ _

theorem State.canonical_redPacket (rh : Nat) (p : Packet) (at_ : Nat) : LeavesCanonical (s.redPacket rh p at_) := by
  unfold State.redPacket
  split
  · exact ⟨canonical_ite (canonical_ite h h) h⟩
  next c hc =>
    exact leaves_ite ⟨State.canonical_takeResult h rh c p at_⟩ (leaves_ite (State.canonical_twinUnit h rh c p at_)
      (leaves_ite ⟨h⟩ (canonical_takeUnit 4 false rh h p at_)))

theorem State.canonical_redLand (rh : Nat) (p : Packet) (at_ : Nat) : (s.redLand rh p at_).Canonical := by
  unfold State.redLand
  split
  next u ok hp =>
  have hu := (State.canonical_redPacket h rh p at_).of_eq hp
  exact canonical_ite (State.canonical_landed hu p) hu

theorem State.canonical_drainPreopen (c : Ctx) : (s.drainPreopen c).Canonical :=
  canonical_foldl (fun _ _ hu => State.canonical_redLand hu _ _ _) _ (canonical_foldl (fun _ _ hu => by exact hu) _ h)

theorem State.canonical_loseUnit (c : Ctx) (k : Nat) (u : Unit_) : (s.loseUnit c k u).Canonical := by
  unfold State.loseUnit
  extract_lets old
  split
  next v x hslot =>
  have hv : v.Canonical := (State.canonical_slot h old k _ _).of_eq hslot
  exact hv

theorem State.canonical_retake (k : Nat) : (s.retake k).Canonical := by
  unfold State.retake
  split
  · exact h
  next c u _ =>
  extract_lets n size c1
  split
  next v ok hread =>
  have hv : v.Canonical :=
    (leaves_foldl (x := (s.setCtx c1, true)) (fun x w hx => ⟨(State.canonical_read hx w.1 w.2).canonical⟩) _ h).of_eq hread
  exact canonical_ite (canonical_takeUnit 4 true u.hub hv u.pkt u.at_).canonical (State.canonical_loseUnit hv _ _ _)

end Units

end Sys2Proof.Machine
end

section
/-!
Rings, records and the end of tasks keep the memories in canonical form (R213 to R222), and so does the work of a cluster's Curator
(R187 to R191, R254 to R256) and of its engines (R105 to R128).
-/
namespace Sys2Proof.Machine

/-! ### Rings and records

A definition that matches on a ring's answer is opened with the ring's operations as variables: the range check of a ring must not be
computed. -/

section Rings
variable {s : State} (h : s.Canonical)

theorem State.canonical_ringRead (h : s.Canonical) (p a n : Nat) : LeavesCanonical (s.ringRead p a n) :=
  leaves_ite ⟨(State.canonical_read h a n).canonical⟩ ⟨h⟩

theorem State.canonical_ringWrite (h : s.Canonical) (p a : Nat) (bs : List Byte) : LeavesCanonical (s.ringWrite p a bs) :=
  leaves_ite (State.canonical_writeAck h ownerReg a bs) ⟨h⟩

theorem State.canonical_ringFault (h : s.Canonical) (p : Nat) : (s.ringFault p).Canonical := State.canonical_event (s := s.onPart p _) h _

theorem State.canonical_cqIndex (h : s.Canonical) (p : Nat) : LeavesCanonical (s.cqIndex p) := by
  obtain ⟨read, hread, hkept⟩ : ∃ f, f = @State.ringRead ∧ ∀ s : State, s.Canonical → ∀ p a n, LeavesCanonical (f s p a n) :=
    ⟨_, rfl, fun _ => State.canonical_ringRead⟩
  generalize hf : @State.cqIndex = f
  delta State.cqIndex at hf
  rw [← hread] at hf
  subst hf
  dsimp only
  split
  next u hr => exact ⟨(hkept s h p _ 16).of_eq hr⟩
  next u v hr => exact ⟨(hkept s h p _ 16).of_eq hr⟩

theorem State.canonical_putRecord (h : s.Canonical) (p : Nat) (r : Record) (msi : Option Nat) : (s.putRecord p r msi).Canonical := by
  obtain ⟨index, hindex, hindexed⟩ : ∃ f, f = @State.cqIndex ∧ ∀ s : State, s.Canonical → ∀ p, LeavesCanonical (f s p) :=
    ⟨_, rfl, fun _ => State.canonical_cqIndex⟩
  obtain ⟨write, hwrite, hwritten⟩ : ∃ f, f = @State.ringWrite ∧ ∀ s : State, s.Canonical → ∀ p a bs, LeavesCanonical (f s p a bs) :=
    ⟨_, rfl, fun _ => State.canonical_ringWrite⟩
  generalize hf : @State.putRecord = f
  delta State.putRecord at hf
  rw [← hindex, ← hwrite] at hf
  subst hf
  dsimp only
  split
  next u hi => exact State.canonical_ringFault ((hindexed s h p).of_eq hi) p
  next u prod _ hi =>
  have hu := (hindexed s h p).of_eq hi
  split
  next v hw => exact State.canonical_ringFault ((hwritten u hu p _ _).of_eq hw) p
  next v hw =>
  have hv := (hwritten u hu p _ _).of_eq hw
  split
  next w hw => exact State.canonical_ringFault ((hwritten v hv p _ _).of_eq hw) p
  next w hw =>
  have hcan := (hwritten v hv p _ _).of_eq hw
  split
  · exact hcan
  · exact hcan

theorem State.canonical_record (h : s.Canonical) (p : Nat) (r : Record) (msi : Option Nat) : (s.record p r msi).Canonical :=
  canonical_ite (State.canonical_putRecord h p r msi) h

end Rings

/-! ### Tasks -/

section Tasks
variable {s : State} (h : s.Canonical)
include h

theorem State.canonical_dropStreams (p k : Nat) : (s.dropStreams p k).Canonical := canonical_foldl (fun _ _ hu => by exact hu) _ h

theorem State.canonical_zeroClasps (i : Image) : (s.zeroClasps i).Canonical := canonical_foldl (fun _ _ hu => by exact hu) _ h

theorem State.canonical_endTask (p : Nat) (t : Task) (r : Record) : (s.endTask p t r).Canonical := by
  unfold State.endTask
  extract_lets cs prog bad stale first value step away s1 s2 s3 red s4 s5 s6 s7
  have h1 : s1.Canonical := State.canonical_dropStreams h p prog
  have h2 : s2.Canonical := by
    refine canonical_ite h1 ?_
    cases t.image with
    | none => exact h1
    | some i => exact State.canonical_zeroClasps h1 i
  have h3 : s3.Canonical := canonical_foldl (fun _ _ hu => by exact hu) _ h2
  have h5 : s5.Canonical := canonical_foldl (fun _ _ hu => by exact hu) _ (s := s4) h3
  exact State.canonical_record (s := s7) h5 _ _ _

theorem State.canonical_reap (p : Nat) : (s.reap p).Canonical := by
  unfold State.reap
  split
  · split
    · exact canonical_ite (State.canonical_endTask h p _ _) h
    · exact h
  · exact h

theorem State.canonical_haltAll (t : Task) (x : HaltInfo) : (s.haltAll t x).Canonical := canonical_foldl (fun _ _ hu => by exact hu) _ h

end Tasks

end Sys2Proof.Machine
end

section
/-!
The executors' walks through memory keep its canonical form: matrix operands and results (R107, R119), vector rows (R157, R163) and the
moves of the copy engine (R242, R261, R266).
-/
namespace Sys2Proof.Machine

/-! ### Matrix operands and results -/

section Matrix
variable {m : MemSt} (x : MemX)

theorem MemSt.wf_grant (source : Nat) (h : m.wf = true) : (m.grant source).wf = true := h

theorem MemSt.wf_readGroups (c : Nat) (j : MxJob) (n g : Nat) (h : m.wf = true) : (m.readGroups x c j n g).1.wf = true := by
  induction n generalizing g m with
  | zero => exact h
  | succ n ih =>
    have hm := MemSt.wf_touchAll x (j.groupReads c g) h
    unfold MemSt.readGroups
    dsimp only
    split
    · exact ih (g + 1) hm
    · exact hm

theorem MemSt.wf_putRows (owner base pitch eoff bbase bpitch boff r : Nat) (rows : List OutRow) (h : m.wf = true) :
    (m.putRows x owner base pitch eoff bbase bpitch boff r rows).wf = true := by
  induction rows generalizing r m with
  | nil => exact h
  | cons o t ih =>
    have hm := MemSt.wf_write x owner (base + r * pitch + eoff) o.elems h
    unfold MemSt.putRows
    refine ih (r + 1) ?_
    split
    · exact hm
    · exact MemSt.wf_write x owner _ _ hm

theorem MemSt.wf_putEntries (owner : Nat) (d : Block) (es : List ((Nat × Nat) × Nat)) (h : m.wf = true) :
    (m.putEntries x owner d es).wf = true := by
  induction es generalizing m with
  | nil => exact h
  | cons e t ih =>
    unfold MemSt.putEntries
    refine ih ?_
    split
    · exact h
    · exact MemSt.wf_write x owner _ _ h

end Matrix

/-! ### Vector rows -/

/-- The work of a plan keeps the memory in canonical form. -/
structure VPlan.Canonical (p : VPlan) : Prop where
  work : ∀ m, m.wf = true → (p.work m).1.wf = true

theorem MemSt.wf_ite {c : Prop} [Decidable c] {m n : MemSt} (hm : m.wf = true) (hn : n.wf = true) : (if c then m else n).wf = true := by
  split
  · exact hm
  · exact hn

section Vector
variable {m : MemSt} (x : MemX)

theorem MemSt.wf_rowLoop {α : Type} (reads : Nat → List Nat) {row : MemSt → Nat → α → MemSt × α}
    (hrow : ∀ m r a, m.wf = true → (row m r a).1.wf = true) (n r : Nat) (a : α) (h : m.wf = true) :
    (rowLoop x reads row n r m a).1.wf = true := by
  induction n generalizing r m a with
  | zero => exact h
  | succ n ih =>
    have hm := MemSt.wf_touchAll x (reads r) h
    unfold rowLoop
    dsimp only
    split
    · exact ih (r + 1) _ (hrow _ r a hm)
    · exact hm

theorem MemSt.wf_putVals {α : Type} (c : Nat) (d : Block) (r : Nat) (vs : List Val) (w : Walk α) (h : m.wf = true) :
    (putVals x c d m r vs w).1.wf = true := by
  unfold putVals
  split
  · exact h
  · exact MemSt.wf_putRows x _ _ _ _ _ _ _ _ _ h

theorem MemSt.wf_putTiles (c : Nat) (d : Block) (rows : List (List Val)) (fl : Flags) (h : m.wf = true) :
    (putTiles x c d m rows fl).1.wf = true := by
  unfold putTiles
  split
  · exact MemSt.wf_putEntries x _ d _ (MemSt.wf_putRows x _ _ _ _ _ _ _ _ _ h)
  · exact h

theorem MemSt.wf_walkRows {α : Type} (c : Nat) (d : Block) (n : Nat) (reads : Nat → List Nat)
    (f : MemSt → Nat → α → NumM (List Val × α)) (own : α) (h : m.wf = true) : (walkRows x c d n reads f own m).1.wf = true := by
  refine MemSt.wf_putTiles x c d _ _ (MemSt.wf_rowLoop x _ (fun m r w hm => ?_) n 0 _ h)
  exact MemSt.wf_putVals x c d r _ _ hm

end Vector

section VectorPlans
variable (c : Nat) (s : State) (q : Block)

theorem vopPlan_canonical : (vopPlan c s q).Canonical := by
  refine ⟨fun m h => ?_⟩
  unfold vopPlan
  dsimp only
  exact MemSt.wf_walkRows _ _ _ _ _ _ _ h

theorem vfuncPlan_canonical : (vfuncPlan c s q).Canonical := by
  refine ⟨fun m h => ?_⟩
  unfold vfuncPlan
  dsimp only
  exact MemSt.wf_walkRows _ _ _ _ _ _ _ h

theorem vconvPlan_canonical : (vconvPlan c s q).Canonical := by
  refine ⟨fun m h => ?_⟩
  unfold vconvPlan
  dsimp only
  exact MemSt.wf_walkRows _ _ _ _ _ _ _ h

theorem vrowstatPlan_canonical : (vrowstatPlan c s q).Canonical := by
  refine ⟨fun m h => ?_⟩
  unfold vrowstatPlan
  dsimp only
  exact MemSt.wf_rowLoop _ _ (fun _ _ _ hm => MemSt.wf_write _ _ _ _ hm) _ _ _ h

theorem vnormFwdPlan_canonical : (vnormFwdPlan c s q).Canonical := by
  refine ⟨fun m h => ?_⟩
  unfold vnormFwdPlan
  dsimp only
  exact MemSt.wf_walkRows _ _ _ _ _ _ _ h

theorem vnormBwdPlan_canonical : (vnormBwdPlan c s q).Canonical := by
  refine ⟨fun m h => ?_⟩
  unfold vnormBwdPlan
  extract_lets d ss parts rows l rms partArrays pblocks
  dsimp -zeta only
  extract_lets m1
  have h1 : m1.wf = true := MemSt.wf_ite (MemSt.wf_touchAll s.mx pblocks h) h
  split
  · exact h1
  · exact MemSt.wf_foldl (fun _ _ hm => MemSt.wf_write _ _ _ _ hm) _ (MemSt.wf_walkRows _ _ _ _ _ _ _ h1)

theorem vsoftmaxFwdPlan_canonical : (vsoftmaxFwdPlan c s q).Canonical := by
  refine ⟨fun m h => ?_⟩
  unfold vsoftmaxFwdPlan
  dsimp only
  exact MemSt.wf_walkRows _ _ _ _ _ _ _ h

theorem vsoftmaxBwdPlan_canonical : (vsoftmaxBwdPlan c s q).Canonical := by
  refine ⟨fun m h => ?_⟩
  unfold vsoftmaxBwdPlan
  dsimp only
  exact MemSt.wf_walkRows _ _ _ _ _ _ _ h

end VectorPlans

/-! ### Copies -/

section Copy
variable {m : MemSt} (x : MemX)

theorem MemSt.wf_moveRow (owner : Nat) (r : CopyRow) (h : m.wf = true) : (m.moveRow x owner r).1.wf = true :=
  MemSt.wf_foldl (fun _ _ hm => MemSt.wf_write _ _ _ _ hm) _ (MemSt.wf_touchAll x _ h)

theorem MemSt.wf_moveRows (owner : Nat) (rows : List CopyRow) (h : m.wf = true) : (m.moveRows x owner rows).1.wf = true := by
  induction rows generalizing m with
  | nil => exact h
  | cons r t ih =>
    have hm := MemSt.wf_moveRow x owner r h
    unfold MemSt.moveRows
    dsimp only
    split
    · exact ih hm
    · exact hm

theorem MemSt.wf_gatherCol (src pitch e n r : Nat) (h : m.wf = true) : (m.gatherCol x src pitch e n r).1.wf = true := by
  induction n generalizing r m with
  | zero => exact h
  | succ n ih =>
    have hm := MemSt.wf_touchAll x (blocksOf (src + r * pitch) e) h
    unfold MemSt.gatherCol
    dsimp only
    split
    · exact ih (r + 1) hm
    · exact hm

theorem MemSt.wf_transposeRows (owner : Nat) (q : Block) (n col : Nat) (h : m.wf = true) :
    (m.transposeRows x owner q n col).1.wf = true := by
  induction n generalizing col m with
  | zero => exact h
  | succ n ih =>
    unfold MemSt.transposeRows
    split
    next u bs ok hcol =>
    have hu : u.wf = true := by
      have hgather := MemSt.wf_gatherCol x (cSrc q + col * ctElem q) (cSrcPitch q) (ctElem q) (cSize0 q) 0 h
      rw [hcol] at hgather
      exact hgather
    have hm := MemSt.wf_write x owner (cDst q + col * cDstPitch q) bs hu
    dsimp only
    split
    · exact ih (col + 1) hm
    · exact hm

theorem MemSt.wf_indexLoop (s : State) (c p : Nat) (q : Block) (mk : Nat → Nat → IndexedRow) (n i : Nat) (h : m.wf = true) :
    (indexLoop s c p q mk n i m).1.wf = true := by
  induction n generalizing i m with
  | zero => exact h
  | succ n ih =>
    unfold indexLoop
    extract_lets a m1 r
    have h1 : m1.wf = true := MemSt.wf_touchAll s.mx _ h
    have hmove := MemSt.wf_moveRow s.mx (ownerOf c .cx) r.row h1
    split
    · exact h1
    · split
      · exact h1
      · split
        · exact h1
        · dsimp only
          split
          · exact ih (i + 1) hmove
          · exact hmove

theorem MemSt.wf_rbLoop (s : State) (c : Nat) (q src dst : Block) (bs : List (Nat × Nat)) (fl : Flags) (h : m.wf = true) :
    (rbLoop s c q src dst bs m fl).1.wf = true := by
  induction bs generalizing m fl with
  | nil => exact h
  | cons b t ih =>
    unfold rbLoop
    extract_lets w els blocks m1 work
    have h1 : m1.wf = true := MemSt.wf_touchAll s.mx _ h
    split
    · exact h1
    · exact ih _ (MemSt.wf_write _ _ _ _ (MemSt.wf_write _ _ _ _ h1))

end Copy

section CopyPlans
variable (c : Nat) (s : State) (q : Block)

theorem rowPlan_canonical (shape layout : Bool) (rows : List CopyRow) (cost : Nat) : (rowPlan c s shape layout rows cost).Canonical :=
  ⟨fun _ h => MemSt.wf_moveRows s.mx _ rows h⟩

theorem copyPlan_canonical : (copyPlan c s q).Canonical := rowPlan_canonical ..

theorem copy2dPlan_canonical : (copy2dPlan c s q).Canonical := rowPlan_canonical ..

theorem copytPlan_canonical : (copytPlan c s q).Canonical := ⟨fun _ h => MemSt.wf_transposeRows s.mx _ q _ _ h⟩

theorem gatherPlan_canonical : (gatherPlan c s q).Canonical := ⟨fun _ h => MemSt.wf_indexLoop s c _ q _ _ _ h⟩

theorem scatterPlan_canonical : (scatterPlan c s q).Canonical := ⟨fun _ h => MemSt.wf_indexLoop s c _ q _ _ _ h⟩

theorem reblockPlan_canonical : (reblockPlan c s q).Canonical := ⟨fun _ h => MemSt.wf_rbLoop s c q _ _ _ _ h⟩

end CopyPlans

end Sys2Proof.Machine
end

section
/-!
The steps of a cluster keep the memories in canonical form: its Curator (R187 to R191, R254 to R256), its engines (R105 to R128, R133 to
R154, R238 to R269), the completion of its commands (R195), and what the stores do by themselves (R69, R279 to R286).
-/
namespace Sys2Proof.Machine

/-! ### The Curator -/

section Curator
variable {s : State} (h : s.Canonical)
include h

theorem State.canonical_onCl (c : Nat) (f : Cluster → Cluster) : (s.onCl c f).Canonical := h

theorem State.canonical_runToNow (t : Nat) : (s.runToNow t).Canonical := State.canonical_runTo (State.canonical_runTo h _) _

theorem State.canonical_signalOf (prog c : Nat) (q : QCmd) : (s.signalOf prog c q).Canonical :=
  canonical_ite (State.canonical_sendSignal h prog c q.cmd) h

theorem State.canonical_finishControl (c : Nat) (q : QCmd) : (s.finishControl c q).Canonical := State.canonical_signalOf (by exact h) _ c q

theorem folioFetchStep_canonical (c : Nat) : (folioFetchStep c s).Canonical := by
  unfold folioFetchStep
  extract_lets k a first
  refine canonical_ite h (canonical_ite (canonical_ite h h) ?_)
  split
  next u r hr =>
  have hu := (State.canonical_read h a 64).of_eq hr
  split
  · exact hu
  · exact canonical_ite hu hu

theorem waitStep_canonical (c : Nat) : (waitStep c s).Canonical := by
  unfold waitStep
  split
  · exact h
  · exact State.canonical_finishControl h c _

theorem signalStep_canonical (c : Nat) : (signalStep c s).Canonical := by
  unfold signalStep
  split
  · exact h
  · exact State.canonical_finishControl h c _

theorem fenceStep_canonical (c : Nat) : (fenceStep c s).Canonical := by
  unfold fenceStep
  split
  · exact h
  · exact canonical_ite (State.canonical_finishControl h c _) h

theorem fenceSatisfiedStep_canonical (c : Nat) : (fenceSatisfiedStep c s).Canonical := by
  unfold fenceSatisfiedStep
  dsimp only
  split
  · exact canonical_ite (State.canonical_finishControl h c _) h
  · exact h

theorem callStep_canonical (c : Nat) : (callStep c s).Canonical := by
  unfold callStep
  split
  · exact h
  · exact canonical_ite h (State.canonical_finishControl (by exact h) c _)

theorem timeatStep_canonical (c : Nat) : (timeatStep c s).Canonical := by
  unfold timeatStep
  split
  · exact h
  · exact canonical_ite (State.canonical_finishControl h c _) h

theorem timeatResumeStep_canonical (c : Nat) : (timeatResumeStep c s).Canonical := by
  unfold timeatResumeStep
  split
  · exact canonical_ite (State.canonical_finishControl (State.canonical_runToNow h _) c _) h
  · exact h

theorem endStep_canonical (c : Nat) : (endStep c s).Canonical := by
  unfold endStep
  split
  · exact h
  · split
    · exact State.canonical_finishControl (by exact h) c _
    · exact h

theorem State.canonical_taskDone (p : Nat) (t : Task) : (s.taskDone p t).Canonical := State.canonical_endTask h p t _

theorem partEndStep_canonical (c : Nat) : (partEndStep c s).Canonical := by
  unfold partEndStep
  extract_lets k curator s1 s2 p
  refine canonical_ite h ?_
  have h2 : s2.Canonical := by
    unfold s2
    split
    · exact State.canonical_signalOf (by exact h) _ c _
    · exact h
  split
  · exact h2
  · exact canonical_ite (State.canonical_taskDone h2 p _) h2

end Curator

/-! ### The matrix engine -/

section Matrix
variable {s : State} (h : s.Canonical)
include h

theorem State.canonical_touchAll (bs : List Nat) : (s.onMem (fun m => m.touchAll s.mx bs)).Canonical := MemSt.wf_touchAll s.mx bs h

theorem State.canonical_mxTurn (c : Nat) : (s.mxTurn c).Canonical := by
  refine State.canonical_onCl ?_ c _
  exact State.canonical_runTo h _

theorem mmaStep_canonical (c : Nat) : (mmaStep c s).Canonical := by
  have ht := State.canonical_mxTurn h c
  unfold mmaStep
  extract_lets t
  split
  · exact h
  next q _ =>
    have hu := State.canonical_touchAll ht ((mmaTds q.cmd).map (tdBlock c))
    exact canonical_ite hu hu

theorem computeEndStep_canonical (c : Nat) : (computeEndStep c s).Canonical := by
  unfold computeEndStep
  split
  · exact h
  next j _ =>
  extract_lets q n
  split
  next m g hg =>
  have hm : m.wf = true := by
    have hread := MemSt.wf_readGroups s.mx c j n 0 h
    rw [hg] at hread
    exact hread
  extract_lets fin s1 cyc
  have h1 : s1.Canonical := State.canonical_runTo (s := { s with mem := m }) hm _
  exact canonical_ite (canonical_ite h1 h1) h1

theorem epilogueEndStep_canonical (c : Nat) : (epilogueEndStep c s).Canonical := by
  unfold epilogueEndStep
  split
  · exact h
  next j rest _ =>
  extract_lets q m n s1 s2 invalid bs s3 w blocked o
  have h2 : s2.Canonical := State.canonical_runTo h _
  split
  · exact h2
  next f _ =>
  have h3 : s3.Canonical := State.canonical_touchAll h2 bs
  refine canonical_ite h3 ?_
  extract_lets work
  split
  next pre outs entries fl _ =>
  exact MemSt.wf_putEntries _ _ _ _ (MemSt.wf_putRows _ _ _ _ _ _ _ _ _ _ (MemSt.wf_putRows _ _ _ _ _ _ _ _ _ _ h3))

end Matrix

/-! ### The vector and copy engines -/

section Engines
variable {s : State} (h : s.Canonical)
include h

theorem vecStep_canonical {plan : State → Block → VPlan} (hplan : ∀ u q, (plan u q).Canonical) (c op : Nat) (tds : Block → List Nat) :
    (vecStep c op tds plan s).Canonical := by
  unfold vecStep
  split
  · exact h
  next q _ =>
  extract_lets bs s1 s2 p st due
  have h2 : s2.Canonical := State.canonical_touchAll h bs
  split
  next m fl st' hwork =>
  change m.wf = true
  split at hwork
  · have hm := (hplan s2 q.cmd).work s2.mem h2
    rw [hwork] at hm
    exact hm
  · cases hwork
    exact h2

theorem copyStep_canonical {plan : State → Block → CPlan} (hplan : ∀ u q, (plan u q).Canonical) (c op : Nat) (tds : Block → List Nat) :
    (copyStep c op tds plan s).Canonical := by
  unfold copyStep
  split
  · exact h
  next q _ =>
  extract_lets bs s1 s2 p st due
  have h2 : s2.Canonical := State.canonical_touchAll h bs
  split
  next m fl st' hwork =>
  change m.wf = true
  split at hwork
  · have hm := (hplan s2 q.cmd).work s2.mem h2
    rw [hwork] at hm
    exact hm
  · cases hwork
    exact h2

theorem loadStep_canonical (c : Nat) (q : QCmd) : (loadStep c q s).Canonical := by
  unfold loadStep
  extract_lets tds s1 s2 d refuse st a s3 bs s4 s5 job
  have hrefuse {u : State} (hu : u.Canonical) (st : BitVec 16) (cyc : Nat) : (refuse u st cyc).Canonical :=
    State.canonical_onCl hu c _
  have h2 : s2.Canonical := State.canonical_touchAll h tds
  clear_value s2 bs
  have h3 : s3.Canonical := State.canonical_touchAll h2 _
  clear_value s3
  have h5 : s5.Canonical := State.canonical_onCl (State.canonical_touchAll h3 bs) c _
  clear_value s5 refuse
  exact canonical_ite (hrefuse h2 _ _) (canonical_ite (hrefuse h2 _ _) (canonical_ite (hrefuse h3 _ _) (canonical_ite (hrefuse h3 _ _)
    (canonical_ite (hrefuse h5 _ _) (State.canonical_onCl h5 c _)))))

theorem vfuncStep_canonical (c : Nat) : (vfuncStep c s).Canonical := by
  unfold vfuncStep
  split
  · exact h
  · exact canonical_ite (loadStep_canonical h c _) (vecStep_canonical h (vfuncPlan_canonical c) c 0x41 vfuncTds)

theorem loadResident_canonical (c : Nat) : (loadResident c s).Canonical := by
  unfold loadResident
  split
  · exact h
  · refine State.canonical_onCl ?_ c _
    exact State.canonical_runTo h _

end Engines

/-! ### Completion -/

section Completion
variable {s : State} (h : s.Canonical)
include h

theorem completeStep_canonical (c : Nat) (x : Executor) : (completeStep c x s).Canonical := by
  unfold completeStep
  split
  · exact h
  next d _ =>
  extract_lets s1 own prog
  have h1 : s1.Canonical := State.canonical_runTo h _
  split
  next u ok hsettle =>
  have hu := (State.canonical_settleOwner h1 (ownerCmd c x d.q)).of_eq hsettle
  extract_lets s2 st s3 s4 s5
  have h3 : s3.Canonical := MemSt.wf_grant _ hu
  have h4 : s4.Canonical := canonical_ite (State.canonical_signalOf h3 _ c _) (canonical_ite (canonical_ite h3 h3) h3)
  have h5 : s5.Canonical := h4
  exact canonical_ite (State.canonical_reap h5 _) h5

end Completion

/-! ### The stores by themselves -/

section Scrubbers
variable {m : MemSt}

theorem MemSt.wf_scrubRow (rows : Sparse Nat) (h : m.wf = true) : ({ m with scrubRow := rows } : MemSt).wf = true := h

theorem MemSt.wf_scrubRows (rows froms : Sparse Nat) (h : m.wf = true) : ({ m with scrubRow := rows, scrubFrom := froms } : MemSt).wf = true := h

theorem MemSt.wf_hbmNext (next : Sparse Nat) (h : m.wf = true) : ({ m with hbmNext := next } : MemSt).wf = true := h

theorem MemSt.wf_beginPass (stack at_ : Nat) (h : m.wf = true) : (m.beginPass stack at_).wf = true := h

theorem MemSt.wf_noteMend (stack row : Nat) (h : m.wf = true) : (m.noteMend stack row).wf = true := h

end Scrubbers

section Stores
variable {s : State} (h : s.Canonical)
include h

theorem mergeCommitStep_canonical (a : Addr) : (mergeCommitStep a s).Canonical := by
  unfold mergeCommitStep
  split
  · exact h
  next e _ =>
  extract_lets s1
  have h1 : s1.Canonical := State.canonical_runTo h _
  exact MemSt.wf_commitOut s1.mx e h1

theorem carrelScrubRowStep_canonical (st : SramStore) (bank : Nat) : (carrelScrubRowStep st bank s).Canonical := by
  unfold carrelScrubRowStep
  extract_lets n row from_ s1 a s2 late now
  have h1 : s1.Canonical := State.canonical_runTo h _
  clear_value s1
  have h2 : s2.Canonical := MemSt.wf_scrub _ _ h1
  clear_value s2 row
  refine canonical_ite h (canonical_ite ?_ ?_)
  · refine State.canonical_onMem h2 fun m hm => ?_
    exact MemSt.wf_scrubRow _ hm
  · refine State.canonical_onMem h2 fun m hm => ?_
    exact MemSt.wf_scrubRows _ _ (MemSt.wf_ite (MemSt.wf_onProt _ _ hm) hm)

theorem hbmScrubBlockStep_canonical (stack : Nat) : (hbmScrubBlockStep stack s).Canonical := by
  unfold hbmScrubBlockStep
  extract_lets cfg k from_ s1 a b m mended m1 m2 s2 due late now
  have h1 : s1.Canonical := State.canonical_runTo h _
  clear_value s1
  have hm : m1.wf = true := MemSt.wf_readBlock _ _ _ (MemSt.wf_reveal _ (MemSt.wf_commitBlock _ _ h1))
  clear_value m1
  have h2 : s2.Canonical := MemSt.wf_ite (MemSt.wf_noteMend _ _ hm) hm
  clear_value s2 k
  refine canonical_ite h (canonical_ite (canonical_ite ?_ h) (canonical_ite ?_ ?_))
  · refine State.canonical_onMem h fun m hm => ?_
    exact MemSt.wf_beginPass _ _ hm
  · refine State.canonical_onMem h2 fun m hm => ?_
    exact MemSt.wf_hbmNext _ hm
  · refine State.canonical_onMem h2 fun m hm => ?_
    exact MemSt.wf_beginPass _ _ (MemSt.wf_ite (MemSt.wf_onProt _ _ hm) hm)

theorem requestAgeBlockStep_canonical (r : MemReq) : (requestAgeBlockStep r s).Canonical := by
  change MemSt.wf _ = true
  unfold requestAgeBlockStep State.onMem
  dsimp only
  split
  · exact h
  · exact MemSt.wf_ite h h

end Stores

end Sys2Proof.Machine
end

section
/-!
The update units keep the memories in canonical form (R383 to R409): what they read and write of a binding, serving it, its close, and the
install of preconditioners.
-/
namespace Sys2Proof.Machine

/-! ### Words of a binding -/

theorem State.canonical_readNats {s : State} (h : s.Canonical) (job n : Nat) (as : List Addr) : LeavesCanonical (s.readNats job n as) := by
  induction as generalizing s with
  | nil => exact ⟨h⟩
  | cons a t ih =>
    unfold State.readNats
    split
    next u hr => exact ⟨(State.canonical_hubRead h job a n).of_eq hr⟩
    next u bs hr =>
    have hu := (State.canonical_hubRead h job a n).of_eq hr
    split
    next v hr => exact ⟨(ih hu).of_eq hr⟩
    next v l hr => exact ⟨(ih hu).of_eq hr⟩

theorem State.canonical_writeNats {s : State} (h : s.Canonical) (job o n : Nat) (xs : List (Addr × Nat)) :
    LeavesCanonical (s.writeNats job o n xs) := by
  induction xs generalizing s with
  | nil => exact ⟨h⟩
  | cons x t ih => exact ⟨(ih (State.canonical_hubWrite h job o x.1 (leBytes x.2 n)).canonical).canonical⟩

theorem State.canonical_writeParts {s : State} (h : s.Canonical) (job o : Nat) (xs : List (Nat × List (Addr × Nat))) :
    LeavesCanonical (s.writeParts job o xs) := by
  induction xs generalizing s with
  | nil => exact ⟨h⟩
  | cons x t ih => exact ⟨(ih (State.canonical_writeNats h job o x.1 x.2).canonical).canonical⟩

section Updates
variable {s : State} (h : s.Canonical)
include h

theorem State.canonical_updCount (p : Nat) (f : HubSt → HubSt) : (s.updCount p f).Canonical := canonical_foldl (fun _ _ hu => by exact hu) _ h

theorem State.canonical_updEnd (b : Binding) (st : BitVec 16) (due : Nat) : (s.updEnd b st due).Canonical := h

theorem State.canonical_updRefuse (b : Binding) (st : BitVec 16) : (s.updRefuse b st).Canonical := by
  unfold State.updRefuse
  extract_lets s1 s2
  have h1 : s1.Canonical := by
    unfold s1
    split
    · exact canonical_ite h h
    · exact h
  exact State.canonical_updEnd (canonical_ite (State.canonical_updCount h1 _ _) h1) b st _

theorem State.canonical_pull (b : Binding) : LeavesCanonical (s.pull b) := by
  unfold State.pull
  refine leaves_ite ⟨h⟩ ?_
  split
  · exact ⟨h⟩
  · exact ⟨h⟩

/-! ### Elements and groups (R389 to R404) -/

theorem State.canonical_applyElem (b : Binding) (i : Nat) (r : W32) : LeavesCanonical (s.applyElem b i r) := by
  unfold State.applyElem
  extract_lets c p mf of_ adam bf
  split
  next s1 w hw =>
  split
  next s2 m hm =>
  split
  next s3 k hk =>
  split
  next s4 f hf =>
  have h1 := (State.canonical_readNats h _ _ _).of_eq hw
  have h2 := (State.canonical_readNats h1 _ _ _).of_eq hm
  have h3 := (State.canonical_readNats h2 _ _ _).of_eq hk
  have h4 := (State.canonical_readNats h3 _ _ _).of_eq hf
  split
  · extract_lets
    split
    split
    next s5 ok ho => exact ⟨(State.canonical_writeParts h4 _ _ _).of_eq ho⟩
  · exact ⟨h4⟩

theorem State.canonical_applyGroup (b : Binding) (k : Nat) (rs : List W32) : LeavesCanonical (s.applyGroup b k rs) := by
  unfold State.applyGroup
  extract_lets c of_ ps sAt pAt
  split
  next s1 w hw =>
  split
  next s2 m hm =>
  split
  next s3 st hst =>
  split
  next s4 pm hpm =>
  have h1 := (State.canonical_readNats h _ _ _).of_eq hw
  have h2 := (State.canonical_readNats h1 _ _ _).of_eq hm
  have h3 := (State.canonical_readNats h2 _ _ _).of_eq hst
  have h4 := (State.canonical_readNats h3 _ _ _).of_eq hpm
  split
  · extract_lets
    split
    split
    next s5 ok ho => exact ⟨(State.canonical_writeParts h4 _ _ _).of_eq ho⟩
  · exact ⟨h4⟩

theorem State.canonical_applyAll (b : Binding) (vals : Sparse (Option W32)) : LeavesCanonical (s.applyAll b vals) := by
  unfold State.applyAll
  refine leaves_ite ⟨h⟩ (leaves_ite (leaves_foldl (fun x k hx => ?_) _ h) (leaves_foldl (fun x v hx => ?_) _ h))
  · refine leaves_ite ⟨hx⟩ ?_
    split
    next t c ht => exact ⟨(State.canonical_applyGroup hx _ _ _).of_eq ht⟩
    next t ht => exact ⟨(State.canonical_applyGroup hx _ _ _).of_eq ht⟩
  · refine leaves_ite ⟨hx⟩ ?_
    split
    · exact ⟨hx⟩
    · split
      next t c ht => exact ⟨(State.canonical_applyElem hx _ _ _).of_eq ht⟩
      next t ht => exact ⟨(State.canonical_applyElem hx _ _ _).of_eq ht⟩

/-! ### Service and verdict (R387, R405 to R409) -/

theorem State.canonical_serve (b : Binding) : (s.serve b).Canonical := by
  unfold State.serve
  refine canonical_ite h ?_
  split
  next s1 b1 hpull =>
  have h1 := (State.canonical_pull h b).of_eq hpull
  split
  next s2 b2 ok happly =>
  have h2 := (State.canonical_applyAll h1 _ _).of_eq happly
  extract_lets s3
  have h3 : s3.Canonical := h2
  refine canonical_ite (State.canonical_updEnd h3 _ _ _) ?_
  split
  · exact State.canonical_updEnd (State.canonical_updCount h3 _ _) _ _ _
  · exact h3
  · exact h3

theorem State.canonical_serveAll : s.serveAll.Canonical := canonical_foldl (fun _ b hu => State.canonical_serve hu b) _ h

theorem State.canonical_heldResults (b : Binding) : LeavesCanonical (s.heldResults b) := by
  unfold State.heldResults
  refine leaves_ite ⟨h⟩ ?_
  split
  next t ht => exact ⟨(State.canonical_readNats h _ _ _).of_eq ht⟩
  next t l ht => exact ⟨(State.canonical_readNats h _ _ _).of_eq ht⟩

theorem State.canonical_atVerdict (clean : Bool) (b : Binding) : (s.atVerdict clean b).Canonical := by
  unfold State.atVerdict
  refine canonical_ite (State.canonical_updEnd h _ _ _) (canonical_ite (State.canonical_updEnd (State.canonical_updCount h _ _) _ _ _) ?_)
  split
  next t ht => exact State.canonical_updEnd ((State.canonical_heldResults h b).of_eq ht) _ _ _
  next t vals ht =>
  have h1 := (State.canonical_heldResults h b).of_eq ht
  split
  next u b1 ok hu =>
  have h2 := (State.canonical_applyAll h1 _ _).of_eq hu
  exact canonical_ite h2 (State.canonical_updEnd h2 _ _ _)

theorem State.canonical_applyPass (p prog : Nat) (step : W64) (clean : Bool) : (s.applyPass p prog step clean).Canonical :=
  canonical_foldl (fun _ b hu => State.canonical_atVerdict hu clean b) _ h

/-! ### Binding and its close (R383 to R386, R409) -/

theorem State.canonical_bindCheck (b : Binding) : LeavesCanonical (s.bindCheck b) := by
  unfold State.bindCheck
  extract_lets q n
  refine leaves_ite ⟨h⟩ ?_
  split
  next u r hu =>
  have h1 := (State.canonical_hubRead h _ _ _).of_eq hu
  split
  · exact ⟨h1⟩
  next bs =>
  extract_lets c ust
  refine leaves_ite ⟨h1⟩ ?_
  split
  next v l hv =>
  have h2 : v.Canonical :=
    (leaves_ite (x := (u, some ([] : List Byte))) ⟨h1⟩ (State.canonical_hubRead h1 _ _ _)).of_eq hv
  split
  · exact ⟨h2⟩
  · exact leaves_ite ⟨h2⟩ (leaves_ite ⟨h2⟩ ⟨h2⟩)

theorem State.canonical_bindNow (b : Binding) : (s.bindNow b).Canonical := by
  unfold State.bindNow
  split
  next u st b1 hu =>
  have h1 := (State.canonical_bindCheck h b).of_eq hu
  extract_lets s1 failed s2 s3
  have hs1 : s1.Canonical := h1
  have hs2 : s2.Canonical := State.canonical_updCount h1 _ _
  have hs3 : s3.Canonical := by
    unfold s3
    split
    · exact canonical_ite hs2 hs2
    · exact hs2
  exact canonical_ite (canonical_ite (State.canonical_serve hs1 b1) (State.canonical_updEnd (State.canonical_updCount hs1 _ _) _ _ _))
    (canonical_ite (canonical_ite hs3 (State.canonical_updEnd hs3 _ _ _)) (State.canonical_updRefuse h1 _ _))

theorem updApplyStep_canonical (c : Nat) : (updApplyStep c s).Canonical := by
  unfold updApplyStep
  split
  · exact h
  next k _ =>
  extract_lets q p job
  refine canonical_ite (State.canonical_updCount h _ _) ?_
  split
  · exact h
  · exact canonical_ite h (canonical_ite h (State.canonical_bindNow (by exact h) _))

theorem waitingCheckStep_canonical (desc : Addr) : (waitingCheckStep desc s).Canonical := by
  unfold waitingCheckStep
  split
  · exact h
  · exact canonical_ite h (State.canonical_bindNow h _)

theorem bindingCloseStep_canonical (q : Nat) : (bindingCloseStep q s).Canonical := by
  unfold bindingCloseStep
  split
  · exact h
  next b _ =>
  extract_lets at_
  split
  next u hu => exact State.canonical_updEnd ((State.canonical_readNats h _ _ _).of_eq hu) _ _ _
  next u ks hu =>
  have h1 := (State.canonical_readNats h _ _ _).of_eq hu
  split
  next v hv => exact State.canonical_updEnd ((State.canonical_hubRead h1 _ _ _).of_eq hv) _ _ _
  next v bs hv =>
  have h2 := (State.canonical_hubRead h1 _ _ _).of_eq hv
  extract_lets w
  split
  next x ok hx =>
  have h3 := (State.canonical_hubWrite h2 _ _ _ _).of_eq hx
  split
  next y ok' hy =>
  have h4 := (State.canonical_writeNats h3 _ _ _ _).of_eq hy
  exact State.canonical_updEnd (canonical_ite (State.canonical_updCount h4 _ _) h4) _ _ _

end Updates

/-! ### Installing preconditioners (R403) -/

theorem State.canonical_installGroups {s : State} (h : s.Canonical) (job o : Nat) (src dst : Addr) (n : Nat) :
    LeavesCanonical (s.installGroups job o src dst n) := by
  induction n generalizing s src dst with
  | zero => exact ⟨h⟩
  | succ n ih =>
    unfold State.installGroups
    split
    next u hu => exact ⟨(State.canonical_hubRead h _ _ _).of_eq hu⟩
    next u bs hu =>
    have h1 := (State.canonical_hubRead h _ _ _).of_eq hu
    split
    next v ok hv =>
    have h2 := (State.canonical_hubWrite h1 _ _ _ _).of_eq hv
    exact leaves_ite (ih h2 _ _) ⟨h2⟩

theorem updInstallStep_canonical {s : State} (h : s.Canonical) (c : Nat) : (updInstallStep c s).Canonical := by
  unfold updInstallStep
  split
  · exact h
  next k _ =>
  extract_lets q p src desc first n
  refine canonical_ite h (canonical_ite h ?_)
  split
  next u hu => exact State.canonical_onCl ((State.canonical_hubRead h _ _ _).of_eq hu) c _
  next u bs hu =>
  have h1 := (State.canonical_hubRead h _ _ _).of_eq hu
  extract_lets cf ust dst
  refine canonical_ite h1 (canonical_ite h1 ?_)
  split
  next v ok hv =>
  have h2 := (State.canonical_installGroups h1 _ _ _ _ _).of_eq hv
  refine canonical_ite h2 ?_
  split
  next w ok' hw => exact State.canonical_onCl ((State.canonical_hubWrite h2 _ _ _ _).of_eq hw) c _

end Sys2Proof.Machine
end

section
/-!
Contributions, ring passes and messages keep the memories in canonical form (R245, R246, R360 to R363), and so do halts (R196, R197, R220)
and the close of a step (R165 to R174, R380).
-/
namespace Sys2Proof.Machine

/-! ### Contributions and messages -/

section Hubs
variable {s : State} (h : s.Canonical)
include h

theorem State.canonical_settleSends : s.settleSends.Canonical := h

theorem State.canonical_openCtx (x : Ctx) : (s.openCtx x).Canonical :=
  State.canonical_drainPreopen (s := { s with red := { s.red with ctxs := s.red.ctxs ++ [x] } }) h x

theorem redOpenStep_canonical (c : Nat) : (redOpenStep c s).Canonical := by
  unfold redOpenStep
  split
  · exact h
  next k _ =>
  extract_lets q p job
  refine canonical_ite h (canonical_ite h ?_)
  split
  next u hu => exact State.canonical_onCl ((State.canonical_hubRead h _ _ _).of_eq hu) c _
  next u bs hu =>
  have h1 := (State.canonical_hubRead h _ _ _).of_eq hu
  extract_lets plan x
  refine canonical_ite h1 ?_
  split
  next lo n _ => exact canonical_ite h1 (State.canonical_openCtx (State.canonical_onCl h1 c _) x)

theorem State.canonical_takeOwn (k : Nat) (p : Packet) : (s.takeOwn k p).Canonical := by
  unfold State.takeOwn
  split
  · exact h
  · exact canonical_ite (State.canonical_twinUnit h k _ p _).canonical (canonical_takeUnit 4 false k h p _).canonical

theorem State.canonical_contribute (k : HubCmd) (c : Nat) (x : Ctx) (remote : Bool) (st : Stream) (p : Packet) :
    (s.contribute k c x remote st p).Canonical :=
  canonical_ite h (canonical_ite (State.canonical_sendData h k c st [p]) (State.canonical_takeOwn h _ p))

theorem State.canonical_contribEnd (remote : Bool) (c op : Nat) (st : BitVec 16) (fl : Flags) : (s.contribEnd remote c op st fl).Canonical :=
  canonical_ite h h

end Hubs

theorem State.canonical_densePieces {s : State} (h : s.Canonical) (j : ContribJob) (src first : Nat) (fl : Flags) (xs : List (Nat × Nat)) :
    LeavesCanonical (s.densePieces j src first fl xs) := by
  induction xs generalizing s fl with
  | nil => exact ⟨h⟩
  | cons x t ih =>
    unfold State.densePieces
    split
    next u hu => exact ⟨(State.canonical_hubRead h _ _ _).of_eq hu⟩
    next u bs hu => exact ih (State.canonical_contribute ((State.canonical_hubRead h _ _ _).of_eq hu) _ _ _ _ _ _) _

theorem State.canonical_topkPieces {s : State} (h : s.Canonical) (j : ContribJob) (src first rd wr : Nat) (fl : Flags)
    (xs : List (Nat × Nat)) : LeavesCanonical (s.topkPieces j src first rd wr fl xs) := by
  induction xs generalizing s fl with
  | nil => exact ⟨h⟩
  | cons x t ih =>
    unfold State.topkPieces
    extract_lets o
    split
    next u hu => exact ⟨(State.canonical_hubRead h _ _ _).of_eq hu⟩
    next u g hu =>
    have h1 := (State.canonical_hubRead h _ _ _).of_eq hu
    split
    next v hv => exact ⟨(State.canonical_hubRead h1 _ _ _).of_eq hv⟩
    next v r hv =>
    have h2 := (State.canonical_hubRead h1 _ _ _).of_eq hv
    split
    next a f _ =>
    extract_lets idx vals payload p w rest
    have h3 : w.Canonical := State.canonical_contribute h2 _ _ _ _ _ _
    split
    next y ok hy =>
    have h4 := (State.canonical_hubWrite h3 _ _ _ _).of_eq hy
    exact leaves_ite (ih h4 _) ⟨h4⟩

section Commands
variable {s : State} (h : s.Canonical)
include h

theorem contribStep_canonical (op c : Nat) : (contribStep op c s).Canonical := by
  unfold contribStep
  split
  · exact h
  next k _ =>
  extract_lets q p job topk n dst st src first half
  split
  · exact h
  next x _ =>
  extract_lets j
  refine canonical_ite h (canonical_ite h (canonical_ite h (canonical_ite ?_ ?_)))
  · split
    next u ok fl hu =>
    have h1 : u.Canonical := (State.canonical_topkPieces h _ _ _ _ _ _ _).of_eq hu
    exact State.canonical_contribEnd (s := u.completeCtxs) h1 _ _ _ _ _
  · split
    next u ok fl hu =>
    have h1 : u.Canonical := (State.canonical_densePieces h _ _ _ _ _).of_eq hu
    exact State.canonical_contribEnd (s := u.completeCtxs) h1 _ _ _ _ _

theorem redWaitStep_canonical (c : Nat) : (redWaitStep c s).Canonical := by
  unfold redWaitStep
  split
  · exact h
  · exact canonical_ite h h

theorem ringPassStep_canonical (c : Nat) : (ringPassStep c s).Canonical := by
  unfold ringPassStep
  split
  · exact h
  next k _ =>
  extract_lets q p job n cls dst st
  refine canonical_ite h (canonical_ite h (canonical_ite h (canonical_ite h ?_)))
  split
  next u bs whole hu =>
  have h1 := (State.canonical_hubPrefix h _ _ _).of_eq hu
  split
  next v ok hv =>
  have h2 : v.Canonical := by
    refine (leaves_foldl (fun x d hx => ?_) cls (x := (u, true)) h1).of_eq hv
    split
    next y ok' hy => exact ⟨(State.canonical_hubWrite hx _ _ _ _).of_eq hy⟩
  extract_lets status
  exact canonical_ite (State.canonical_sendData h2 _ _ _ _) h2

theorem sendStep_canonical (c : Nat) : (sendStep c s).Canonical := by
  unfold sendStep
  split
  · exact h
  next k _ =>
  extract_lets q p job n src dst pk st
  refine canonical_ite h (canonical_ite h (canonical_ite (canonical_ite h (canonical_ite h ?_)) ?_))
  · split
    next u bs whole hu => exact State.canonical_sendData ((State.canonical_hubPrefix h _ _ _).of_eq hu) _ _ _ _
  · split
    next u bs whole hu =>
    have h1 := (State.canonical_hubPrefix h _ _ _).of_eq hu
    split
    next v ok hv => exact State.canonical_onCl ((State.canonical_hubWrite h1 _ _ _ _).of_eq hv) c _

theorem recvStep_canonical (c : Nat) : (recvStep c s).Canonical := by
  unfold recvStep
  split
  · exact h
  next k _ =>
  extract_lets q job n pk req f
  exact canonical_ite h (canonical_ite h (canonical_ite h (State.canonical_inject (State.canonical_onCl h c _) _ _)))

theorem State.canonical_notify (dsts : List Nat) (n : Notice) : (s.notify dsts n).Canonical := State.canonical_injectAll h _ _

theorem State.canonical_sendMemberUp (job beat : Nat) (step : W64) : (s.sendMemberUp job beat step).Canonical :=
  State.canonical_notify (by exact h) _ _

/-! ### Waits and halts -/

theorem State.canonical_settleWaits : s.settleWaits.Canonical := by
  unfold State.settleWaits
  extract_lets waits closed t
  have ht : t.Canonical := canonical_foldl (fun _ _ hu => by exact hu) _ h
  refine canonical_foldl (fun u w hu => ?_) _ ht
  exact canonical_ite hu hu

theorem State.canonical_endRecvs (cs : List Nat) (prog : Nat) : (s.endRecvs cs prog).Canonical :=
  canonical_foldl (fun _ _ hu => by exact hu) _ h

theorem State.canonical_haltBinding (b : Binding) : (s.haltBinding b).Canonical :=
  canonical_ite h (State.canonical_updEnd (canonical_ite (State.canonical_updCount h _ _) h) _ _ _)

theorem State.canonical_haltTask (p : Nat) (t : Task) (c : Nat) (x : HaltInfo) : (s.haltTask p t c x).Canonical := by
  unfold State.haltTask
  extract_lets t1 fh prog s1 s2 s3
  have h1 : s1.Canonical := State.canonical_haltAll h t1 fh
  have h2 : s2.Canonical := canonical_foldl (fun _ c hu => State.canonical_failCtx hu c 7 0 0) _ h1
  have h3 : s3.Canonical := canonical_foldl (fun _ b hu => State.canonical_haltBinding hu b) _ h2
  exact State.canonical_reap (State.canonical_settleWaits (State.canonical_serveAll (State.canonical_endRecvs h3 _ _))) p

theorem haltReportStep_canonical (c : Nat) : (haltReportStep c s).Canonical := by
  unfold haltReportStep
  split
  · exact canonical_ite (State.canonical_haltTask h _ _ _ _) h
  · exact h

theorem State.canonical_stepFault (p : Nat) (t : Task) (f : RegFault) : (s.stepFault p t f).Canonical := State.canonical_haltTask h p t _ _

/-! ### The Registrar's accesses (R335) -/

theorem State.canonical_regRead (p job a n : Nat) : LeavesCanonical (s.regRead p job a n) := by
  unfold State.regRead
  refine leaves_ite ⟨h⟩ ?_
  split
  next t bs ht => exact ⟨(State.canonical_hubRead h job a n).of_eq ht⟩
  next t ht => exact ⟨(State.canonical_hubRead h job a n).of_eq ht⟩

theorem State.canonical_regPut (p job a : Nat) (bs : List Byte) : LeavesCanonical (s.regPut p job a bs) := by
  unfold State.regPut
  refine leaves_ite ⟨h⟩ ?_
  split
  next t ht => exact ⟨(State.canonical_hubWrite h job ownerReg a bs).of_eq ht⟩
  next t ht => exact ⟨(State.canonical_hubWrite h job ownerReg a bs).of_eq ht⟩

end Commands

/-! ### Scale tables at the close (R169 to R171) -/

theorem State.canonical_closeEntries {s : State} (h : s.Canonical) (p job : Nat) (t : TableDesc) (delta : Int) (i n : Nat) :
    LeavesCanonical (s.closeEntries p job t delta i n) := by
  induction n generalizing s i with
  | zero => exact ⟨h⟩
  | succ n ih =>
    unfold State.closeEntries
    split
    next u f hu => exact ⟨(State.canonical_regRead h _ _ _ _).of_eq hu⟩
    next u bs hu =>
    have h1 := (State.canonical_regRead h _ _ _ _).of_eq hu
    split
    · exact ih h1 _
    · split
      next v f hv => exact ⟨(State.canonical_regPut h1 _ _ _ _).of_eq hv⟩
      next v x hv =>
      have h2 := (State.canonical_regPut h1 _ _ _ _).of_eq hv
      split
      next w f hw => exact ⟨(State.canonical_regPut h2 _ _ _ _).of_eq hw⟩
      next w y hw =>
      have h3 := (State.canonical_regPut h2 _ _ _ _).of_eq hw
      split
      next z k f hz => exact ⟨(ih h3 _).of_eq hz⟩

theorem State.canonical_restoreEntries {s : State} (h : s.Canonical) (p job : Nat) (t : TableDesc) (i n : Nat) :
    LeavesCanonical (s.restoreEntries p job t i n) := by
  induction n generalizing s i with
  | zero => exact ⟨h⟩
  | succ n ih =>
    unfold State.restoreEntries
    split
    next u f hu => exact ⟨(State.canonical_regRead h _ _ _ _).of_eq hu⟩
    next u bs hu =>
    have h1 := (State.canonical_regRead h _ _ _ _).of_eq hu
    split
    next v f hv => exact ⟨(State.canonical_regPut h1 _ _ _ _).of_eq hv⟩
    next v x hv => exact ih ((State.canonical_regPut h1 _ _ _ _).of_eq hv) _

theorem State.canonical_closeTables {s : State} (h : s.Canonical) (p job : Nat) (list : Addr) (delta : Option Int) (i n : Nat) :
    LeavesCanonical (s.closeTables p job list delta i n) := by
  induction n generalizing s i with
  | zero => exact ⟨h⟩
  | succ n ih =>
    unfold State.closeTables
    split
    next u f hu => exact ⟨(State.canonical_regRead h _ _ _ _).of_eq hu⟩
    next u bs hu =>
    have h1 := (State.canonical_regRead h _ _ _ _).of_eq hu
    extract_lets t
    split
    next v k f hv =>
    have h2 : v.Canonical := by
      cases delta with
      | some d => exact (State.canonical_closeEntries h1 _ _ _ _ _ _).of_eq hv
      | none =>
        obtain ⟨rfl, -⟩ := Prod.mk.inj hv
        exact (State.canonical_restoreEntries h1 _ _ _ _ _).canonical
    split
    · exact ⟨h2⟩
    · split
      next w k' f' hw => exact ⟨(ih h2 _).of_eq hw⟩

/-! ### The close of a step (R165 to R174, R380) -/

section Close
variable {s : State} (h : s.Canonical)
include h

theorem State.canonical_releaseStep (p prog : Nat) : (s.releaseStep p prog).Canonical := by
  unfold State.releaseStep
  split
  · exact h
  next t _ =>
  extract_lets r r'
  refine canonical_ite h ?_
  split
  next u f hu => exact State.canonical_stepFault ((State.canonical_regPut h _ _ _ _).of_eq hu) p t f
  next u x hu =>
  have h1 : u.Canonical := (State.canonical_regPut h _ _ _ _).of_eq hu
  exact h1

theorem State.canonical_closeStep (p prog : Nat) (t : Task) (x : Ctx) (o : StepOutcome) : (s.closeStep p prog t x o).Canonical := by
  unfold State.closeStep
  extract_lets r s1 r1 delta
  split
  next u k f hu =>
  have h1 : u.Canonical := (State.canonical_closeTables (s := s1) h _ _ _ _ _ _).of_eq hu
  extract_lets r2 s2
  have h2 : s2.Canonical := h1
  cases f with
  | some f => exact State.canonical_stepFault h2 p t f
  | none => exact State.canonical_releaseStep (State.canonical_applyPass h2 p prog _ _) p prog

theorem State.canonical_finish (p prog : Nat) : (s.finish p prog).Canonical := by
  unfold State.finish
  split
  · exact canonical_ite (State.canonical_taskDone h p _) h
  · exact h

theorem State.canonical_verdictReached (p prog : Nat) : (s.verdictReached p prog).Canonical := by
  unfold State.verdictReached
  refine canonical_ite h ?_
  split
  · split
    · exact State.canonical_finish (State.canonical_closeStep h p prog _ _ _) p prog
    · exact h
  · exact h

theorem State.canonical_answerResync : s.answerResync.Canonical := by
  unfold State.answerResync
  split
  · exact h
  · split
    · exact h
    · exact canonical_ite (State.canonical_notify (by exact h) _ _) h

theorem State.canonical_afterHub : s.afterHub.Canonical := by
  have h1 : s.completeCtxs.Canonical := h
  exact State.canonical_answerResync
    (canonical_foldl (fun _ x hu => State.canonical_verdictReached hu x.1 x.2) programs
      (State.canonical_settleWaits (State.canonical_serveAll h1)))

theorem State.canonical_contributeVerdict (x : Ctx) (b f : Nat) : (s.contributeVerdict x b f).Canonical :=
  canonical_ite h (canonical_ite (State.canonical_takeOwn h _ _) (State.canonical_inject h _ _))

theorem stepCloseStep_canonical (q prog : Nat) : (stepCloseStep q prog s).Canonical := by
  unfold stepCloseStep
  extract_lets p r cs b f last n before s1 s2
  refine canonical_ite h ?_
  split
  · exact h
  next t _ =>
  extract_lets x
  have h1 : s1.Canonical := canonical_ite h (State.canonical_runToNow h _)
  have h2 : s2.Canonical := h1
  exact State.canonical_afterHub (State.canonical_contributeVerdict (State.canonical_openCtx h2 x) x b f)

/-! ### What the hubs' time brings (R375, R377) -/

theorem State.canonical_onHub (k : Nat) (f : HubSt → HubSt) : (s.onHub k f).Canonical := h

theorem State.canonical_lateDrop (k n : Nat) : (s.lateDrop k n).Canonical := h

theorem preopenExpireStep_canonical (k : Nat) : (preopenExpireStep k s).Canonical := by
  unfold preopenExpireStep
  split
  · exact h
  next u _ _ =>
  refine State.canonical_lateDrop ?_ _ _
  refine State.canonical_onHub ?_ _ _
  exact State.canonical_runToNow h _

theorem State.canonical_expireCtx (c : Ctx) : (s.expireCtx c).Canonical := canonical_ite (State.canonical_failCtx h c 1 0 0) h

theorem contextDeadlineStep_canonical (q : Nat) : (contextDeadlineStep q s).Canonical := by
  unfold contextDeadlineStep
  extract_lets cs
  split
  · exact h
  next d _ => exact canonical_foldl (fun _ c hu => State.canonical_expireCtx hu c) _ (State.canonical_runToNow h d)

end Close

end Sys2Proof.Machine
end

section
/-!
Admission and the switch of programs keep the memories in canonical form: submission rings (R213 to R219), admission and its records (R201,
R211, R220), spill and restore images and first activations (R333), and the start of a task (R221).
-/
namespace Sys2Proof.Machine

/-! ### Submission rings and admission -/

section Admission
variable {s : State} (h : s.Canonical)
include h

theorem State.canonical_onPart (p : Nat) (f : Part → Part) : (s.onPart p f).Canonical := h

theorem State.canonical_readDesc (p a : Nat) : (s.readDesc p a).Canonical := by
  obtain ⟨range, hrange⟩ : ∃ f, f = @State.ringRange := ⟨_, rfl⟩
  generalize hf : @State.readDesc = f
  delta State.readDesc at hf
  rw [← hrange] at hf
  subst hf
  beta_reduce
  split
  next u bs hu =>
  have h1 : u.Canonical := by
    refine LeavesCanonical.of_eq ?_ hu
    exact leaves_ite ⟨(State.canonical_readPrefix h a 256).canonical⟩ ⟨h⟩
  exact h1

theorem State.canonical_readForAdmission (p : Nat) (d : BitVec 2048) : LeavesCanonical (s.readForAdmission p d) := by
  unfold State.readForAdmission
  refine leaves_ite ⟨h⟩ ?_
  split
  next u hu => exact ⟨(State.canonical_read h _ _).of_eq hu⟩
  next u bs hu =>
  have h1 := (State.canonical_read h _ _).of_eq hu
  exact leaves_ite (State.canonical_read h1 _ _) ⟨h1⟩

theorem State.canonical_judge (p : Nat) (t : Task) : LeavesCanonical (s.judge p t) := by
  unfold State.judge
  refine leaves_ite ⟨h⟩ (leaves_ite ⟨h⟩ ?_)
  split
  next u hu => exact ⟨(State.canonical_readForAdmission h p _).of_eq hu⟩
  next u tables hu =>
  have h1 := (State.canonical_readForAdmission h p _).of_eq hu
  split
  · exact ⟨h1⟩
  · split
    · exact ⟨h1⟩
    · exact ⟨h1⟩

theorem State.canonical_consume (p : Nat) : (s.consume p).Canonical := by
  obtain ⟨read, hread, hkept⟩ : ∃ f, f = @State.ringRead ∧ ∀ s : State, s.Canonical → ∀ p a n, LeavesCanonical (f s p a n) :=
    ⟨_, rfl, fun _ => State.canonical_ringRead⟩
  obtain ⟨write, hwrite, hwritten⟩ : ∃ f, f = @State.ringWrite ∧ ∀ s : State, s.Canonical → ∀ p a bs, LeavesCanonical (f s p a bs) :=
    ⟨_, rfl, fun _ => State.canonical_ringWrite⟩
  generalize hf : @State.consume = f
  delta State.consume at hf
  rw [← hread, ← hwrite] at hf
  subst hf
  beta_reduce
  extract_lets base
  refine canonical_ite h ?_
  split
  next u hu => exact State.canonical_ringFault ((hkept s h p _ 16).of_eq hu) p
  next u x hu =>
  have h1 := (hkept s h p _ 16).of_eq hu
  split
  next v hv => exact (hwritten u h1 p _ _).of_eq hv
  next v hv => exact State.canonical_ringFault ((hwritten u h1 p _ _).of_eq hv) p

theorem State.canonical_rejoinAtAcceptance (p : Nat) (t : Task) (i : Image) : (s.rejoinAtAcceptance p t i).Canonical :=
  canonical_ite h (State.canonical_sendMemberUp (State.canonical_onPart h p _) _ _ _)

theorem State.canonical_accept (p : Nat) (t : Task) (i : Image) : (s.accept p t i).Canonical := h

theorem admissionDecisionStep_canonical (q : Nat) : (admissionDecisionStep q s).Canonical := by
  unfold admissionDecisionStep
  extract_lets p
  refine canonical_ite h ?_
  split
  · exact h
  next t _ =>
  split
  next u i hu =>
    have h1 := State.canonical_accept ((State.canonical_judge h p t).of_eq hu) p t i
    exact State.canonical_rejoinAtAcceptance (State.canonical_consume (State.canonical_record h1 p _ _) p) p t i
  next u c hu =>
    have h1 := State.canonical_onPart ((State.canonical_judge h p t).of_eq hu) p
      (fun k => { k with tasks := k.tasks.filter (fun u => u.index != t.index) })
    exact State.canonical_consume (State.canonical_record h1 p _ _) p

theorem deadlineMissStep_canonical (q : Nat) : (deadlineMissStep q s).Canonical := by
  unfold deadlineMissStep
  extract_lets p
  split
  · exact h
  next d _ =>
  split
  · exact h
  next t _ =>
  refine State.canonical_record (State.canonical_onPart ?_ p _) p _ _
  exact State.canonical_runToNow h d

end Admission

theorem State.canonical_readDescs {s : State} (h : s.Canonical) (p base n free i k : Nat) : (s.readDescs p base n free i k).Canonical := by
  induction k generalizing s i with
  | zero => exact h
  | succ k ih => exact canonical_ite (ih (State.canonical_readDesc h p _) _) h

theorem submissionRingReadStep_canonical {s : State} (h : s.Canonical) (q : Nat) : (submissionRingReadStep q s).Canonical := by
  obtain ⟨read, hread, hkept⟩ : ∃ f, f = @State.ringRead ∧ ∀ s : State, s.Canonical → ∀ p a n, LeavesCanonical (f s p a n) :=
    ⟨_, rfl, fun _ => State.canonical_ringRead⟩
  obtain ⟨index, hindex, hindexed⟩ : ∃ f, f = @State.cqIndex ∧ ∀ s : State, s.Canonical → ∀ p, LeavesCanonical (f s p) :=
    ⟨_, rfl, fun _ => State.canonical_cqIndex⟩
  generalize hf : submissionRingReadStep = f
  delta submissionRingReadStep at hf
  rw [← hread, ← hindex] at hf
  subst hf
  beta_reduce
  extract_lets p s1 s2 v
  have h1 : s1.Canonical := canonical_ite (State.canonical_runToNow h _) h
  have h2 : s2.Canonical := State.canonical_onPart h1 p _
  refine canonical_ite h (canonical_ite h1 ?_)
  split
  next u hu => exact State.canonical_ringFault ((hkept s2 h2 p _ 16).of_eq hu) p
  next u x hu =>
  have h3 := (hkept s2 h2 p _ 16).of_eq hu
  extract_lets gap
  refine canonical_ite (State.canonical_event (State.canonical_onPart h3 p _) _) ?_
  split
  next w hw => exact State.canonical_ringFault ((hindexed u h3 p).of_eq hw) p
  next w cp cc hw => exact State.canonical_readDescs ((hindexed u h3 p).of_eq hw) _ _ _ _ _ _

/-! ### Blank, spilled and filled blocks (R333) -/

section Blocks
variable {m : MemSt} (h : m.wf = true)
include h

theorem MemSt.wf_blank (x : MemX) (b n : Nat) : (m.blank x b n).wf = true :=
  MemSt.wf_ite (MemSt.wf_wipe _ _ h) (MemSt.wf_onProt _ _ (MemSt.wf_wipe _ _ h))

theorem MemSt.wf_revealAll (b n : Nat) : (m.revealAll b n).wf = true :=
  MemSt.wf_ite h (MemSt.wf_foldl (fun _ b hm => MemSt.wf_reveal b hm) _ h)

theorem MemSt.wf_setByte (a : Nat) (v : Byte) : ({ m with bytes := sset 0 m.bytes a v } : MemSt).wf = true := by
  rw [MemSt.wf_iff] at h ⊢
  exact ⟨sok_sset 0 a v h.1, h.2⟩

theorem MemSt.wf_setCode (b : Nat) (c : BitVec 80) : ({ m with codes := sset 0 m.codes b c } : MemSt).wf = true := by
  rw [MemSt.wf_iff] at h ⊢
  exact ⟨h.1, sok_sset 0 b c h.2⟩

end Blocks

section Switch
variable {s : State} (h : s.Canonical)
include h

theorem State.canonical_vague (b n : Nat) : (s.vague b n).Canonical := by
  unfold State.vague
  refine canonical_ite h ?_
  exact MemSt.wf_congr rfl rfl (MemSt.wf_blank h s.mx b n)

theorem State.canonical_spillCarrel (i : Image) (c : Nat) : LeavesCanonical (s.spillCarrel i c) := by
  unfold State.spillCarrel
  extract_lets org
  refine leaves_foldl (fun x r hx => ⟨?_⟩) _ h
  exact MemSt.wf_revealAll (MemSt.wf_foldl (fun _ e hm => MemSt.wf_commitOut _ e hm) _ hx) _ _

theorem State.canonical_fillCarrel (i : Image) (z : Spilled) : (s.fillCarrel i z).Canonical := by
  unfold State.fillCarrel
  extract_lets org s1 m1 touched m2 m3
  have h1 : s1.Canonical := canonical_foldl (fun u _ hu => by exact MemSt.wf_blank hu u.mx _ _) _ h
  have h2 : m1.wf = true := MemSt.wf_foldl (fun _ e hm => MemSt.wf_setByte hm _ _) _ h1
  have h3 : m2.wf = true := MemSt.wf_foldl (fun _ b hm => MemSt.wf_setCode hm _ _) _ h2
  have h4 : m3.wf = true := MemSt.wf_foldl (fun _ b hm => MemSt.wf_setCode (MemSt.wf_onProt _ _ hm) _ _) _ h3
  exact h4

theorem State.canonical_vagueOutside (c b : Nat) (rs : List (Nat × Nat)) : (s.vagueOutside c b rs).Canonical := by
  induction rs generalizing s b with
  | nil => exact State.canonical_vague h _ _
  | cons r t ih => exact ih (State.canonical_vague h _ _) _

theorem State.canonical_spillProgram (p k : Nat) (t : Task) (i : Image) : (s.spillProgram p k t i).Canonical := by
  unfold State.spillProgram
  split
  next u zs hu =>
  have h1 : u.Canonical := by
    refine (leaves_foldl (fun x c hx => ?_) t.clusters (x := (s, ([] : List Spilled))) h).of_eq hu
    exact ⟨(State.canonical_spillCarrel hx i c).canonical⟩
  exact State.canonical_onPart (State.canonical_vague h1 _ _) p _

theorem State.canonical_firstActivation (p k : Nat) (i : Image) : (s.firstActivation p k i).Canonical := by
  unfold State.firstActivation
  extract_lets s1
  have h1 : s1.Canonical := by
    refine canonical_foldl (fun u e hu => State.canonical_onCl ?_ _ _) _ h
    exact canonical_foldl (fun v _ hv => by exact MemSt.wf_blank hv v.mx _ _) _ hu
  exact State.canonical_onPart h1 p _

theorem State.canonical_restoreProgram (p k : Nat) (t : Task) (i : Image) : (s.restoreProgram p k t i).Canonical := by
  unfold State.restoreProgram
  extract_lets zs cyc s1
  have h1 : s1.Canonical := canonical_foldl (fun _ z hu => State.canonical_onCl (State.canonical_fillCarrel hu i z) _ _) _ h
  exact State.canonical_onPart h1 p _

theorem State.canonical_swap (p : Nat) (out inc : Option Nat) : (s.swap p out inc).Canonical := by
  unfold State.swap
  extract_lets s1 i wait keep s2
  have h1 : s1.Canonical := by
    unfold s1
    split
    · split
      · exact State.canonical_spillProgram h p _ _ _
      · exact h
    · exact State.canonical_onPart h p _
    · exact h
  have h2 : s2.Canonical := canonical_foldl (fun _ c hu => State.canonical_vagueOutside (State.canonical_onCl hu c _) c 0 _) _ h1
  clear_value i wait s2
  split
  · exact canonical_ite (State.canonical_restoreProgram h2 p _ _ _) (State.canonical_firstActivation h2 p _ _)
  · exact h2

theorem programSwitchStep_canonical (q : Nat) : (programSwitchStep q s).Canonical := by
  unfold programSwitchStep
  extract_lets p
  refine canonical_ite h ?_
  split
  · exact h
  next b _ =>
  refine State.canonical_onPart ?_ p _
  refine canonical_foldl (fun _ c hu => State.canonical_onCl hu c _) _ ?_
  exact State.canonical_runToNow h _

theorem State.canonical_sliceCtxs (p : Nat) (out inc : Option Nat) : (s.sliceCtxs p out inc).Canonical := h

theorem switchCompleteStep_canonical (q : Nat) : (switchCompleteStep q s).Canonical := by
  unfold switchCompleteStep
  extract_lets p
  split
  · exact h
  next due inc _ =>
  refine canonical_ite h (State.canonical_sliceCtxs (State.canonical_onPart (State.canonical_swap ?_ p _ inc) p _) p _ inc)
  exact State.canonical_runTo h due

/-! ### The start of a task (R221) -/

theorem State.canonical_launch (i : Image) : (s.launch i).Canonical :=
  canonical_foldl (fun _ _ hu => by exact State.canonical_onCl hu _ _) _ h

theorem State.canonical_resynced (p k : Nat) : (s.resynced p k).Canonical := by
  unfold State.resynced
  split
  · exact canonical_ite h h
  · exact h

theorem taskStartStep_canonical (q : Nat) : (taskStartStep q s).Canonical := by
  unfold taskStartStep
  extract_lets p
  refine canonical_ite h ?_
  split
  · exact h
  next k t _ =>
  extract_lets b s1
  split
  · exact h
  next i _ =>
  refine canonical_ite h ?_
  extract_lets s2 s3
  have h1 : s1.Canonical := State.canonical_runToNow h _
  clear_value s1
  have h2 : s2.Canonical := canonical_ite h1 (State.canonical_firstActivation h1 p k i)
  have h3 : s3.Canonical := State.canonical_launch (State.canonical_onPart h2 p _) i
  clear_value s3
  refine canonical_ite (State.canonical_answerResync (State.canonical_releaseStep (State.canonical_resynced ?_ p k) p k)) h3
  exact State.canonical_onPart h3 p _

end Switch

end Sys2Proof.Machine
end

section
/-!
Staged sets keep the memories in canonical form (R346, R378, R410 to R415): their check, their decision, and their application with the
committed update descriptors; and so does the copy of an archived record (R484).
-/
namespace Sys2Proof.Machine

/-! ### What a staged set reads -/

section Reads
variable {s : State} (h : s.Canonical)
include h

theorem State.canonical_readPlan : LeavesCanonical s.readPlan := by
  unfold State.readPlan
  extract_lets base
  refine leaves_ite ⟨h⟩ (leaves_ite ⟨h⟩ ?_)
  split
  next u bs hu => exact ⟨(State.canonical_read h _ _).of_eq hu⟩
  next u hu => exact ⟨(State.canonical_read h _ _).of_eq hu⟩

theorem State.canonical_readUpdList (p : Nat) (v : W64) : LeavesCanonical (s.readUpdList p v) := by
  unfold State.readUpdList
  extract_lets base n
  refine leaves_ite ⟨h⟩ (leaves_ite ⟨h⟩ ?_)
  split
  next u hu => exact ⟨(State.canonical_read h _ _).of_eq hu⟩
  next u bs hu => exact ⟨(State.canonical_read h _ _).of_eq hu⟩

theorem State.canonical_readDescr (p a : Nat) : LeavesCanonical (s.readDescr p a) := by
  unfold State.readDescr
  refine leaves_ite ⟨h⟩ ?_
  split
  next u hu => exact ⟨(State.canonical_read h _ _).of_eq hu⟩
  next u bs hu => exact ⟨(State.canonical_read h _ _).of_eq hu⟩

end Reads

theorem State.canonical_checkDescrs {s : State} (h : s.Canonical) (p : Nat) (as : List Addr) : LeavesCanonical (s.checkDescrs p as) := by
  induction as generalizing s with
  | nil => exact ⟨h⟩
  | cons a t ih =>
    unfold State.checkDescrs
    split
    next u hu => exact ⟨(State.canonical_readDescr h p a).of_eq hu⟩
    next u d hu =>
    extract_lets mine ok
    split
    next v ok' rest hv => exact ⟨(ih ((State.canonical_readDescr h p a).of_eq hu)).of_eq hv⟩

/-! ### The check and the decision (R346, R411) -/

section Stages
variable {s : State} (h : s.Canonical)
include h

theorem State.canonical_checkSet (r : StageSet) (scope job commit : Nat) : LeavesCanonical (s.checkSet r scope job commit) := by
  unfold State.checkSet
  extract_lets digest base ready forming thin
  split
  · split
    next u hu => exact ⟨(State.canonical_readPlan h).of_eq hu⟩
    next u pl hu => exact ⟨(State.canonical_readPlan h).of_eq hu⟩
  · extract_lets p own regs
    split
    next u hu => exact ⟨(State.canonical_readUpdList h _ _).of_eq hu⟩
    next u as hu =>
    split
    next v ok fields hv => exact ⟨(State.canonical_checkDescrs ((State.canonical_readUpdList h _ _).of_eq hu) _ _).of_eq hv⟩

theorem State.canonical_setStage (r : StageSet) (f : StageRegs → StageRegs) : (s.setStage r f).Canonical := by
  cases r with
  | pkg => exact h
  | part q => exact State.canonical_onPart h q.val _

theorem State.canonical_onRoot (id : W32) (scope job commit : Nat) (set : Option StageSet) (f : RootRec → RootRec) :
    (s.onRoot id scope job commit set f).Canonical := canonical_ite h h

theorem State.canonical_abandonSet (r : StageSet) (reason : Nat) : (s.abandonSet r reason).Canonical := by
  unfold State.abandonSet
  split
  · exact h
  · exact State.canonical_setStage h r _

theorem State.canonical_stageCtl (r : StageSet) (v : W64) : (s.stageCtl r v).Canonical := by
  unfold State.stageCtl
  extract_lets s1 commit id job scope dg key
  have h1 : s1.Canonical := State.canonical_setStage h r _
  clear_value s1
  refine canonical_ite h1 ?_
  split
  next root who _ =>
  extract_lets mine fail
  have hfail (u : State) (hu : u.Canonical) (reason : Nat) : (fail u reason).Canonical := by
    have hset := State.canonical_setStage hu r (fun g => g.show 5 reason id)
    exact canonical_ite (State.canonical_onRoot hset _ _ _ _ _ _) hset
  clear_value fail
  refine canonical_ite (hfail s1 h1 2) (canonical_ite (hfail s1 h1 3) ?_)
  split
  next u x hu =>
  extract_lets k w
  have h2 : w.Canonical := State.canonical_setStage ((State.canonical_checkSet h1 r _ _ _).of_eq hu) r _
  clear_value w
  exact canonical_ite (State.canonical_onRoot h2 _ _ _ _ _ _) (canonical_ite (State.canonical_inject h2 _ _) h2)

theorem State.canonical_takeGo (id : W32) (scope job commit : Nat) (set : Option StageSet) (formed : Bool) :
    (s.takeGo id scope job commit set formed).Canonical := by
  refine canonical_foldl (fun u r hu => ?_) stageSets h
  split
  · exact hu
  · exact canonical_ite (State.canonical_setStage hu r _) hu

theorem State.canonical_takeAbandon (id : W32) (scope job commit : Nat) (set : Option StageSet) :
    (s.takeAbandon id scope job commit set).Canonical := by
  refine canonical_foldl (fun u r hu => ?_) stageSets h
  split
  · exact hu
  · exact canonical_ite (State.canonical_abandonSet hu r _) hu

theorem stageDecisionStep_canonical (id : W32) : (stageDecisionStep id s).Canonical := by
  unfold stageDecisionStep
  split
  · exact h
  next a _ =>
  extract_lets scope job s1 ms got ok formed k s2 s3 s4
  have h1 : s1.Canonical := State.canonical_runToNow h _
  clear_value s1
  have h3 : s3.Canonical := h1
  have h4 : s4.Canonical := canonical_foldl (fun _ _ hu => by exact State.canonical_inject hu _ _) _ h3
  clear_value s4
  exact canonical_ite h (canonical_ite (State.canonical_takeGo h4 _ _ _ _ _ _) (State.canonical_takeAbandon h4 _ _ _ _ _))

/-! ### Application (R412 to R415) -/

theorem State.canonical_releaseJob (job : Nat) : (s.releaseJob job).Canonical := by
  refine canonical_foldl (fun u x hu => ?_) programs h
  exact canonical_ite (State.canonical_releaseStep hu x.1 x.2) hu

theorem State.canonical_trainLink (l : Nat) : (s.trainLink l).Canonical := h

theorem State.canonical_onLink (l : Nat) (f : Link → Link) : (s.onLink l f).Canonical := h

theorem State.canonical_loadPlan (pl : Plan) : (s.loadPlan pl).Canonical := by
  unfold State.loadPlan
  extract_lets old fabric resets s1 s2
  have h1 : s1.Canonical := h
  have h2 : s2.Canonical := canonical_foldl (fun _ l hu => State.canonical_onLink hu l _) _ h1
  clear_value s2
  refine canonical_ite h2 (canonical_foldl (fun u l hu => ?_) _ h2)
  exact canonical_ite hu (canonical_ite (State.canonical_trainLink hu l) (canonical_ite hu (State.canonical_onLink hu l _)))

theorem State.canonical_formSlices (k : StageRun) : (s.formSlices k).Canonical := h

theorem State.canonical_gracePlan (new : Plan) (beat : Nat) : (s.gracePlan new beat).Canonical := h

theorem State.canonical_planLoaded (pl : Plan) (beat : Nat) (reg : W64) :
    (({ s.gracePlan pl beat with fabric := { (s.gracePlan pl beat).fabric with planReg := reg } } : State).loadPlan pl).Canonical :=
  State.canonical_loadPlan (by exact h) pl

theorem State.canonical_applyPkg (k : StageRun) : (s.applyPkg k).Canonical := by
  unfold State.applyPkg
  extract_lets s1 was resets s2
  have h1 : s1.Canonical := by
    unfold s1
    split
    next u hu => exact (State.canonical_readPlan h).of_eq hu
    next u pl hu => exact State.canonical_planLoaded ((State.canonical_readPlan h).of_eq hu) pl _ _
  clear_value s1
  have h2 : s2.Canonical := h1
  exact State.canonical_answerResync (State.canonical_releaseJob (State.canonical_formSlices h2 k) _)

theorem State.canonical_commitDescr (p a : Nat) : (s.commitDescr p a).Canonical := by
  unfold State.commitDescr
  split
  next u hu => exact (State.canonical_readDescr h p a).of_eq hu
  next u act st ust hu =>
  have h1 := (State.canonical_readDescr h p a).of_eq hu
  extract_lets pend cfg ust1 flip ust2 s1
  have h2 : s1.Canonical := canonical_ite (State.canonical_writeAck (by exact h1) _ _ _).canonical h1
  clear_value s1
  exact canonical_ite h1 (State.canonical_writeAck h2 _ _ _).canonical

theorem State.canonical_applyPart (p : Nat) (k : StageRun) : (s.applyPart p k).Canonical := by
  unfold State.applyPart
  extract_lets s1 s2
  have h1 : s1.Canonical := State.canonical_onPart h p _
  clear_value s1
  have h2 : s2.Canonical := by
    unfold s2
    split
    next u hu => exact (State.canonical_readUpdList h1 p _).of_eq hu
    next u as hu => exact canonical_foldl (fun _ a hv => State.canonical_commitDescr hv p a) as ((State.canonical_readUpdList h1 p _).of_eq hu)
  exact State.canonical_formSlices h2 k

theorem State.canonical_setReadable (r : StageSet) : LeavesCanonical (s.setReadable r) := by
  unfold State.setReadable
  split
  · exact ⟨(State.canonical_readPlan h).canonical⟩
  · split
    next u hu => exact ⟨(State.canonical_readUpdList h _ _).of_eq hu⟩
    next u as hu =>
    refine leaves_foldl (fun x a hx => ?_) as ((State.canonical_readUpdList h _ _).of_eq hu)
    exact ⟨(State.canonical_readDescr hx _ a).canonical⟩

theorem stageApplyStep_canonical (r : StageSet) : (stageApplyStep r s).Canonical := by
  unfold stageApplyStep
  split
  · exact h
  next k _ =>
  extract_lets s1
  have h1 : s1.Canonical := State.canonical_runToNow h _
  clear_value s1
  refine canonical_ite h ?_
  split
  next u whole hu =>
  have h2 : u.Canonical := (leaves_ite (State.canonical_setReadable h1 r) ⟨h1⟩).of_eq hu
  refine canonical_ite (State.canonical_abandonSet h2 r _) (canonical_ite (State.canonical_abandonSet h2 r _) ?_)
  extract_lets s2
  have h3 : s2.Canonical := State.canonical_setStage h2 r _
  clear_value s2
  split
  · exact State.canonical_applyPkg h3 k
  · exact State.canonical_applyPart h3 _ k

/-! ### The archive (R484) -/

theorem archiveCopyDoneStep_canonical : (archiveCopyDoneStep s).Canonical := by
  fun_cases archiveCopyDoneStep s with
  | case1 hnone => exact h
  | case2 slot buf hbusy ok u ok' hu =>
    have h1 : u.Canonical := by
      refine LeavesCanonical.of_eq ?_ hu
      exact leaves_ite (State.canonical_writeAck h _ _ _) ⟨h⟩
    exact h1

end Stages

end Sys2Proof.Machine
end

section
/-!
Resets and power keep the memories in canonical form (R467 to R474, R485 to R488): halts and notices, the phases of a partition's and of the
package's reset, the boot with its empty memories, and the samples that can begin one.
-/
namespace Sys2Proof.Machine

/-! ### The mesh (R45 to R48) -/

section Mesh
variable {s : State} (h : s.Canonical)
include h

theorem State.canonical_onEdge (e : Nat) (f : Edge → Edge) : (s.onEdge e f).Canonical := h

theorem State.canonical_replaceLane (e slice : Nat) (dir : Bool) : (s.replaceLane e slice dir).Canonical := by
  unfold State.replaceLane
  extract_lets d
  split
  · exact h
  · exact h

theorem State.canonical_dropSlice (e slice : Nat) : (s.dropSlice e slice).Canonical := by
  unfold State.dropSlice
  extract_lets s1 s2
  have h1 : s1.Canonical := State.canonical_onEdge h e _
  clear_value s1
  have h2 : s2.Canonical := h1
  clear_value s2
  exact canonical_ite h2 h2

theorem State.canonical_mendSlice (e slice : Nat) : (s.mendSlice e slice).Canonical := by
  unfold State.mendSlice
  extract_lets s1
  have h1 : s1.Canonical :=
    canonical_foldl (fun _ d hu => by exact State.canonical_replaceLane (State.canonical_replaceLane hu e slice d) e slice d) _ h
  exact canonical_ite h (canonical_ite (State.canonical_dropSlice h1 e slice) h1)

theorem State.canonical_trainEdge (failed : List Nat) (e : Nat) : (s.trainEdge failed e).Canonical := by
  unfold State.trainEdge
  extract_lets s1
  have h1 : s1.Canonical := canonical_foldl (fun _ k hu => by exact State.canonical_mendSlice hu e k) _ h
  exact State.canonical_onEdge h1 e _

theorem State.canonical_darkEdges (qs : List Nat) : (s.darkEdges qs).Canonical := by
  unfold State.darkEdges
  extract_lets mine es s1
  have h1 : s1.Canonical := canonical_foldl (fun _ e hu => by exact State.canonical_onEdge hu e _) _ h
  exact h1

theorem State.canonical_trainMesh (p : Nat) (failed : List Nat) : (s.trainMesh p failed).Canonical := by
  unfold State.trainMesh
  extract_lets qs s1
  have h1 : s1.Canonical := canonical_foldl (fun _ e hu => by exact State.canonical_trainEdge hu failed e) _ h
  exact h1

theorem State.canonical_trainRing (failed : List Nat) : (s.trainRing failed).Canonical :=
  canonical_foldl (fun _ e hu => by exact State.canonical_trainEdge hu failed e) _ h

theorem State.canonical_domains (ds : List Nat) (on : Bool) : (s.domains ds on).Canonical := h

theorem State.canonical_sampleDies (ds : List Nat) : (s.sampleDies ds).Canonical := h

theorem State.canonical_startLinks (failed : List Nat) : (s.startLinks failed).Canonical := by
  unfold State.startLinks
  extract_lets used s1 s2
  have h1 : s1.Canonical := State.canonical_domains (by exact h) _ true
  have h2 : s2.Canonical := State.canonical_trainRing (State.canonical_sampleDies h1 _) failed
  exact canonical_foldl (fun _ l hu => by exact State.canonical_trainLink hu l) _ h2

/-! ### The catalogue and the wipe (R29 to R37, R57) -/

theorem State.canonical_writeRecords (rs : List Rec) : (s.writeRecords rs).Canonical := by
  unfold State.writeRecords
  split
  · exact h
  · exact canonical_ite h h

theorem State.canonical_bringQuads (qs : List Nat) (auto : Bool) (dies edges : List Nat) : LeavesCanonical (s.bringQuads qs auto dies edges) := by
  unfold State.bringQuads
  extract_lets panel s1
  have h1 : s1.Canonical := h
  clear_value s1
  split
  · exact ⟨State.canonical_event h1 (2 ^ 5)⟩
  · extract_lets f rs promoted s2
    have h2 : s2.Canonical := State.canonical_writeRecords h1 _
    clear_value s2
    split
    · exact ⟨h2⟩
    · exact ⟨h2⟩

theorem State.canonical_wipeQuads (qs : List Nat) : (s.wipeQuads qs).Canonical := by
  unfold State.wipeQuads
  extract_lets m1 m2 keep bankKeep out
  have h1 : m1.wf = true := MemSt.wf_foldl (fun _ q hm => MemSt.wf_wipe _ _ (MemSt.wf_wipe _ _ (MemSt.wf_wipe _ _ hm))) _ h
  clear_value m1
  have h2 : m2.wf = true := MemSt.wf_foldl (fun _ x hm => MemSt.wf_ite (MemSt.wf_beginPass _ _ hm) hm) _ h1
  clear_value m2
  exact MemSt.wf_congr rfl rfl h2

theorem State.canonical_hardRepair (qs : List Nat) : (s.hardRepair qs).Canonical := MemSt.wf_congr rfl rfl h

end Mesh

/-! ### Partition resets (R467 to R474) -/

section Partitions
variable {s : State} (h : s.Canonical)
include h

theorem State.canonical_onLast (qs : List Nat) (f : ResetLast → ResetLast) : (s.onLast qs f).Canonical := h

theorem State.canonical_countBeyond : s.countBeyond.Canonical := h

theorem State.canonical_sendMemberDown (mask cause : Nat) : (s.sendMemberDown mask cause).Canonical :=
  canonical_foldl (fun _ j hu => by exact State.canonical_notify hu _ _) _ h

theorem State.canonical_payAborted (p : Nat) : (s.payAborted p).Canonical := by
  unfold State.payAborted
  extract_lets owed s1
  have h1 : s1.Canonical := canonical_foldl (fun _ r hu => by exact State.canonical_putRecord hu p _ _) _ h
  exact canonical_ite h (State.canonical_onPart h1 p _)

theorem State.canonical_settleCap : s.settleCap.Canonical := h

theorem State.canonical_haltPart (p cause : Nat) : (s.haltPart p cause).Canonical := by
  unfold State.haltPart
  extract_lets owed s1 s2
  have h1 : s1.Canonical := State.canonical_sendMemberDown h _ cause
  clear_value s1
  have h2 : s2.Canonical := by
    unfold s2
    split
    · exact State.canonical_abandonSet h1 _ 6
    · exact h1
  exact State.canonical_settleCap (State.canonical_onPart h2 p _)

theorem State.canonical_failResync (p : Nat) : (s.failResync p).Canonical := canonical_ite h h

theorem State.canonical_startPart (q cause : Nat) : (s.startPart q cause).Canonical := by
  unfold State.startPart
  extract_lets p qs s1 r s2 s3
  have h1 : s1.Canonical := canonical_ite h (State.canonical_countBeyond h)
  clear_value s1
  have h2 : s2.Canonical := State.canonical_failResync (State.canonical_haltPart h1 p cause) p
  clear_value s2
  have h3 : s3.Canonical := State.canonical_onLast h2 qs _
  exact canonical_ite h h3

theorem State.canonical_discard (p : Nat) : (s.discard p).Canonical := by
  unfold State.discard
  extract_lets qs mine s1 s2 jobs mem panel red fabric stw s3
  have h1 : s1.Canonical := State.canonical_onPart (State.canonical_darkEdges h qs) p _
  clear_value s1
  have h2 : s2.Canonical := canonical_foldl (fun _ k hu => by exact State.canonical_onHub hu k _) _ h1
  clear_value s2
  have h3 : s3.Canonical := MemSt.wf_congr rfl rfl h2
  exact State.canonical_domains h3 _ false

theorem State.canonical_nextPhase (p n : Nat) (r : PartReset) : (s.nextPhase p r n).Canonical := h

theorem State.canonical_closeArchive (r : PartReset) (qs : List Nat) (pkg : Bool) (n : Nat) : (s.closeArchive r qs pkg n).Canonical :=
  canonical_ite h h

theorem State.canonical_settleDomains (qs : List Nat) : (s.settleDomains qs).Canonical := h

theorem State.canonical_sampleStraps (qs : List Nat) : (s.sampleStraps qs).Canonical := h

theorem State.canonical_finishPart (p : Nat) (r : PartReset) : (s.finishPart p r).Canonical := State.canonical_payAborted (by exact h) p

theorem State.canonical_endPartPhase (p : Nat) (r : PartReset) (o : PhaseObs) : (s.endPartPhase p r o).Canonical := by
  unfold State.endPartPhase
  extract_lets qs u u3
  have hu : u.Canonical := State.canonical_runTo h _
  clear_value u
  split
  · exact State.canonical_nextPhase hu p 2 r
  · exact State.canonical_nextPhase (State.canonical_discard (State.canonical_closeArchive hu r qs false _) p) p 3 _
  · exact State.canonical_nextPhase (State.canonical_sampleStraps (State.canonical_domains hu _ true) qs) p 4 r
  · exact State.canonical_nextPhase hu p 5 _
  · refine canonical_ite hu ?_
    split
    next v promoted hv =>
    have h1 := (State.canonical_bringQuads hu _ _ _ _).of_eq hv
    exact State.canonical_nextPhase (State.canonical_onLast (State.canonical_settleDomains h1 qs) promoted _) p 6 r
  · exact State.canonical_nextPhase (State.canonical_hardRepair hu qs) p 7 r
  · exact State.canonical_nextPhase (State.canonical_trainMesh hu p _) p 8 r
  · exact State.canonical_nextPhase (State.canonical_wipeQuads hu qs) p 9 r
  · exact State.canonical_finishPart hu p r

theorem partPhaseStep_canonical (q : Nat) (o : PhaseObs) : (partPhaseStep q o s).Canonical := by
  unfold partPhaseStep
  split
  · exact h
  · exact State.canonical_endPartPhase h q _ o

end Partitions

/-! ### Package resets and power (R485 to R488) -/

section Package
variable {s : State} (h : s.Canonical)
include h

theorem State.canonical_startPkg (cause : Nat) : (s.startPkg cause).Canonical := by
  unfold State.startPkg
  extract_lets running early dump units r s1 s2 s3
  have h1 : s1.Canonical := canonical_ite h (State.canonical_countBeyond h)
  clear_value s1
  have h2 : s2.Canonical := canonical_foldl (fun _ p hu => canonical_ite hu (State.canonical_haltPart hu p cause)) _ h1
  clear_value s2
  have h3 : s3.Canonical := State.canonical_onLast (State.canonical_abandonSet h2 .pkg 6) _ _
  clear_value s3
  exact canonical_ite h h3

theorem State.canonical_powerDown : s.powerDown.Canonical := by
  unfold State.powerDown
  extract_lets s1
  have h1 : s1.Canonical := canonical_foldl (fun _ p hu => State.canonical_discard hu p) _ h
  clear_value s1
  exact h1

theorem State.canonical_bringAll (o : PhaseObs) : (s.bringAll o).Canonical := by
  unfold State.bringAll
  extract_lets dies edges s1 s2 s3 s4 s5
  have h1 : s1.Canonical := State.canonical_sampleStraps h _
  clear_value s1
  have h2 : s2.Canonical := by
    refine canonical_foldl (fun u p hu => ?_) _ h1
    split
    next v promoted hv => exact State.canonical_onLast ((State.canonical_bringQuads hu _ _ _ _).of_eq hv) promoted _
  clear_value s2
  have h3 : s3.Canonical := State.canonical_hardRepair (State.canonical_settleDomains h2 _) _
  clear_value s3
  have h4 : s4.Canonical := canonical_foldl (fun _ p hu => State.canonical_trainMesh hu p edges) _ h3
  clear_value s4
  have h5 : s5.Canonical := State.canonical_wipeQuads h4 _
  clear_value s5
  exact h5

theorem State.canonical_nextPkgPhase (n : Nat) : (s.nextPkgPhase n).Canonical := h

end Package

/-- The memories of a boot are empty. -/
theorem State.canonical_boot (s : State) : s.boot.Canonical := by
  have hempty : ({ repair := s.mem.repair, hard := s.mem.hard, scrubBase := (List.range 4).foldl (fun t q => sset 0 t q s.time.ticks) [] }
      : MemSt).wf = true := rfl
  exact hempty

/-- So are those of a package without power. -/
theorem State.canonical_unpowered (s : State) : s.unpowered.Canonical := rfl

section Power
variable {s : State} (h : s.Canonical)
include h

theorem State.canonical_endPkgPhase (r : PartReset) (o : PhaseObs) : (s.endPkgPhase r o).Canonical := by
  unfold State.endPkgPhase
  extract_lets u u1
  have hu : u.Canonical := State.canonical_runTo h _
  clear_value u
  refine canonical_ite hu ?_
  split
  · exact hu
  · exact State.canonical_nextPkgPhase (State.canonical_powerDown (State.canonical_closeArchive hu r _ true _)) 3
  · exact State.canonical_nextPkgPhase u.canonical_boot 4
  · exact canonical_ite hu (State.canonical_nextPkgPhase (State.canonical_startLinks hu _) 5)
  · exact State.canonical_nextPkgPhase (State.canonical_domains hu _ true) 6
  · exact State.canonical_nextPkgPhase (State.canonical_bringAll hu o) 7
  · exact hu

theorem pkgPhaseStep_canonical (o : PhaseObs) : (pkgPhaseStep o s).Canonical := by
  unfold pkgPhaseStep
  split
  · exact h
  · exact State.canonical_endPkgPhase h _ o

theorem archiveTimeoutStep_canonical (pkg : Bool) (q before : Nat) (scanOk : Bool) : (archiveTimeoutStep pkg q before scanOk s).Canonical := by
  unfold archiveTimeoutStep
  refine canonical_ite ?_ ?_
  · split
    · exact canonical_ite h h
    · exact h
  · split
    · exact canonical_ite h h
    · exact h

theorem State.canonical_resetCtl (v : W64) : (s.resetCtl v).Canonical :=
  canonical_ite h (canonical_ite (State.canonical_startPkg h 1) (canonical_ite (State.canonical_startPart h _ 1) h))

theorem State.canonical_onPower (f : PowerSt → PowerSt) : (s.onPower f).Canonical := h

theorem State.canonical_powerLoss : s.powerLoss.Canonical := by
  unfold State.powerLoss
  extract_lets now r s1
  have h1 : s1.Canonical := State.canonical_powerDown h
  clear_value s1
  exact canonical_ite h h1

theorem powerOnStep_canonical : (powerOnStep s).Canonical := by
  unfold powerOnStep
  exact canonical_ite h (State.canonical_boot _)

theorem State.canonical_trouble (flag : Nat) : (s.trouble flag).Canonical := State.canonical_startPkg (State.canonical_onPower h _) 5

theorem vinSampleStep_canonical (a b : Nat) : (vinSampleStep a b s).Canonical := by
  unfold vinSampleStep
  extract_lets v s1 p s2
  have h1 : s1.Canonical := State.canonical_onPower h _
  have h2 : s2.Canonical := State.canonical_onPower h1 _
  clear_value s1 s2
  exact canonical_ite h1 (canonical_ite (State.canonical_powerLoss h2) (canonical_ite (State.canonical_onPower (State.canonical_trouble h2 45) _)
    (canonical_ite (State.canonical_trouble h2 44) h2)))

theorem pkgResetPinStep_canonical : (pkgResetPinStep s).Canonical := State.canonical_startPkg (State.canonical_onPower h _) 0

theorem pkgResetReleaseStep_canonical : (pkgResetReleaseStep s).Canonical := State.canonical_onPower h _

theorem thermalSampleStep_canonical (e : EnvSample) : (thermalSampleStep e s).Canonical := by
  unfold thermalSampleStep
  extract_lets s1
  have h1 : s1.Canonical := State.canonical_onPower h _
  clear_value s1
  exact canonical_ite h (canonical_ite (State.canonical_startPkg (State.canonical_onPower h1 _) 5)
    (canonical_ite (State.canonical_onPower h1 _) h1))

end Power

end Sys2Proof.Machine
end

section
/-!
Packets that land keep the memories in canonical form (R287, R288, R335), and so do the messages of staged commit (R349), the loss of links
and members (R292, R472 to R475) and the return of a member with its copy of state (R378, R476 to R479).
-/
namespace Sys2Proof.Machine

/-! ### Arrival -/

section Arrivals
variable {s : State} (h : s.Canonical)
include h

theorem State.canonical_replayed (l : Nat) : (s.replayed l).Canonical := State.canonical_onLink h l _

theorem State.canonical_portGranted (l : Nat) (p : Packet) : (s.portGranted l p).Canonical := canonical_ite (MemSt.wf_grant _ h) h

theorem State.canonical_drop (k : Nat) (d : Drop) : (s.drop k d).Canonical := canonical_of_mem (State.drop_mem s k d) h

theorem State.canonical_transmit (l : Nat) (p : Packet) : (s.transmit l p).Canonical := canonical_of_mem (State.transmit_mem s l p) h

theorem State.canonical_arrive {f : State → State} (hf : ∀ u : State, u.Canonical → (f u).Canonical) (a : Arrival) : (s.arrive a f).Canonical := by
  unfold State.arrive
  extract_lets l s1 s2 s3 sent s4
  have h1 : s1.Canonical := State.canonical_onLink h l _
  clear_value s1
  have h2 : s2.Canonical := (s1.linkWork_ackLink l _).canonical h1
  clear_value s2
  have h3 : s3.Canonical := State.canonical_portGranted (State.canonical_onLink h2 l _) l _
  clear_value s3
  have h4 : s4.Canonical := hf s3 h3
  clear_value s4
  exact canonical_ite h (canonical_ite (State.canonical_replayed h1 l) (canonical_ite h2 (canonical_ite h3
    (canonical_ite (State.canonical_transmit h4 l _) h4))))

theorem State.canonical_deliver {f : State → State} (hf : (f s).Canonical) (l : Nat) (p : Packet) : (s.deliver l p f).Canonical := by
  unfold State.deliver
  extract_lets k
  split
  · exact State.canonical_drop h k _
  · split
    · exact State.canonical_drop h k .other
    · exact canonical_ite (State.canonical_sendOn h _ k _ _) (State.canonical_drop h k .other)
    · exact canonical_ite hf (canonical_ite hf (State.canonical_drop h k .land))

theorem State.canonical_receive {f : State → State} (hf : ∀ u : State, u.Canonical → (f u).Canonical) (a : Arrival) :
    (s.receive a f).Canonical :=
  canonical_ite h (State.canonical_arrive h (fun u hu => State.canonical_deliver hu (hf u hu) _ _) a)

end Arrivals

/-! ### Reads of other packages and their answers (R309, R335) -/

theorem State.canonical_answerRead {s : State} (h : s.Canonical) (p : Packet) (xs : List (Addr × Nat)) : (s.answerRead p xs).Canonical := by
  induction xs generalizing s with
  | nil => exact h
  | cons x t ih =>
    unfold State.answerRead
    extract_lets job
    split
    next u r hu =>
    have h1 := (State.canonical_hubRead h _ _ _).of_eq hu
    extract_lets rsp
    split
    · exact State.canonical_inject h1 _ _
    · exact ih (State.canonical_inject h1 _ _)

section Packets
variable {s : State} (h : s.Canonical)
include h

theorem State.canonical_landReadReq (p : Packet) : (s.landReadReq p).Canonical := State.canonical_answerRead h p _

theorem State.canonical_refuseRead (l : Nat) (p : Packet) : (s.refuseRead l p).Canonical := canonical_ite (State.canonical_inject h _ _) h

theorem readReqStep_canonical (a : Arrival) : (readReqStep a s).Canonical :=
  canonical_ite h (State.canonical_arrive h
    (fun _ hu => State.canonical_refuseRead (State.canonical_deliver hu (State.canonical_landReadReq hu a.pkt) _ a.pkt) _ a.pkt) a)

theorem State.canonical_landReadRsp (k : Nat) (p : Packet) : (s.landReadRsp k p).Canonical := by
  unfold State.landReadRsp
  extract_lets bs a c done
  have hdone (u : State) (hu : u.Canonical) (x : HubCmd) (n : Nat) (ok : Bool) : (done u x n ok).Canonical := State.canonical_onCl hu c _
  clear_value done
  split
  next x _ =>
    refine canonical_ite (hdone s h _ _ _) ?_
    split
    next u ok hu =>
    have h1 := (State.canonical_hubWrite h _ _ _ _).of_eq hu
    exact hdone _ (canonical_ite h1 (State.canonical_drop h1 k .land)) _ _ _
  next =>
    refine canonical_ite (canonical_ite h ?_) h
    split
    next u ok hu =>
    have h1 := (State.canonical_hubWrite h _ _ _ _).of_eq hu
    extract_lets v
    have h2 : v.Canonical := canonical_ite h1 (State.canonical_drop h1 k .land)
    exact h2

theorem State.canonical_landSignal (p : Packet) : (s.landSignal p).Canonical := State.canonical_onHub h _ _

theorem remoteSignalStep_canonical (a : Arrival) : (remoteSignalStep a s).Canonical :=
  canonical_ite h (State.canonical_receive h (fun _ hu => State.canonical_landSignal hu a.pkt) a)

theorem reductionStep_canonical (a : Arrival) : (reductionStep a s).Canonical :=
  State.canonical_receive h (fun _ hu => State.canonical_afterHub (State.canonical_redLand hu _ a.pkt _)) a

/-! ### Messages of staged commit (R349) -/

theorem State.canonical_takeReport (src : Nat) (m : List Byte) : (s.takeReport src m).Canonical :=
  canonical_ite h (State.canonical_onRoot h _ _ _ _ _ _)

theorem stageReportStep_canonical (a : Arrival) : (stageReportStep a s).Canonical :=
  State.canonical_receive h (fun _ hu => State.canonical_takeReport hu _ _) a

theorem stageGoStep_canonical (a : Arrival) : (stageGoStep a s).Canonical :=
  State.canonical_receive h (fun _ hu => canonical_ite (State.canonical_takeGo hu _ _ _ _ _ _) hu) a

theorem stageAbandonStep_canonical (a : Arrival) : (stageAbandonStep a s).Canonical :=
  State.canonical_receive h (fun _ hu => canonical_ite (State.canonical_takeAbandon hu _ _ _ _ _) hu) a

/-! ### Loss of links and members (R292, R472 to R475) -/

theorem State.canonical_endResync : s.endResync.Canonical := h

theorem State.canonical_peerDown : s.peerDown.Canonical := h

theorem State.canonical_takeNotice (j member : Nat) : (s.takeNotice j member).Canonical := by
  unfold State.takeNotice
  extract_lets single fabric resets s1 s2
  have h1 : s1.Canonical := h
  clear_value s1
  have h2 : s2.Canonical := canonical_ite (State.canonical_endResync h1) h1
  clear_value s2
  exact canonical_ite h (State.canonical_afterHub (State.canonical_peerDown (State.canonical_failNoticed h2 j)))

theorem memberDownStep_canonical (a : Arrival) : (memberDownStep a s).Canonical :=
  State.canonical_receive h (fun _ hu => State.canonical_takeNotice hu _ _) a

theorem memberDownProxyStep_canonical (a : Arrival) : (memberDownProxyStep a s).Canonical := by
  refine State.canonical_receive h (fun u hu => canonical_ite ?_ (State.canonical_takeNotice hu _ _)) a
  cases u.jobPart (nJob a.pkt.payload) with
  | none => exact hu
  | some p => exact canonical_ite (State.canonical_startPart hu p 6) hu

theorem State.canonical_countNotices (n : Nat) : (s.countNotices n).Canonical := h

theorem State.canonical_proxyFor (n : Nat) : (s.proxyFor n).Canonical := by
  refine canonical_foldl (fun u j hu => ?_) _ h
  exact State.canonical_takeNotice (State.canonical_countNotices (State.canonical_notify hu _ _) _) j n

theorem State.canonical_loseLink (l : Nat) (last : BitVec 12) : (s.loseLink l last).Canonical := by
  unfold State.loseLink
  extract_lets port s1 held s2 resets s3 s4
  have h1 : s1.Canonical := (s.linkWork_acked l last).canonical h
  clear_value s1
  have h2 : s2.Canonical := State.canonical_onLink h1 l _
  clear_value s2
  have h3 : s3.Canonical := h2
  have h4 : s4.Canonical := State.canonical_onLink h3 l _
  clear_value s4
  refine canonical_ite h2 ((State.linkWork_release _).canonical ?_)
  exact canonical_foldl (fun u p hu => (u.linkWork_resend port p).canonical hu) _ h4

theorem linkDownStep_canonical (l : Nat) (last : BitVec 12) : (linkDownStep l last s).Canonical := by
  unfold linkDownStep
  extract_lets k n s1
  have h1 : s1.Canonical := State.canonical_loseLink h l last
  clear_value s1
  exact canonical_ite h (canonical_ite (State.canonical_proxyFor h1 n) h1)

/-! ### The return of a member (R476 to R479) -/

theorem State.canonical_onSrec (p prog : Nat) (f : StepRec → StepRec) : (s.onSrec p prog f).Canonical := h

theorem State.canonical_releaseAtBeat (j b : Nat) : (s.releaseAtBeat j b).Canonical := by
  refine canonical_foldl (fun u x hu => ?_) programs h
  exact canonical_ite (State.canonical_onSrec hu x.1 x.2 _) hu

theorem State.canonical_takeMemberUp (j member b : Nat) : (s.takeMemberUp j member b).Canonical := State.canonical_releaseAtBeat (by exact h) j b

theorem memberUpStep_canonical (a : Arrival) : (memberUpStep a s).Canonical :=
  State.canonical_receive h (fun _ hu => canonical_ite (State.canonical_takeMemberUp hu _ _ _) hu) a

theorem rejoinReleaseStep_canonical (j : Nat) : (rejoinReleaseStep j s).Canonical := by
  refine canonical_ite h (canonical_foldl (fun u x hu => ?_) _ h)
  refine State.canonical_releaseStep (State.canonical_onSrec ?_ x.1 x.2.1 _) x.1 x.2.1
  exact State.canonical_runToNow hu _

theorem State.canonical_tellTwin (sub j : Nat) : (s.tellTwin sub j).Canonical := by
  unfold State.tellTwin
  split
  · exact h
  · exact State.canonical_notify h _ _

theorem State.canonical_resyncCtl (v : W64) : (s.resyncCtl v).Canonical := by
  unfold State.resyncCtl
  extract_lets r1 s1 r2 s2 j r3 s3
  have h1 : s1.Canonical := h
  have h2 : s2.Canonical := h1
  have h3 : s3.Canonical := h2
  refine canonical_ite h1 (canonical_ite h2 ?_)
  split
  · exact State.canonical_endResync h3
  · exact canonical_ite (State.canonical_endResync h3) (State.canonical_tellTwin h3 _ j)

theorem resyncReqStep_canonical (a : Arrival) : (resyncReqStep a s).Canonical :=
  State.canonical_receive h (fun _ hu => State.canonical_answerResync (by exact hu)) a

theorem State.canonical_resyncRanges (p : Nat) : LeavesCanonical (s.resyncRanges p) := by
  unfold State.resyncRanges
  extract_lets base n
  refine leaves_ite ⟨h⟩ (leaves_ite ⟨h⟩ ?_)
  split
  next u hu => exact ⟨(State.canonical_read h _ _).of_eq hu⟩
  next u bs hu => exact ⟨(State.canonical_read h _ _).of_eq hu⟩

theorem State.canonical_takeReady (j src : Nat) (step : W64) (lexp : BitVec 8) : (s.takeReady j src step lexp).Canonical := by
  unfold State.takeReady
  refine canonical_ite h ?_
  split
  · exact State.canonical_endResync h
  next p _ =>
  split
  next u hu => exact State.canonical_endResync ((State.canonical_resyncRanges h p).of_eq hu)
  next u rs hu =>
  have h1 : u.Canonical := (State.canonical_resyncRanges h p).of_eq hu
  exact State.canonical_injectAll (by exact h1) _ _

theorem resyncReadyStep_canonical (a : Arrival) : (resyncReadyStep a s).Canonical :=
  State.canonical_receive h (fun _ hu => State.canonical_takeReady hu _ _ _ _) a

theorem State.canonical_adoptLoss (p k b : Nat) (lexp : BitVec 8) : (s.adoptLoss p k b lexp).Canonical :=
  canonical_ite h (State.canonical_onPart h p _)

theorem resyncCopyDoneStep_canonical : (resyncCopyDoneStep s).Canonical := by
  unfold resyncCopyDoneStep
  split
  · exact State.canonical_adoptLoss (State.canonical_sendMemberUp (State.canonical_tellTwin (by exact h) _ _) _ _ _) _ _ _ _
  · exact h

theorem resyncDoneStep_canonical (a : Arrival) : (resyncDoneStep a s).Canonical := State.canonical_receive h (fun _ hu => by exact hu) a

end Packets

end Sys2Proof.Machine
end

section
/-!
Registers and processors keep the memories in canonical form: writes of registers and accesses to memory (R435, R440, R441, R448), the
steward's operations (R445 to R461), and the loss and the return of a processor (R434 to R437).
-/
namespace Sys2Proof.Machine

/-! ### The steward's registers -/

theorem MemSt.wf_errlog {m : MemSt} (log : Sparse W64) (hm : m.wf = true) : ({ m with errlog := log } : MemSt).wf = true := hm

theorem MemSt.wf_scrubCfg {m : MemSt} (cfg : Sparse (BitVec 32)) (hm : m.wf = true) : ({ m with scrubCfg := cfg } : MemSt).wf = true := hm

section Steward
variable {s : State} (h : s.Canonical)
include h

theorem State.canonical_onStw (f : StewardSt → StewardSt) : (s.onStw f).Canonical := h

theorem State.canonical_respond (r : HostResp) : (s.respond r).Canonical := h

theorem State.canonical_holdAccess (r : HostReq) : (s.holdAccess r).Canonical := h

theorem State.canonical_hostIfWrite (v : W64) : (s.hostIfWrite v).Canonical := canonical_ite h (State.canonical_onStw h _)

theorem State.canonical_acceptWrite (i : Nat) (v : W64) : (s.acceptWrite i v).Canonical := by
  unfold State.acceptWrite
  extract_lets s1
  have h1 : s1.Canonical := State.canonical_onStw h _
  exact canonical_ite h (canonical_ite (State.canonical_onStw h1 _) h1)

theorem State.canonical_memcfgWrite (v : W32) : (s.memcfgWrite v).Canonical :=
  canonical_ite (State.canonical_hostError h 5 _) (State.canonical_onStw h _)

theorem State.canonical_svnCommit (v : W64) : (s.svnCommit v).Canonical := canonical_ite h (State.canonical_onStw h _)

theorem svnDoneStep_canonical : (svnDoneStep s).Canonical := by
  unfold svnDoneStep
  split
  · exact h
  · exact canonical_ite h (State.canonical_onStw h _)

theorem State.canonical_attestStart (op : BitVec 2) : (s.attestStart op).Canonical := canonical_ite h (State.canonical_onStw h _)

theorem State.canonical_attestCtlWrite (v : W64) : (s.attestCtlWrite v).Canonical := by
  unfold State.attestCtlWrite
  extract_lets s1
  have h1 : s1.Canonical := State.canonical_onStw h _
  exact canonical_ite h1 (State.canonical_attestStart (State.canonical_onStw h1 _) _)

theorem State.canonical_attestOut (buf : Nat) (bs : List Byte) : LeavesCanonical (s.attestOut buf bs) :=
  leaves_ite (State.canonical_writeAck h ownerHost buf bs) ⟨h⟩

theorem State.canonical_attestRun (op : BitVec 2) (nonce : BitVec 384) (buf time : Nat) : LeavesCanonical (s.attestRun op nonce buf time) := by
  unfold State.attestRun
  exact leaves_ite ⟨h⟩ (leaves_ite (leaves_ite (State.canonical_attestOut h _ _) ⟨h⟩) (leaves_ite ⟨State.canonical_onStw h _⟩
    (leaves_ite (State.canonical_attestOut h _ _) ⟨h⟩)))

theorem attestDoneStep_canonical : (attestDoneStep s).Canonical := by
  unfold attestDoneStep
  split
  · exact h
  · refine canonical_ite h ?_
    split
    next u ok hu => exact State.canonical_onStw ((State.canonical_attestRun h _ _ _ _).of_eq hu) _

theorem State.canonical_lifecycleWrite (v : W64) : (s.lifecycleWrite v).Canonical := by
  unfold State.lifecycleWrite
  extract_lets dest s1 r s2
  have h1 : s1.Canonical := State.canonical_onStw h _
  have h2 : s2.Canonical := State.canonical_onStw h1 _
  exact canonical_ite h (canonical_ite h1 (canonical_ite (State.canonical_startPkg (State.canonical_onStw h2 _) 4) h2))

theorem ucieDownStep_canonical (m : Nat) : (ucieDownStep m s).Canonical :=
  canonical_ite h (State.canonical_event (State.canonical_countBeyond (State.canonical_onStw h _)) (2 ^ 6))

/-! ### Pages and blocks -/

theorem State.canonical_archiveCtlWrite (v : W64) : (s.archiveCtlWrite v).Canonical := h

theorem State.canonical_ringConfig (p : Nat) (cq : Bool) (v : W64) : (s.ringConfig p cq v).Canonical := State.canonical_onPart h p _

theorem State.canonical_powerCap (v : W64) : (s.powerCap v).Canonical := h

theorem State.canonical_timeSet (v : W64) : (s.timeSet v).Canonical := canonical_ite h h

theorem State.canonical_putPage4 (a : Addr) (v : W32) : (s.putPage4 a v).Canonical := by
  unfold State.putPage4
  exact canonical_ite (canonical_ite h (canonical_ite (State.canonical_memcfgWrite h v) h)) (canonical_ite (State.canonical_onPart h _ _)
    (canonical_ite (State.canonical_onPart h _ _) (canonical_ite (State.canonical_onPart h _ _) h)))

theorem State.canonical_putNeg (o : Nat) (v : W64) : (s.putNeg o v).Canonical :=
  canonical_ite (State.canonical_hostIfWrite h v) (canonical_ite (State.canonical_acceptWrite h _ v)
    (canonical_ite (State.canonical_lifecycleWrite h v) h))

theorem State.canonical_putPkg (o : Nat) (v : W64) : (s.putPkg o v).Canonical := by
  have hstw (f : StewardSt → StewardSt) : (s.onStw f).Canonical := State.canonical_onStw h f
  unfold State.putPkg
  exact canonical_ite h (canonical_ite (State.canonical_timeSet h v) (canonical_ite (State.canonical_powerCap h v) (canonical_ite (hstw _)
    (canonical_ite (hstw _) (canonical_ite (State.canonical_attestCtlWrite h v) (canonical_ite (hstw _) (canonical_ite (hstw _)
      (canonical_ite (State.canonical_svnCommit h v) (canonical_ite h (canonical_ite (State.canonical_stageCtl h .pkg v)
        (canonical_ite (State.canonical_setStage h .pkg _) h)))))))))))

theorem State.canonical_putPart (p o : Nat) (v : W64) : (s.putPart p o v).Canonical := by
  have hpart (f : Part → Part) : (s.onPart p f).Canonical := State.canonical_onPart h p f
  unfold State.putPart
  exact canonical_ite (State.canonical_ringConfig h p false v) (canonical_ite (State.canonical_ringConfig h p true v) (canonical_ite (hpart _)
    (canonical_ite (State.canonical_stageCtl h _ v) (canonical_ite (State.canonical_setStage h _ _) (canonical_ite (hpart _)
      (canonical_ite (hpart _) (canonical_ite (State.canonical_onSrec h p _ _) h)))))))

theorem State.canonical_putRst (o : Nat) (v : W64) : (s.putRst o v).Canonical := by
  unfold State.putRst
  exact canonical_ite (State.canonical_resetCtl h v) (canonical_ite (State.canonical_archiveCtlWrite h v) (canonical_ite h
    (canonical_ite (State.canonical_resyncCtl h v) (canonical_ite h (canonical_ite h (canonical_ite h (canonical_ite h h)))))))

theorem State.canonical_putTile (c o : Nat) (v : W64) : (s.putTile c o v).Canonical := by
  refine canonical_ite (State.canonical_onMem h fun m hm => ?_) h
  exact MemSt.wf_errlog _ hm

theorem State.canonical_putHub (k o : Nat) (v : W64) : (s.putHub k o v).Canonical := by
  refine canonical_ite (State.canonical_onMem h fun m hm => ?_) (canonical_ite (State.canonical_onHub h k _)
    (canonical_ite (State.canonical_onHub h k _) h))
  exact MemSt.wf_errlog _ hm

theorem State.canonical_putTile4 (c o : Nat) (v : W32) : (s.putTile4 c o v).Canonical := canonical_ite (State.canonical_hostClaspAdd h c _ _) h

theorem State.canonical_putHub4 (k o : Nat) (v : W32) : (s.putHub4 k o v).Canonical := by
  refine canonical_ite (State.canonical_onMem h fun m hm => ?_) (canonical_ite (State.canonical_onHub h k _) h)
  exact MemSt.wf_scrubCfg _ hm

theorem State.canonical_put8 (a : Addr) (v : W64) : (s.put8 a v).Canonical := by
  unfold State.put8
  exact canonical_ite (State.canonical_putTile h _ _ v) (canonical_ite (State.canonical_putHub h _ _ v) (canonical_ite h
    (canonical_ite (State.canonical_putNeg h _ v) (canonical_ite (State.canonical_putPkg h _ v) (canonical_ite
      (State.canonical_putPart h _ _ v) (State.canonical_putRst h _ v))))))

theorem State.canonical_put4 (a : Addr) (v : W32) : (s.put4 a v).Canonical := by
  unfold State.put4
  exact canonical_ite (State.canonical_putTile4 h _ _ v) (canonical_ite (State.canonical_putHub4 h _ _ v) (canonical_ite h
    (State.canonical_putPage4 h a v)))

theorem State.canonical_keepLow (a : Addr) (v : Option W32) : (s.keepLow a v).Canonical := h

theorem State.canonical_putReg (r : HostReq) : (s.putReg r).Canonical := by
  unfold State.putReg
  extract_lets v base lo
  have hlow (x : Option W32) : (s.keepLow base x).Canonical := State.canonical_keepLow h base x
  exact canonical_ite (canonical_ite (State.canonical_put4 (State.canonical_put4 h _ _) _ _) (State.canonical_put4 h _ _))
    (canonical_ite (State.canonical_put8 (hlow none) _ _) (canonical_ite (hlow _) (State.canonical_put8 (hlow none) _ _)))

/-! ### Accesses (R435, R440, R441) -/

theorem State.canonical_serveReg (r : HostReq) : (s.serveReg r).Canonical :=
  canonical_ite (State.canonical_respond (State.canonical_putReg h r) _) (State.canonical_respond h _)

theorem State.canonical_refused (kind : Nat) (a : Addr) (r : HostResp) : ((s.hostError kind a).respond r).Canonical :=
  State.canonical_respond (State.canonical_hostError h kind a) r

theorem State.canonical_refuseAccess (r : HostReq) : (s.refuseAccess r).Canonical := State.canonical_refused h 0 r.addr _

theorem State.canonical_blockAccess (r : HostReq) (mapped : Bool) : (s.blockAccess r mapped).Canonical :=
  canonical_ite (State.canonical_refuseAccess h r) (canonical_ite (State.canonical_refused h 5 r.addr _) (State.canonical_serveReg h r))

theorem State.canonical_badBlock (r : HostReq) : (s.badBlock r).Canonical := by
  unfold State.badBlock
  cases r.agent with
  | load => exact State.canonical_refused h 1 r.addr _
  | fetch => exact State.canonical_refused h 1 r.addr _
  | store => exact State.canonical_refused h 2 r.addr _
  | pcieRead => exact State.canonical_refused h 3 r.addr _
  | pcieWrite => exact State.canonical_refused h 4 r.addr _

theorem State.canonical_memAccess (r : HostReq) : (s.memAccess r).Canonical := by
  unfold State.memAccess
  extract_lets s1
  have h1 : s1.Canonical := State.canonical_onMem h fun _ hm => MemSt.wf_grant _ hm
  clear_value s1
  refine canonical_ite (State.canonical_refuseAccess h r) (canonical_ite h (canonical_ite ?_ ?_))
  · split
    next u ok hu =>
    have h2 := (State.canonical_writeAck h1 _ _ _).of_eq hu
    exact canonical_ite (State.canonical_respond h2 _) (State.canonical_badBlock h2 r)
  · split
    next u bs hu => exact State.canonical_respond ((State.canonical_read h1 _ _).of_eq hu) _
    next u hu => exact State.canonical_badBlock ((State.canonical_read h1 _ _).of_eq hu) r

theorem State.canonical_gated {f : State → State} (hf : (f s).Canonical) (p : Option Proc) (r : HostReq) : (s.gated p r f).Canonical := by
  unfold State.gated
  extract_lets rom
  refine canonical_ite h (canonical_ite (State.canonical_refused h 0 r.addr _) (canonical_ite (State.canonical_refused h 5 r.addr _)
    (canonical_ite (State.canonical_respond h _) ?_)))
  split
  · exact hf
  · split
    · exact State.canonical_refused h 5 r.addr _
    · exact State.canonical_holdAccess h r
    · exact canonical_ite (State.canonical_holdAccess h r) hf

theorem State.canonical_writeRow {f : State → State} (hf : (f s).Canonical) (p : Option Proc) (a : Addr) (size : Nat) (v : W64) :
    (s.writeRow p a size v f).Canonical :=
  State.canonical_gated (f := fun s => (f s).respond (.done 0)) h (State.canonical_respond hf _) p _

theorem State.canonical_access (r : HostReq) : (s.access r).Canonical := by
  have hrefuse := State.canonical_refuseAccess h r
  have hblock := State.canonical_blockAccess h r
  unfold State.access
  extract_lets a other
  exact canonical_ite h (canonical_ite (State.canonical_respond h _) (canonical_ite (canonical_ite (State.canonical_respond h _) hrefuse)
    (canonical_ite (State.canonical_memAccess h r) (canonical_ite (hblock _) (canonical_ite (hblock _) (canonical_ite (hblock _)
      (canonical_ite (State.canonical_gated h (State.canonical_serveReg h r) _ r) hrefuse)))))))

theorem State.canonical_serveHeld : s.serveHeld.Canonical :=
  canonical_foldl (fun _ r hu => State.canonical_access hu r) s.host.held (s := { s with host := { s.host with held := [] } }) h

/-! ### Processors (R434 to R437) -/

theorem State.canonical_onProc (p : Proc) (f : FwProc → FwProc) : (s.onProc p f).Canonical := h

theorem State.canonical_curatorFailed (c : Nat) : (s.curatorFailed c).Canonical := State.canonical_markFailed (by exact h) _ _

theorem State.canonical_failProc (p : Proc) : (s.failProc p).Canonical := by
  unfold State.failProc
  extract_lets s1 s2
  have h1 : s1.Canonical := State.canonical_event (State.canonical_countBeyond (State.canonical_onProc h p _)) _
  have h2 : s2.Canonical := by
    unfold s2
    clear_value s1
    cases p with
    | curator c => exact State.canonical_curatorFailed h1 c
    | bursar => exact State.canonical_onPower h1 _
    | registrar => exact State.canonical_startPkg h1 2
    | custodian => exact State.canonical_startPkg h1 3
  exact State.canonical_serveHeld h2

theorem watchdogStep_canonical (p : Proc) : (watchdogStep p s).Canonical := by
  unfold watchdogStep
  extract_lets last s1 now recent s2 fw s3 s4 s5
  have h1 : s1.Canonical := State.canonical_runTo h _
  clear_value s1
  have h2 : s2.Canonical := State.canonical_onProc h1 p _
  clear_value s2
  have h3 : s3.Canonical := h2
  have h4 : s4.Canonical := State.canonical_event (State.canonical_onStw h3 _) _
  clear_value s4
  have h5 : s5.Canonical := canonical_ite (State.canonical_onPower h4 _) h4
  exact canonical_ite h (canonical_ite (State.canonical_failProc h5 p) h5)

theorem State.canonical_registrarBack (from_ : Nat) : (s.registrarBack from_).Canonical := by
  unfold State.registrarBack
  extract_lets t0 b covered s1
  have h1 : s1.Canonical := h
  clear_value s1
  exact State.canonical_afterHub (canonical_foldl (fun _ p hu => State.canonical_payAborted (State.canonical_onPart hu p _) p) _ h1)

theorem State.canonical_lateHalt (c : Nat) : (s.lateHalt c).Canonical := by
  unfold State.lateHalt
  split
  · split
    · exact canonical_ite h (State.canonical_reap (by exact h) _)
    · exact h
  · exact h

theorem State.canonical_custodianBack : s.custodianBack.Canonical :=
  canonical_foldl (fun _ m hu => State.canonical_dieFailed hu m.1 m.2) s.panel.marks (s := { s with panel := { s.panel with marks := [] } }) h

theorem restartStep_canonical (p : Proc) : (restartStep p s).Canonical := by
  unfold restartStep
  extract_lets k s1 s2
  have h1 : s1.Canonical := State.canonical_onProc h p _
  have h2 : s2.Canonical := by
    unfold s2
    clear_value s1
    cases p with
    | registrar => exact State.canonical_registrarBack h1 _
    | curator c => exact State.canonical_lateHalt h1 c
    | custodian => exact State.canonical_custodianBack h1
    | bursar => exact h1
  exact canonical_ite h (canonical_ite (State.canonical_failProc h p) (State.canonical_serveHeld h2))

theorem restartExceedsStep_canonical (p : Proc) : (restartExceedsStep p s).Canonical := by
  unfold restartExceedsStep
  extract_lets k
  refine canonical_ite h (State.canonical_failProc ?_ p)
  exact State.canonical_runTo h _

end Steward

end Sys2Proof.Machine
end

section
/-!
Every step keeps the memories in canonical form: the remaining meanings, then the commands by the frames that their meanings write through,
and the statement itself.
-/
namespace Sys2Proof.Machine

/-! ### Dispatch, adds and parking (R187, R198 to R212) -/

section Clusters
variable {s : State} (h : s.Canonical)
include h

theorem State.canonical_setCl (c : Nat) (k : Cluster) : (s.setCl c k).Canonical := h

theorem State.canonical_haltCluster (c : Nat) (code : BitVec 16) (a : Addr) (fl : Flags) : (s.haltCluster c code a fl).Canonical :=
  State.canonical_onCl h c _

theorem State.canonical_toSlot (c : Nat) : (s.toSlot c).Canonical := State.canonical_runTo h _

theorem State.canonical_whenever {f : State → State} (hf : (f s).Canonical) (b : Bool) : (whenever b f s).Canonical := canonical_ite hf h

theorem dispatchStep_canonical (c : Nat) : (dispatchStep c s).Canonical := by
  fun_cases dispatchStep c s
  case case2 => exact State.canonical_setCl h c _
  case case5 => exact State.canonical_haltCluster h c _ _ _
  case case7 => exact State.canonical_setCl (State.canonical_toSlot h c) c _
  all_goals exact h

theorem State.canonical_signals (xs : List Signal) : ({ s with fabric := { s.fabric with signals := xs } } : State).Canonical := h

theorem claspAddStep_canonical (c k : Nat) (n : BitVec 16) : (claspAddStep c k n s).Canonical := by
  unfold claspAddStep
  extract_lets rest fabric u
  have hu : u.Canonical := State.canonical_signals h _
  clear_value u
  exact canonical_ite h (State.canonical_whenever hu (State.canonical_claspAdd hu c k _) _)

theorem tileClaspAddStep_canonical (c k : Nat) (n : W32) : (tileClaspAddStep c k n s).Canonical :=
  canonical_ite (State.canonical_respond (State.canonical_hostClaspAdd h c k _) _) (State.canonical_respond (State.canonical_hostError h 0 _) _)

theorem State.canonical_releasedSignal (prog : Nat) (x : HeldSignal) : (s.releasedSignal prog x).Canonical := State.canonical_signals h _

theorem signalReleaseStep_canonical (k : Nat) : (signalReleaseStep k s).Canonical := by
  fun_cases signalReleaseStep k s
  · exact h
  · exact State.canonical_releasedSignal (State.canonical_onHub h k _) _ _

theorem parkStep_canonical (c : Nat) : (parkStep c s).Canonical := by
  refine canonical_ite (State.canonical_onCl ?_ c _) h
  exact State.canonical_runTo h _

theorem wakeStep_canonical (c : Nat) : (wakeStep c s).Canonical := canonical_ite (State.canonical_setCl h c _) h

theorem retakeStep_canonical (k : Nat) : (retakeStep k s).Canonical := State.canonical_retake h k

end Clusters

/-! ### Writes of registers that are commands of their own -/

section Registers
variable {s : State} (h : s.Canonical)
include h

theorem stageCheckStep_canonical (r : StageSet) (v : W64) : (stageCheckStep r v s).Canonical :=
  State.canonical_writeRow h (State.canonical_stageCtl h r v) ..

theorem featAcceptStep_canonical (v : W64) : (featAcceptStep v s).Canonical := State.canonical_writeRow h (State.canonical_acceptWrite h 3 v) ..

theorem memcfgWriteStep_canonical (v : W32) : (memcfgWriteStep v s).Canonical := State.canonical_writeRow h (State.canonical_memcfgWrite h v) ..

theorem svnCommitStep_canonical (v : W64) : (svnCommitStep v s).Canonical := State.canonical_writeRow h (State.canonical_svnCommit h v) ..

theorem attestStep_canonical (op : BitVec 2) : (attestStep op s).Canonical := State.canonical_writeRow h (State.canonical_attestCtlWrite h _) ..

theorem lifecycleStep_canonical (v : W64) : (lifecycleStep v s).Canonical := State.canonical_writeRow h (State.canonical_lifecycleWrite h v) ..

theorem resetRequestStep_canonical (v : W64) : (resetRequestStep v s).Canonical := State.canonical_writeRow h (State.canonical_resetCtl h v) ..

theorem archiveReadStep_canonical (v : W64) : (archiveReadStep v s).Canonical :=
  State.canonical_writeRow h (State.canonical_archiveCtlWrite h v) ..

theorem resyncArmStep_canonical (v : W64) : (resyncArmStep v s).Canonical := State.canonical_writeRow h (State.canonical_resyncCtl h v) ..

end Registers

end Sys2Proof.Machine
end

section
/-!
O7, by the commands: what each frame takes from its step is canonical, or the frame leaves the memories alone.
-/
namespace Sys2Proof.Machine

/-! ### Rows -/

/-- An outcome that is a next state has memories in canonical form. -/
def KeepsCanonical (o : Host.Outcome State Fault Refusal) : Prop := ∀ t, o = .next t → t.Canonical

section Frames
variable {s t : State}

theorem keepsCanonical_next (ht : t.Canonical) : KeepsCanonical (.next t) := by
  rintro _ ⟨⟩
  exact ht

/-- A frame that writes through the memories of its step. -/
theorem keepsCanonical_core (ht : t.Canonical) : KeepsCanonical (.next (s.coreFrame t)) := keepsCanonical_next ht

theorem keepsCanonical_cur (ht : t.Canonical) : KeepsCanonical (.next (s.curFrame t)) := keepsCanonical_next ht

theorem keepsCanonical_task (ht : t.Canonical) : KeepsCanonical (.next (s.taskFrame t)) := keepsCanonical_next ht

theorem keepsCanonical_done (ht : t.Canonical) : KeepsCanonical (.next (s.doneFrame t)) := keepsCanonical_next ht

theorem keepsCanonical_admit (ht : t.Canonical) : KeepsCanonical (.next (s.admitFrame t)) := keepsCanonical_next ht

theorem keepsCanonical_stage (ht : t.Canonical) : KeepsCanonical (.next (s.stageFrame t)) := keepsCanonical_next ht

theorem keepsCanonical_archive (ht : t.Canonical) : KeepsCanonical (.next (s.archiveFrame t)) := keepsCanonical_next ht

theorem keepsCanonical_recover (ht : t.Canonical) : KeepsCanonical (.next (s.recoverFrame t)) := keepsCanonical_next ht

theorem keepsCanonical_reset (ht : t.Canonical) : KeepsCanonical (.next (s.resetFrame t)) := keepsCanonical_next ht

theorem keepsCanonical_steward (ht : t.Canonical) : KeepsCanonical (.next (s.stewardFrame t)) := keepsCanonical_next ht

/-- A frame that writes through the memories, of a step that what it completes follows. -/
theorem keepsCanonical_core_settle (ht : t.Canonical) : KeepsCanonical (.next (s.coreFrame t.settle)) :=
  keepsCanonical_core (State.canonical_settle ht)

theorem keepsCanonical_cur_settle (ht : t.Canonical) : KeepsCanonical (.next (s.curFrame t.settle)) :=
  keepsCanonical_cur (State.canonical_settle ht)

theorem keepsCanonical_task_settle (ht : t.Canonical) : KeepsCanonical (.next (s.taskFrame t.settle)) :=
  keepsCanonical_task (State.canonical_settle ht)

theorem keepsCanonical_admit_settle (ht : t.Canonical) : KeepsCanonical (.next (s.admitFrame t.settle)) :=
  keepsCanonical_admit (State.canonical_settle ht)

theorem keepsCanonical_recover_settle (ht : t.Canonical) : KeepsCanonical (.next (s.recoverFrame t.settle)) :=
  keepsCanonical_recover (State.canonical_settle ht)

theorem keepsCanonical_reset_settle (ht : t.Canonical) : KeepsCanonical (.next (s.resetFrame t.settle)) :=
  keepsCanonical_reset (State.canonical_settle ht)

theorem keepsCanonical_hubRow {f : State → State} (hf : (f s).Canonical) : KeepsCanonical (hubRow f s) :=
  keepsCanonical_task_settle (State.canonical_afterHub hf)

variable (h : s.Canonical)
include h

theorem keepsCanonical_formed (ht : t.Canonical) (ok : Bool) : KeepsCanonical (formed ok s t) := keepsCanonical_next (canonical_ite ht h)

theorem keepsCanonical_packetRow {f : State → State} (k : Nat) (a : Arrival) (hf : (f s).Canonical) : KeepsCanonical (packetRow k a f s) :=
  keepsCanonical_formed h (t := s.packetFrame (f s).settle) (State.canonical_settle hf) _

/-- A packet of which only the landing is its own. -/
theorem keepsCanonical_landingRow {f : State → State} (k : Nat) (a : Arrival) (hf : ∀ u : State, u.Canonical → (f u).Canonical) :
    KeepsCanonical (packetRow k a (fun s => s.receive a f) s) := keepsCanonical_packetRow h k a (State.canonical_receive h hf a)

/-- A SYSTEM packet of a member's loss or return. -/
theorem keepsCanonical_recoverRow (k : Nat) (a : Arrival) (ht : t.Canonical) : KeepsCanonical (systemRow k a s (s.recoverFrame t.settle)) :=
  keepsCanonical_formed h (t := s.recoverFrame t.settle) (State.canonical_settle ht) _

/-- A message of staged commit. -/
theorem keepsCanonical_stageRow (k : Nat) (a : Arrival) (ht : t.Canonical) : KeepsCanonical (systemRow k a s (s.stageFrame t)) :=
  keepsCanonical_formed h (t := s.stageFrame t) ht _

/-- A frame that leaves the memories alone. -/
theorem keepsCanonical_meshFormed (ok : Bool) : KeepsCanonical (formed ok s (s.meshFrame t)) :=
  keepsCanonical_formed h (t := s.meshFrame t) h ok

theorem keepsCanonical_timeRow (k : Nat) (a : Arrival) : KeepsCanonical (systemRow k a s (s.timeFrame t)) :=
  keepsCanonical_formed h (t := s.timeFrame t) h _

theorem keepsCanonical_coreFormed (ok : Bool) (ht : t.Canonical) : KeepsCanonical (formed ok s (s.coreFrame t)) :=
  keepsCanonical_formed h (t := s.coreFrame t) ht ok

end Frames

/-! ### All commands -/

section Exec
variable {s : State} (h : s.Canonical)
include h

theorem exec_keepsCanonical : ∀ i : Instr, KeepsCanonical (exec i s)
  -- the engines, the copy unit and the memory units
  | .mma c => keepsCanonical_core_settle (mmaStep_canonical h c.val)
  | .mmaComputeEnd c => keepsCanonical_core_settle (computeEndStep_canonical h c.val)
  | .mmaEpilogueEnd c => keepsCanonical_core_settle (epilogueEndStep_canonical h c.val)
  | .vop c => keepsCanonical_core_settle (vecStep_canonical h (vopPlan_canonical c.val) ..)
  | .vfunc c => keepsCanonical_core_settle (vfuncStep_canonical h c.val)
  | .funcLoadResident c => keepsCanonical_core (loadResident_canonical h c.val)
  | .vrowstat c => keepsCanonical_core_settle (vecStep_canonical h (vrowstatPlan_canonical c.val) ..)
  | .vnormFwd c => keepsCanonical_core_settle (vecStep_canonical h (vnormFwdPlan_canonical c.val) ..)
  | .vnormBwd c => keepsCanonical_core_settle (vecStep_canonical h (vnormBwdPlan_canonical c.val) ..)
  | .vsoftmaxFwd c => keepsCanonical_core_settle (vecStep_canonical h (vsoftmaxFwdPlan_canonical c.val) ..)
  | .vsoftmaxBwd c => keepsCanonical_core_settle (vecStep_canonical h (vsoftmaxBwdPlan_canonical c.val) ..)
  | .vconv c => keepsCanonical_core_settle (vecStep_canonical h (vconvPlan_canonical c.val) ..)
  | .copy c => keepsCanonical_core_settle (copyStep_canonical h (copyPlan_canonical c.val) ..)
  | .copy2d c => keepsCanonical_core_settle (copyStep_canonical h (copy2dPlan_canonical c.val) ..)
  | .copyt c => keepsCanonical_core_settle (copyStep_canonical h (copytPlan_canonical c.val) ..)
  | .reblock c => keepsCanonical_core_settle (copyStep_canonical h (reblockPlan_canonical c.val) ..)
  | .gather c => keepsCanonical_core_settle (copyStep_canonical h (gatherPlan_canonical c.val) ..)
  | .scatter c => keepsCanonical_core_settle (copyStep_canonical h (scatterPlan_canonical c.val) ..)
  | .clusterPark c => keepsCanonical_core (parkStep_canonical h c.val)
  | .clusterWake c => keepsCanonical_core (wakeStep_canonical h c.val)
  | .hbmScrubBlock m => keepsCanonical_core_settle (hbmScrubBlockStep_canonical h m.val)
  | .mergeCommit b => keepsCanonical_coreFormed h _ (State.canonical_settle (mergeCommitStep_canonical h b))
  | .carrelScrubRow st bank => keepsCanonical_coreFormed h _ (State.canonical_settle (carrelScrubRowStep_canonical h st bank.val))
  | .requestAgeBlock _ _ _ => keepsCanonical_coreFormed h _ (requestAgeBlockStep_canonical h _)
  -- the Curator, completions and adds
  | .folioFetch c => keepsCanonical_cur_settle (folioFetchStep_canonical h c.val)
  | .curatorDispatch c => keepsCanonical_cur (dispatchStep_canonical h c.val)
  | .wait c => keepsCanonical_cur (waitStep_canonical h c.val)
  | .signal c => keepsCanonical_cur (signalStep_canonical h c.val)
  | .fence c => keepsCanonical_cur (fenceStep_canonical h c.val)
  | .fenceSatisfied c => keepsCanonical_cur (fenceSatisfiedStep_canonical h c.val)
  | .call c => keepsCanonical_cur (callStep_canonical h c.val)
  | .timeat c => keepsCanonical_cur (timeatStep_canonical h c.val)
  | .timeatResume c => keepsCanonical_cur (timeatResumeStep_canonical h c.val)
  | .end_ c => keepsCanonical_cur (endStep_canonical h c.val)
  | .clusterPartEnd c => keepsCanonical_task_settle (partEndStep_canonical h c.val)
  | .commandComplete c x => keepsCanonical_task_settle (completeStep_canonical h c.val x)
  | .haltReport c => keepsCanonical_task_settle (haltReportStep_canonical h c.val)
  | .claspAdd c k n => keepsCanonical_done (claspAddStep_canonical h c.val k.val n)
  | .tileClaspAdd c k n => keepsCanonical_done (tileClaspAddStep_canonical h c.val k.val n)
  | .signalRelease k => keepsCanonical_done (signalReleaseStep_canonical h k.val)
  -- the hubs
  | .redOpen c => keepsCanonical_hubRow (redOpenStep_canonical h c.val)
  | .redContrib c => keepsCanonical_hubRow (contribStep_canonical h 0xD1 c.val)
  | .redContribTopk c => keepsCanonical_hubRow (contribStep_canonical h 0xD2 c.val)
  | .redWait c => keepsCanonical_hubRow (redWaitStep_canonical h c.val)
  | .ringPass c => keepsCanonical_hubRow (ringPassStep_canonical h c.val)
  | .send c => keepsCanonical_hubRow (sendStep_canonical h c.val)
  | .recv c => keepsCanonical_hubRow (recvStep_canonical h c.val)
  | .updApply c => keepsCanonical_hubRow (updApplyStep_canonical h c.val)
  | .waitingBindingCheck desc => keepsCanonical_hubRow (waitingCheckStep_canonical h desc)
  | .updInstall c => keepsCanonical_hubRow (updInstallStep_canonical h c.val)
  | .stepCloseBegin q p => keepsCanonical_hubRow (stepCloseStep_canonical h q.val p.val)
  | .bindingClose q => keepsCanonical_hubRow (bindingCloseStep_canonical h q.val)
  | .loggedUnitRetake k => keepsCanonical_hubRow (retakeStep_canonical h k.val)
  | .preopenExpire k => keepsCanonical_hubRow (preopenExpireStep_canonical h k.val)
  | .contextDeadline q => keepsCanonical_hubRow (contextDeadlineStep_canonical h q.val)
  -- the Registrar, staged commit and the archive
  | .submissionRingRead q => keepsCanonical_admit_settle (submissionRingReadStep_canonical h q.val)
  | .admissionDecision q => keepsCanonical_admit_settle (admissionDecisionStep_canonical h q.val)
  | .deadlineMiss q => keepsCanonical_admit_settle (deadlineMissStep_canonical h q.val)
  | .programSwitch q => keepsCanonical_admit_settle (programSwitchStep_canonical h q.val)
  | .switchComplete q => keepsCanonical_admit_settle (switchCompleteStep_canonical h q.val)
  | .taskStart q => keepsCanonical_admit_settle (taskStartStep_canonical h q.val)
  | .stageCheck r v => keepsCanonical_stage (State.canonical_settle (stageCheckStep_canonical h r v))
  | .stageDecision id => keepsCanonical_stage (stageDecisionStep_canonical h id)
  | .stageApply r => keepsCanonical_stage (State.canonical_settle (stageApplyStep_canonical h r))
  | .stageReport a => keepsCanonical_stageRow h 2 a (stageReportStep_canonical h a)
  | .stageGo a => keepsCanonical_stageRow h 3 a (stageGoStep_canonical h a)
  | .stageAbandon a => keepsCanonical_stageRow h 4 a (stageAbandonStep_canonical h a)
  | .archiveRead v => keepsCanonical_archive (archiveReadStep_canonical h v)
  | .archiveCopyDone => keepsCanonical_archive (State.canonical_settle (archiveCopyDoneStep_canonical h))
  | .archiveUnitTimeout pkg q before scanOk => keepsCanonical_archive (archiveTimeoutStep_canonical h pkg q.val before scanOk)
  -- packets
  | .write a => keepsCanonical_landingRow h 0 a fun _ hu => State.canonical_landWrite hu _ _
  | .readReq a => keepsCanonical_packetRow h 1 a (readReqStep_canonical h a)
  | .readRsp a => keepsCanonical_landingRow h 2 a fun _ hu => State.canonical_landReadRsp hu _ _
  | .remoteSignal a => keepsCanonical_packetRow h 3 a (remoteSignalStep_canonical h a)
  | .contrib a => keepsCanonical_packetRow h 4 a (reductionStep_canonical h a)
  | .contribTopk a => keepsCanonical_packetRow h 5 a (reductionStep_canonical h a)
  | .fragment a => keepsCanonical_packetRow h 6 a (reductionStep_canonical h a)
  | .result a => keepsCanonical_packetRow h 7 a (reductionStep_canonical h a)
  | .twin a => keepsCanonical_packetRow h 8 a (reductionStep_canonical h a)
  | .credit a => keepsCanonical_landingRow h 10 a fun _ hu => hu
  -- the loss and the return of members
  | .linkDown l last => keepsCanonical_recover_settle (linkDownStep_canonical h l.val last)
  | .rejoinRelease j => keepsCanonical_recover_settle (rejoinReleaseStep_canonical h j.val)
  | .resyncArm v => keepsCanonical_recover_settle (resyncArmStep_canonical h v)
  | .resyncCopyDone => keepsCanonical_recover_settle (resyncCopyDoneStep_canonical h)
  | .memberDown a => keepsCanonical_recoverRow h 0x10 a (memberDownStep_canonical h a)
  | .memberDownProxy a => keepsCanonical_formed h (t := s.resetFrame _) (State.canonical_settle (memberDownProxyStep_canonical h a)) _
  | .memberUp a => keepsCanonical_recoverRow h 0x12 a (memberUpStep_canonical h a)
  | .resyncReq a => keepsCanonical_recoverRow h 0x13 a (resyncReqStep_canonical h a)
  | .resyncReady a => keepsCanonical_recoverRow h 0x14 a (resyncReadyStep_canonical h a)
  | .resyncDone a => keepsCanonical_recoverRow h 0x15 a (resyncDoneStep_canonical h a)
  -- resets, power, registers and processors
  | .powerOn => keepsCanonical_reset (powerOnStep_canonical h)
  | .vinSample a b => keepsCanonical_reset (vinSampleStep_canonical h a b)
  | .pkgResetPin => keepsCanonical_reset (pkgResetPinStep_canonical h)
  | .thermalSample e => keepsCanonical_reset (thermalSampleStep_canonical h (wholeSample e))
  | .partitionResetRequest v => keepsCanonical_reset (resetRequestStep_canonical h v)
  | .packageResetRequest v => keepsCanonical_reset (resetRequestStep_canonical h v)
  | .partitionResetPhaseEnd q o => keepsCanonical_reset_settle (partPhaseStep_canonical h q.val o)
  | .packageResetPhaseEnd o => keepsCanonical_reset_settle (pkgPhaseStep_canonical h o)
  | .lifecycleRequest v => keepsCanonical_reset (lifecycleStep_canonical h v)
  | .registerWrite w => keepsCanonical_reset_settle (State.canonical_access h (regWriteReq w))
  | .hostAccess r => keepsCanonical_reset_settle (State.canonical_access h (wholeReq r))
  | .watchdogExpire p => keepsCanonical_reset_settle (watchdogStep_canonical h p)
  | .restartComplete p => keepsCanonical_reset_settle (restartStep_canonical h p)
  | .restartExceedsBound p => keepsCanonical_reset_settle (restartExceedsStep_canonical h p)
  -- the steward
  | .featAcceptWrite v => keepsCanonical_steward (featAcceptStep_canonical h v)
  | .memcfgWrite v => keepsCanonical_steward (memcfgWriteStep_canonical h v)
  | .svnCommit v => keepsCanonical_steward (svnCommitStep_canonical h v)
  | .svnCommitDone => keepsCanonical_steward (svnDoneStep_canonical h)
  | .report => keepsCanonical_steward (attestStep_canonical h 1)
  | .extend => keepsCanonical_steward (attestStep_canonical h 2)
  | .certs => keepsCanonical_steward (attestStep_canonical h 3)
  | .attestOpDone => keepsCanonical_steward (State.canonical_settle (attestDoneStep_canonical h))
  | .ucieModuleDown m => keepsCanonical_steward (ucieDownStep_canonical h m.val)
  -- frames that leave the memories alone
  | .ringConfigWrite _ _ _ | .powerCapWrite _ | .bursarPowerMeasure _ | .reweightDrainEnd _ | .laneRepairRecord | .beaconSend _
  | .beacon _ _ _ | .trainingTimeout _ | .absentRetrain _ | .linkRejoinDrainEnd _ | .epochGraceEnd _ | .timeSyncSend | .ppsEdge _
  | .ptpMeasurement _ | .timeSet _ | .syncLossHoldover | .holdoverExpire | .refLossTimeout | .referenceLost | .pkgResetNRelease =>
    keepsCanonical_next h
  | .flitReceive _ _ _ _ | .laneFailure _ _ _ _ | .laneReplaced _ _ _ | .sliceRetire _ _ => keepsCanonical_meshFormed h _
  | .timeSync a => keepsCanonical_timeRow h 1 a

end Exec

theorem step_keepsCanonical {s : State} (h : s.Canonical) : KeepsCanonical (step s) := by
  cases hq : s.pending with
  | nil =>
    rw [step_of_empty hq]
    exact keepsCanonical_next (State.canonical_runTo h _)
  | cons i rest =>
    rw [step_of_cons hq]
    exact exec_keepsCanonical (s := { s with pending := rest }) h i

/-- Settles O7: every command's step leaves canonical memories canonical, and its frame takes the memories of the step or leaves them. -/
theorem everyStepKeepsTheMemoryCanonical : Obligations.EveryStepKeepsTheMemoryCanonical := by
  unfold Obligations.EveryStepKeepsTheMemoryCanonical
  intro s t h hstep
  exact step_keepsCanonical h t hstep

end Sys2Proof.Machine
end
